-- ==== Sys2Proof/Word.lean ====
section
/-!
DEFINITION. The word types of the machine: bytes, 32-bit and 64-bit register words, and the 96-bit instruction slot
(03_instruction_formats.md R65, R73, R87). Nothing here computes; bit-field helpers stand in Machine/Bits.lean.
-/
namespace Sys2Proof

/-- One byte of memory. -/
abbrev Byte := BitVec 8

/-- A 32-bit word: one V register of one thread (R87). -/
abbrev Word := BitVec 32

/-- A 64-bit word: an S register, a PC, a virtual address (R69, R87, R225). -/
abbrev DWord := BitVec 64

/-- One instruction slot of a line (R65). -/
abbrev Slot := BitVec 96

/-- A 9-bit register field (R87). -/
abbrev RegCode := BitVec 9

/-- A mask of the 32 lanes of a wave; bit i is lane i (R25). -/
abbrev LaneMask := BitVec 32

end Sys2Proof
end

