-- ==== Sys2Proof/Syntax.lean ====
section
/-!
DEFINITION. The syntax of the machine: the six instruction formats, the names of waves, teams and grids that machine
events speak of, the header of a host command, and the ONE inductive of operations, one constructor for each row of
the opcode table: the instructions a thread issues, the host's commands and the machine's own events.
-/
namespace Sys2Proof

/-- The common header above `OPC`: empty-source mode, guard negate, guard predicate (R73). -/
structure Hdr where
  fe : BitVec 3
  gn : Bool
  g : BitVec 3
  deriving DecidableEq, Repr

/-- Format R (R77). `mode` is the field `MOD`. -/
structure FmtR where
  h : Hdr
  d : RegCode
  a : RegCode
  b : RegCode
  c : RegCode
  ty : BitVec 8
  mode : BitVec 4
  fn : BitVec 6
  deriving DecidableEq, Repr

/-- Format I (R78). -/
structure FmtI where
  h : Hdr
  d : RegCode
  a : RegCode
  ty : BitVec 8
  mode : BitVec 4
  fn : BitVec 6
  imm : BitVec 32
  deriving DecidableEq, Repr

/-- Format M (R79). -/
structure FmtM where
  h : Hdr
  ds : RegCode
  ab : RegCode
  ai : RegCode
  sc : BitVec 3
  ord : BitVec 3
  rd : BitVec 4
  rep : Bool
  sp : BitVec 3
  wd : BitVec 4
  off : BitVec 32
  deriving DecidableEq, Repr

/-- Format X (R81). -/
structure FmtX where
  h : Hdr
  d : RegCode
  a : RegCode
  b : RegCode
  c : RegCode
  fn : BitVec 8
  px : BitVec 8
  py : BitVec 8
  pb : BitVec 4
  imm8 : BitVec 8
  deriving DecidableEq, Repr

/-- Format B (R82). -/
structure FmtB where
  h : Hdr
  u : Bool
  loff : BitVec 21
  slot : BitVec 3
  a : RegCode
  j : BitVec 4
  bound : BitVec 32
  deriving DecidableEq, Repr

/-- Format W (R83). -/
structure FmtW where
  h : Hdr
  wd : BitVec 5
  wa : BitVec 5
  wb : BitVec 5
  wc : BitVec 5
  vs : RegCode
  fn : BitVec 6
  mode : BitVec 4
  deriving DecidableEq, Repr

/-- A grid: a context's ASID and the launch number within it (R345). -/
structure GridId where
  asid : Nat
  lseq : Nat
  deriving DecidableEq, Repr

/-- A team of a grid; `copy` is 1 for the second copy of a redundant team (R299), 0 otherwise. -/
structure TeamId where
  grid : GridId
  team : Nat
  copy : Nat
  deriving DecidableEq, Repr

/-- A wave of a team by its `WAVE` index; 32 is the lead thread (R26). -/
structure WaveId where
  team : TeamId
  wave : Nat
  deriving DecidableEq, Repr

/-- A DRAM row (R221). -/
structure RowId where
  stack : Nat
  channel : Nat
  pseudo : Nat
  bank : Nat
  row : Nat
  deriving DecidableEq, Repr

/-- What a request received over UALink asks for (R304). -/
inductive UalKind where
  | read
  | write
  | atomic (op : Nat) (signed : Bool)
  | other
  deriving DecidableEq, Repr

/-- A request received on a UALink port (R304): a physical address, a length in bytes and the data it carries. -/
structure UalRequest where
  port : Nat
  kind : UalKind
  addr : Nat
  len : Nat
  data : List Byte
  deriving DecidableEq, Repr

/-- A unit that acknowledges a stop to the collector (R349). -/
inductive UnitId where
  | issue (core bay : Nat)
  | array (core bay : Nat)
  | copy (core : Nat)
  | collective (die : Nat)
  | placement (die : Nat)
  | ray (core bay : Nat)
  | texture (core bay : Nat)
  deriving DecidableEq, Repr

/-- The header of a command message (R354); `spare` gathers its reserved bits. -/
structure CmdHeader where
  cmd : BitVec 8
  queue : BitVec 4
  asid : BitVec 11
  pkg : Bool
  length : BitVec 32
  tag : BitVec 32
  spare : BitVec 168
  deriving DecidableEq, Repr

/-- The operations of the machine, one constructor per row of spec/opcode_table.json: instructions carry their format's
fields, commands their header and the 64-bit words of their body (R357), events the unit or piece of work concerned. -/
inductive Instr where
  /-- `NOP` (R460). Advances the PC of every thread of the group with no other effect. -/
  | nop (f : FmtR)
  /-- `EXIT` (R414). Ends each thread of the group whose guard is true, retiring the wave when its last thread ends. -/
  | exit (f : FmtR)
  /-- `YIELD` (R503). Advances the PC and marks the wave yielded so that the issue stage may exchange it for a ready paddock wave. -/
  | yield (f : FmtR)
  /-- `BRA` (R393). Transfers each active thread to the direct target when its condition is true, allowing divergence. -/
  | bra (f : FmtB)
  /-- `BRU` (R393). Transfers the whole group together on a uniform condition. -/
  | bru (f : FmtB)
  /-- `CALL` (R393). Writes the next PC to a link register and transfers to the direct target. -/
  | call (f : FmtB)
  /-- `RET` (R472). Sets each active lane's PC to its link value without a TGT check. -/
  | ret (f : FmtB)
  /-- `JMPI` (R438). Transfers each active lane to a register-held target PC after checking the target's TGT bit. -/
  | jmpi (f : FmtB)
  /-- `RCVSET` (R40). Sets a join barrier's expected set to the executing threads and clears its arrivals, ends and broken bit. -/
  | rcvset (f : FmtB)
  /-- `RCV` (R41). Arrives at a join barrier, waiting for release or passing at once, and sets the bound at an episode's first arrival. -/
  | rcv (f : FmtB)
  /-- `LAUNCH` (R441). Lets the team leader start a child grid from a launch record in memory, once the command processor accepts it. -/
  | launch (f : FmtR)
  /-- `AGEN` (R378). Writes the effective address of a format M operand to a register without any memory access or check. -/
  | agen (f : FmtM)
  /-- `AND` (R379). Writes the bitwise AND of two integer sources. -/
  | andR (f : FmtR)
  /-- `AND_IMM` (R103). Writes the bitwise AND of a source and an immediate. -/
  | andImm (f : FmtI)
  /-- `BFI` (R380). Inserts the low bits of one source into a bit field of another. -/
  | bfi (f : FmtR)
  /-- `BFX` (R380). Extracts a bit field, zero- or sign-extended by type. -/
  | bfx (f : FmtR)
  /-- `BREV` (R379). Reverses the bit order of a source. -/
  | brev (f : FmtR)
  /-- `BSEL` (R379). Selects bits from two sources under a mask. -/
  | bsel (f : FmtR)
  /-- `CLZ` (R379). Counts the leading zero bits of a source. -/
  | clz (f : FmtR)
  /-- `IABS` (R434). Writes the absolute value of a signed integer, optionally saturated. -/
  | iabs (f : FmtR)
  /-- `IADD` (R434). Adds two integers, wrapping or saturating. -/
  | iadd (f : FmtR)
  /-- `IADD_IMM` (R103). Adds an immediate to an integer source. -/
  | iaddImm (f : FmtI)
  /-- `ISUB` (R434). Subtracts two integers, wrapping or saturating. -/
  | isub (f : FmtR)
  /-- `ISUB_IMM` (R103). Subtracts an immediate from an integer source. -/
  | isubImm (f : FmtI)
  /-- `IMUL` (R434). Multiplies two integers, keeping the low bits or saturating. -/
  | imul (f : FmtR)
  /-- `IMUL_IMM` (R103). Multiplies an integer source by an immediate. -/
  | imulImm (f : FmtI)
  /-- `IMULH` (R434). Writes the upper half of the exact product. -/
  | imulh (f : FmtR)
  /-- `IMULH_IMM` (R103). Writes the upper half of the product of a source and an immediate. -/
  | imulhImm (f : FmtI)
  /-- `IMAD` (R434). Computes a times b plus c, reduced once. -/
  | imad (f : FmtR)
  /-- `IMAX` (R434). Writes the larger of two integers in the type's order. -/
  | imax (f : FmtR)
  /-- `IMAX_IMM` (R103). Writes the larger of a source and an immediate. -/
  | imaxImm (f : FmtI)
  /-- `IMIN` (R434). Writes the smaller of two integers in the type's order. -/
  | imin (f : FmtR)
  /-- `IMIN_IMM` (R103). Writes the smaller of a source and an immediate. -/
  | iminImm (f : FmtI)
  /-- `IDIV` (R434). Writes the quotient rounded towards zero, with the divide-by-zero results of R116. -/
  | idiv (f : FmtR)
  /-- `IDIV_IMM` (R103). Divides an integer source by an immediate. -/
  | idivImm (f : FmtI)
  /-- `IREM` (R434). Writes the remainder of integer division. -/
  | irem (f : FmtR)
  /-- `IREM_IMM` (R103). Writes the remainder of division by an immediate. -/
  | iremImm (f : FmtI)
  /-- `ICMP` (R435). Compares two integers into a predicate and an optional mask register. -/
  | icmp (f : FmtR)
  /-- `ICMP_IMM` (R435). Compares an integer source with an immediate into a predicate. -/
  | icmpImm (f : FmtI)
  /-- `MOV` (R456). Copies a register or special to the destination. -/
  | mov (f : FmtR)
  /-- `MOV_FIRST` (R456). Copies the lowest active lane's value to an S register. -/
  | movFirst (f : FmtR)
  /-- `MOVI` (R456). Writes an immediate to the destination. -/
  | movi (f : FmtI)
  /-- `MOVI_HI` (R456). Writes an immediate to bits 63:32 of a 64-bit destination. -/
  | moviHi (f : FmtI)
  /-- `OR` (R456). Writes the bitwise OR of two sources. -/
  | orR (f : FmtR)
  /-- `OR_IMM` (R103). Writes the bitwise OR of a source and an immediate. -/
  | orImm (f : FmtI)
  /-- `POPC` (R456). Counts the set bits of a source. -/
  | popc (f : FmtR)
  /-- `ROT` (R456). Rotates a source left by a count modulo the width. -/
  | rot (f : FmtR)
  /-- `ROT_IMM` (R103). Rotates a source left by an immediate count. -/
  | rotImm (f : FmtI)
  /-- `SEL` (R477). Selects one of two sources by a predicate. -/
  | sel (f : FmtR)
  /-- `SHL` (R477). Shifts left, giving 0 for counts of the width or more. -/
  | shl (f : FmtR)
  /-- `SHL_IMM` (R103). Shifts left by an immediate count. -/
  | shlImm (f : FmtI)
  /-- `SHR` (R477). Shifts right logically. -/
  | shr (f : FmtR)
  /-- `SHR_IMM` (R103). Shifts right logically by an immediate count. -/
  | shrImm (f : FmtI)
  /-- `SRA` (R477). Shifts right arithmetically. -/
  | sra (f : FmtR)
  /-- `SRA_IMM` (R103). Shifts right arithmetically by an immediate count. -/
  | sraImm (f : FmtI)
  /-- `XOR` (R477). Writes the bitwise XOR of two sources. -/
  | xorR (f : FmtR)
  /-- `XOR_IMM` (R103). Writes the bitwise XOR of a source and an immediate. -/
  | xorImm (f : FmtI)
  /-- `CVT` (R407). Converts between number formats with the rounding, saturation or stochastic rounding in MOD. -/
  | cvt (f : FmtR)
  /-- `FADD` (R420). Adds two floats with one rounding. -/
  | fadd (f : FmtR)
  /-- `FADD_IMM` (R103). Adds a float immediate to a source. -/
  | faddImm (f : FmtI)
  /-- `FSUB` (R420). Subtracts two floats with one rounding. -/
  | fsub (f : FmtR)
  /-- `FSUB_IMM` (R103). Subtracts a float immediate from a source. -/
  | fsubImm (f : FmtI)
  /-- `FMUL` (R420). Multiplies two floats with one rounding. -/
  | fmul (f : FmtR)
  /-- `FMUL_IMM` (R103). Multiplies a source by a float immediate. -/
  | fmulImm (f : FmtI)
  /-- `FDIV` (R420). Divides two floats with one rounding. -/
  | fdiv (f : FmtR)
  /-- `FDIV_IMM` (R103). Divides a source by a float immediate. -/
  | fdivImm (f : FmtI)
  /-- `FFMA` (R420). Computes a times b plus c with one rounding. -/
  | ffma (f : FmtR)
  /-- `FMAX` (R421). Writes the larger float operand, ordering -0 below +0. -/
  | fmax (f : FmtR)
  /-- `FMAX_IMM` (R103). Writes the larger of a source and a float immediate. -/
  | fmaxImm (f : FmtI)
  /-- `FMIN` (R421). Writes the smaller float operand. -/
  | fmin (f : FmtR)
  /-- `FMIN_IMM` (R103). Writes the smaller of a source and a float immediate. -/
  | fminImm (f : FmtI)
  /-- `FCMP` (R422). Compares two floats into a predicate and an optional mask register. -/
  | fcmp (f : FmtR)
  /-- `FCMP_IMM` (R103). Compares a float source with an immediate. -/
  | fcmpImm (f : FmtI)
  /-- `FRND` (R424). Rounds a float to an integral value in the mode of MOD. -/
  | frnd (f : FmtR)
  /-- `FSQRT` (R423). Writes the correctly rounded square root. -/
  | fsqrt (f : FmtR)
  /-- `FRCP` (R423). Writes the correctly rounded reciprocal. -/
  | frcp (f : FmtR)
  /-- `FRSQ` (R423). Writes the correctly rounded reciprocal square root. -/
  | frsq (f : FmtR)
  /-- `FEXP2` (R423). Writes the correctly rounded power of two. -/
  | fexp2 (f : FmtR)
  /-- `FLOG2` (R423). Writes the correctly rounded base-2 logarithm. -/
  | flog2 (f : FmtR)
  /-- `FSIN` (R423). Writes the correctly rounded sine. -/
  | fsin (f : FmtR)
  /-- `FCOS` (R423). Writes the correctly rounded cosine. -/
  | fcos (f : FmtR)
  /-- `FTSUM` (R425). Writes the rounded sum of two F32 values and its exact error. -/
  | ftsum (f : FmtR)
  /-- `PFMA` (R426). Performs two packed 16-bit fused multiply-adds. -/
  | pfma (f : FmtR)
  /-- `MUEL` (R136). Applies one Mueller matrix per wavelength, read from scratch, to a polarised packet. -/
  | muel (f : FmtW)
  /-- `WADD` (R496). Adds two spectral packets elementwise. -/
  | wadd (f : FmtW)
  /-- `WMUL` (R496). Multiplies two spectral packets elementwise. -/
  | wmul (f : FmtW)
  /-- `WFMA` (R496). Performs an elementwise fused multiply-add on packets. -/
  | wfma (f : FmtW)
  /-- `WSCAL` (R496). Scales a packet by a scalar. -/
  | wscal (f : FmtW)
  /-- `WEXP` (R498). Writes the correctly rounded exp(-a*s) of each element. -/
  | wexp (f : FmtW)
  /-- `WSPAN` (R135). Writes eight stratified wavelengths from a uniform sample. -/
  | wspan (f : FmtW)
  /-- `WSUM` (R133). Sums a packet's eight elements in the fixed tree. -/
  | wsum (f : FmtW)
  /-- `WDOT` (R133). Forms the dot product of two packets in the fixed tree. -/
  | wdot (f : FmtW)
  /-- `FACC` (R160). Adds one F32 value per lane into a compensated film record at the memory side. -/
  | facc (f : FmtX)
  /-- `LEAFX` (R448). Runs the leaf test on register operands and writes t, u, v and the hit word. -/
  | leafx (f : FmtR)
  /-- `TEX` (R490). Issues a spectral texture sample, reading the descriptor and classifying each lane's footprint. -/
  | tex (f : FmtX)
  /-- `TEXQ` (R145). Atomically exchanges a word of re-shade marks with zero and returns it. -/
  | texq (f : FmtX)
  /-- `TEXQ_READ` (R145). Returns a word of re-shade marks without clearing it. -/
  | texqRead (f : FmtX)
  /-- `TRACE` (R154). Starts a hierarchy walk in the ray unit in closest-hit or any-hit mode. -/
  | trace (f : FmtX)
  /-- `LD` (R444). Issues a load from global, scratch or accumulator space and marks its destinations empty. -/
  | ld (f : FmtM)
  /-- `ST` (R487). Stores each active lane's bytes to global, scratch or accumulator space. -/
  | st (f : FmtM)
  /-- `ATOM` (R383). Performs an atomic read-modify-write per lane in ascending lane order, optionally returning the old value. -/
  | atom (f : FmtM)
  /-- `CAS` (R383). Performs an atomic compare-and-swap per lane. -/
  | cas (f : FmtM)
  /-- `FENCE` (R429). Acts as an acquire, release or acquire-release fence of its scope. -/
  | fence (f : FmtM)
  /-- `FENCE_WALK` (R232). Holds the thread until its page-table stores are visible to every walk and stale TLB entries are gone. -/
  | fenceWalk (f : FmtM)
  /-- `CFLUSH` (R395). Removes or writes back cache lines of a range, changing only timing. -/
  | cflush (f : FmtM)
  /-- `PREF` (R446). Prefetches lines into L1 or the home L2 in the FILL class. -/
  | pref (f : FmtM)
  /-- `MCST` (R453). Stores to the same global element of every replica along the R axes of a placement entry. -/
  | mcst (f : FmtM)
  /-- `PLD_CONV` (R464). Demands a placement state for an entry, numbering or merging a conversion. -/
  | pldConv (f : FmtX)
  /-- `PLD_RED` (R465). Returns each lane's element combined over the entry's partial axes. -/
  | pldRed (f : FmtX)
  /-- `COLL` (R397). Hands a collective block to the collective engine once it is accepted. -/
  | coll (f : FmtX)
  /-- `COPY` (R399). Checks two tensor descriptors and hands a transfer to a copy engine. -/
  | copy (f : FmtX)
  /-- `GATH` (R431). Hands a gather transfer through a source index tensor to a copy engine. -/
  | gath (f : FmtX)
  /-- `SCAT` (R476). Hands a scatter transfer through a destination index tensor to a copy engine. -/
  | scat (f : FmtX)
  /-- `SCAT_ADD` (R476). Hands a scatter-add transfer to a copy engine, deferred at D1 and above. -/
  | scatAdd (f : FmtX)
  /-- `CSIG` (R402). Posts an addition to a completion object after the wave's earlier transfers to that engine. -/
  | csig (f : FmtX)
  /-- `CSIG_NODE` (R402). Posts one decrement to a graph slot after the wave's earlier transfers to that engine. -/
  | csigNode (f : FmtX)
  /-- `CTEST` (R404). Reads a completion object as a DEVICE-scope acquire. -/
  | ctest (f : FmtM)
  /-- `CWAIT` (R404). Blocks the thread until a completion object reaches a threshold. -/
  | cwait (f : FmtM)
  /-- `NODE` (R459). Enters a node descriptor into a core's dependence-graph table. -/
  | node (f : FmtX)
  /-- `PLACE_SET` (R462). Writes a placement entry from a memory image. -/
  | placeSet (f : FmtX)
  /-- `PLACE_GET` (R462). Writes a placement entry's current contents to a memory image. -/
  | placeGet (f : FmtX)
  /-- `MWL` (R174). Stages a weight quarter and its scales for a weight slot. -/
  | mwl (f : FmtX)
  /-- `MMAC` (R182). Posts a multiply-accumulate entry bound to a weight generation into the matrix FIFO. -/
  | mmac (f : FmtX)
  /-- `MZERO` (R183). Posts an entry that clears the active lanes' rows of a tile. -/
  | mzero (f : FmtX)
  /-- `MDRN` (R185). Posts an entry that drains a tile through a drain descriptor. -/
  | mdrn (f : FmtX)
  /-- `VXM` (R186). Posts a vector-times-matrix entry reading weights from memory. -/
  | vxm (f : FmtX)
  /-- `BAR` (R389). Arrives at a team barrier and waits for its release. -/
  | bar (f : FmtR)
  /-- `BAR_ARV` (R389). Arrives at a team barrier without waiting. -/
  | barArv (f : FmtR)
  /-- `DECP` (R410). Appends a value with a reader mask to the decision queue. -/
  | decp (f : FmtR)
  /-- `DECT` (R412). Claims the wave's next decision-queue entry. -/
  | dect (f : FmtR)
  /-- `LRED` (R450). Reduces values across the lanes of each mask group in ascending lane order. -/
  | lred (f : FmtR)
  /-- `MATCH` (R451). Gives each lane the mask of active lanes with an equal key. -/
  | matchR (f : FmtR)
  /-- `SLANE` (R480). Passes values between lanes by absolute, relative, ring or mirror selection. -/
  | slane (f : FmtR)
  /-- `VPOLL` (R481). Gathers a condition across the lanes of each mask group. -/
  | vpoll (f : FmtR)
  /-- `QPUSH` (R467). Pushes the active lanes' values into a hardware queue as consecutive entries. -/
  | qpush (f : FmtR)
  /-- `QPOP` (R467). Claims consecutive pop positions of a hardware queue for the active lanes. -/
  | qpop (f : FmtR)
  /-- `RACQ` (R52). Acquires the next slot of a stage ring for the producer or consumer side. -/
  | racq (f : FmtR)
  /-- `RREL` (R52). Releases a stage-ring slot, changing its state when the side's count is reached. -/
  | rrel (f : FmtR)
  /-- `XENQ` (R323). Checks token records and offers them to the siding store as one enqueue event. -/
  | xenq (f : FmtR)
  /-- `XDEQ` (R501). Copies a firing grid's batch to scratch and writes its size. -/
  | xdeq (f : FmtR)
  /-- `XSTAT_QUERY` (R328). Returns the fill and age status word of one siding. -/
  | xstatQuery (f : FmtR)
  /-- `XSTAT_FLUSH` (R328). Makes the named nonempty sidings eligible for one evaluation. -/
  | xstatFlush (f : FmtR)
  /-- `XSTAT_RESET` (R328). Discards the named sidings' records without firing them. -/
  | xstatReset (f : FmtR)
  /-- `BKPT` (R391). Raises BREAKPOINT for the active lanes. -/
  | bkpt (f : FmtR)
  /-- `GFIN` (R432). Records a completion for the generator grid. -/
  | gfin (f : FmtR)
  /-- `GFAIL` (R432). Records a failure for the generator grid. -/
  | gfail (f : FmtR)
  /-- `MERGE` (R455). Arrives at the grid-wide merge point, per thread. -/
  | merge (f : FmtR)
  /-- `RTT` (R343). Returns the handler wave one trap level, delivering a pending cause or releasing the halt at level 0. -/
  | rtt (f : FmtR)
  /-- `SREG` (R483). Reads a special register into a V or S destination. -/
  | sreg (f : FmtI)
  /-- `SWR` (R484). Writes a special register, subject to its own checks. -/
  | swr (f : FmtI)
  /-- `TRAP` (R494). Raises SOFTWARE with the immediate in TADDR. -/
  | trap (f : FmtI)
  /-- `LINE_FETCH` (R68). Checks the PC, fetches a 64-byte instruction line and checks its parity and line word. -/
  | lineFetch
  /-- `PARKED_THREAD_REEXECUTE` (R44). A parked thread whose miss has resolved re-executes its access and becomes ready. -/
  | parkedThreadReexecute (w : WaveId) (lane : Nat)
  /-- `FAIRNESS_TIMER_EXPIRY` (R34). When the fairness count reaches F, BPC moves to the oldest waiting PC. -/
  | fairnessTimerExpiry (w : WaveId)
  /-- `JOIN_BARRIER_EXPIRY` (R41). When CNT reaches BND, waiting threads proceed with the predicate set and the barrier breaks. -/
  | joinBarrierExpiry (w : WaveId) (j : Nat)
  /-- `WATCHDOG` (R347). Raises WATCHDOG when a join barrier's waiting count reaches WD plus 1. -/
  | watchdog (w : WaveId) (j : Nat)
  /-- `TEAM_RETIREMENT` (R30). A team retires once its waves, lead thread and engine commands are done, freeing its resources. -/
  | teamRetirement (t : TeamId)
  /-- `GRID_RETIREMENT` (R30). A grid retires when its teams and children have retired, releasing its completion and successors. -/
  | gridRetirement (g : GridId)
  /-- `TEAM_PLACEMENT` (R280). The command processor places the next waiting team, choosing the rectangle first where needed. -/
  | teamPlacement
  /-- `ACTIVE_SET_EXCHANGE` (R283). At a bay clock's end, fills a free place, replaces a lower-priority wave or exchanges a yielded wave. -/
  | activeSetExchange (core bay : Nat)
  /-- `BLOCKED_WAVE_SWAP` (R283). An active wave blocked for 33 consecutive clocks is replaced by the best ready paddock wave. -/
  | blockedWaveSwap (core bay : Nat)
  /-- `ROTATION` (R283). An active wave that has spent 4,096 clocks in the active set is replaced by an equal-level ready paddock wave. -/
  | rotation (core bay : Nat)
  /-- `REGISTER_MOVE_COMPLETE` (R284). A register save and load for an exchange with a non-resident wave completes and the incoming wave may issue. -/
  | registerMoveComplete (w : WaveId)
  /-- `SKID_STOP` (R334). A halted wave stops after its skid instructions and writes TSKID. -/
  | skidStop (w : WaveId)
  /-- `ENGINE_CAUSE_DELIVERY` (R333). Delivers a kind E or T cause to the team at its next issue slot, or queues it while halted. -/
  | engineCauseDelivery (t : TeamId)
  /-- `QUARTER_TRANSFER` (R175). A staged weight quarter transfers to all four arrays, latching the generation when all four are filled. -/
  | quarterTransfer (core bay slot : Nat)
  /-- `MATRIX_FIFO_ACCEPTANCE` (R287). A free matrix FIFO entry is given to the wave that began waiting first, reading its sources and binding it. -/
  | matrixFifoAcceptance (core : Nat)
  /-- `MATRIX_ENTRY_START` (R176). The oldest unstarted entry of a bay starts when its array is free and its generation latched. -/
  | matrixEntryStart (core bay : Nat)
  /-- `MATRIX_ENTRY_COMPLETION` (R177). A matrix entry completes, setting FLAGS and arriving on its team barrier. -/
  | matrixEntryCompletion (core bay : Nat)
  /-- `TRANSFER_ACCEPTANCE` (R399). A copy engine accepts a waiting transfer and takes ownership of its destination lines. -/
  | transferAcceptance (core : Nat)
  /-- `SECTOR_WRITE` (R200). A copy engine completes one 512-byte destination sector. -/
  | sectorWrite (xfer sector : Nat)
  /-- `TRANSFER_COMPLETION` (R201). A whole transfer completes and its completion object receives an increment. -/
  | transferCompletion (xfer : Nat)
  /-- `CSIG_EFFECT` (R402). A pending CSIG takes effect once its earlier transfers and accesses are done. -/
  | csigEffect (id : Nat)
  /-- `COLLECTIVE_CHUNK` (R312). A collective completes a 64 KiB chunk of a member's destination. -/
  | collectiveChunk (op chunk : Nat)
  /-- `CONVERSION_START` (R319). A placement conversion starts once every member's numbered demand has arrived and the previous one ended. -/
  | conversionStart (asid idx : Nat)
  /-- `CONVERSION_END` (R320). A placement conversion ends, installing the new shard and applying held accesses in arrival order. -/
  | conversionEnd (asid idx : Nat)
  /-- `LOAD_REPLY` (R444). A load's data returns and fills its destination registers. -/
  | loadReply (req : Nat)
  /-- `ATOMIC_REPLY` (R264). An atomic's old value returns and is installed in its destination. -/
  | atomicReply (req : Nat)
  /-- `TEX_SAMPLE_COMPLETE` (R142). A texture sample completes and fills the destination packet. -/
  | texSampleComplete (req : Nat)
  /-- `TRACE_WALK_END` (R157). A ray walk ends and its eight result registers become full together. -/
  | traceWalkEnd (req : Nat)
  /-- `DEFERRED_UPDATE_ARRIVAL` (R266). A deferred update reaches the memory-side unit and is held or spilled. -/
  | deferredUpdateArrival (id : Nat)
  /-- `MERGE_PERFORM` (R297). Once every team has arrived, applies write sets, drains deferred updates and releases. -/
  | mergePerform (g : GridId)
  /-- `FILL_FRAME_AVAILABLE` (R244). A fill waiting for a frame proceeds, or fails, once no block of the range is FILLING. -/
  | fillFrameAvailable (asid range : Nat)
  /-- `GRAPH_WORK_COMPLETION` (R277). A node's work completes, decrementing successors and incrementing COMP, then freeing the slot. -/
  | graphWorkCompletion (core slot : Nat)
  /-- `ENQUEUE_EVENT` (R323). The siding store accepts an XENQ as one numbered enqueue event. -/
  | enqueueEvent (id : Nat)
  /-- `CHANNEL_GRANT` (R216). A pseudo-channel grants its next request by class weights and deadlines. -/
  | channelGrant (chan : Nat)
  /-- `LANE_RECLAIM` (R218). A channel reclaims data lanes lent to its neighbour after the retrain handshake. -/
  | laneReclaim (chan : Nat)
  /-- `ROW_ACTIVATION_REFRESH` (R221). A row counter crossing its threshold triggers targeted refreshes and resets. -/
  | rowActivationRefresh (row : RowId) (checkFailed : Bool)
  /-- `DIRTY_LINE_WRITE_BACK` (R223). Writes back a dirty L2 line, killing its context and retiring the block on an uncorrectable error. -/
  | dirtyLineWriteBack (pa asid : Nat) (bad : Bool)
  /-- `PORT_LINK_LOSS` (R306). A UALink port loses its link, ending every operation that needs it with MACHINE_CHECK. -/
  | portLinkLoss (port : Nat)
  /-- `UALINK_REQUEST` (R304). A request received over UALink is performed or answered with an error completion. -/
  | ualinkRequest (r : UalRequest)
  /-- `BOOT` (R370). At reset the boot ROM verifies the configuration record and fixes the core assignment, or enters recovery. -/
  | boot
  /-- `POWER_LIMIT_SET` (R373). The management interface sets the package power limit. -/
  | powerLimitSet (mW : Nat)
  /-- `CLOCK_STEP_CHANGE` (R373). The part moves to the lowest clock step whose measured power stays under the limit. -/
  | clockStepChange (measured : List Nat)
  /-- `THERMAL_STEP_DOWN` (R374). At 105 C the part moves one clock step down each millisecond. -/
  | thermalStepDown (degC : Nat)
  /-- `THERMAL_SHUTDOWN` (R374). At 115 C every context is killed and the cores are powered off. -/
  | thermalShutdown (degC : Nat)
  /-- `PREEMPT_ACKNOWLEDGEMENT` (R349). A stopped unit acknowledges to the collector, and the last acknowledgement completes PREEMPT. -/
  | preemptAcknowledgement (asid : Nat) (u : UnitId)
  /-- `CTX_CREATE` (R358). Creates a context, assigning the lowest free ASID from the body's fields. -/
  | ctxCreate (h : CmdHeader) (b : List DWord)
  /-- `CTX_DESTROY` (R514). Kills a context, completes its commands, releases its resources and frees its ASID. -/
  | ctxDestroy (h : CmdHeader) (b : List DWord)
  /-- `MAP` (R360). Writes consecutive valid page-table entries and resumes requesters held on the range. -/
  | map (h : CmdHeader) (b : List DWord)
  /-- `UNMAP` (R235). Writes invalid entries and completes once TLBs and translated accesses are cleared. -/
  | unmap (h : CmdHeader) (b : List DWord)
  /-- `LAUNCH_COMMAND` (R369). Launches a grid from a host launch record and completes when it retires. -/
  | launchCommand (h : CmdHeader) (b : List DWord)
  /-- `GRAPH_NODE` (R276). Enters a node descriptor into a core's graph table. -/
  | graphNode (h : CmdHeader) (b : List DWord)
  /-- `SIGNAL` (R359). Adds 1 to a completion object. -/
  | signal (h : CmdHeader) (b : List DWord)
  /-- `WAIT` (R271). Starts waiting for a completion object to reach a threshold. -/
  | wait (h : CmdHeader) (b : List DWord)
  /-- `WAIT_COMPLETION` (R271). A WAIT completes when its acquire read returns at least the threshold. -/
  | waitCompletion (asid queue : Nat)
  /-- `SET_DLEVEL` (R290). Sets the current determinism level of a queue for later launches. -/
  | setDlevel (h : CmdHeader) (b : List DWord)
  /-- `PROC_RANGE_REGISTER` (R239). Registers a procedural range with its generator launch record and frame pool. -/
  | procRangeRegister (h : CmdHeader) (b : List DWord)
  /-- `PROC_RANGE_RESET` (R243). Returns named blocks of a range to EMPTY and clears their written marks. -/
  | procRangeReset (h : CmdHeader) (b : List DWord)
  /-- `PROC_RANGE_DEREGISTER` (R243). Deregisters a range, releasing its pages and pool. -/
  | procRangeDeregister (h : CmdHeader) (b : List DWord)
  /-- `EXPERT_SET_CREATE` (R321). Creates or replaces the context's expert set, reading the expert launch records. -/
  | expertSetCreate (h : CmdHeader) (b : List DWord)
  /-- `EXPERT_SET_DELETE` (R321). Deletes the context's expert set. -/
  | expertSetDelete (h : CmdHeader) (b : List DWord)
  /-- `PLACEMENT_SET` (R315). Writes a placement-table entry from the body's image. -/
  | placementSet (h : CmdHeader) (b : List DWord)
  /-- `TRIGGER` (R168). Writes a camera trigger record to the ring and increments the completion object. -/
  | trigger (h : CmdHeader) (b : List DWord)
  /-- `PREEMPT_STOP` (R348). Stops a context's resident teams at engine boundaries, saves them and holds its queues. -/
  | preemptStop (h : CmdHeader) (b : List DWord)
  /-- `PREEMPT_RESUME` (R352). Restores a stopped context's teams and resumes its queues. -/
  | preemptResume (h : CmdHeader) (b : List DWord)
  /-- `RETENTION_REMOVE` (R219). Copies an unused layer to the capacity tier, powers it off and emits a hot-remove record. -/
  | retentionRemove (h : CmdHeader) (b : List DWord)
  /-- `RETENTION_RESTORE` (R219). Powers a layer on, copies its bytes back and emits a hot-add record. -/
  | retentionRestore (h : CmdHeader) (b : List DWord)
  /-- `QUERY_IDENTITY` (R366). Returns the package identity, configuration digest and public key. -/
  | queryIdentity (h : CmdHeader) (b : List DWord)
  /-- `QUERY_ERROR_LOG` (R366). Returns entries of the error log from a given index. -/
  | queryErrorLog (h : CmdHeader) (b : List DWord)
  /-- `QUERY_CORE_ASSIGNMENT` (R366). Returns the logical-to-physical core assignment. -/
  | queryCoreAssignment (h : CmdHeader) (b : List DWord)
  /-- `QUERY_BLOCK_STATES` (R366). Returns the states of a procedural range's blocks. -/
  | queryBlockStates (h : CmdHeader) (b : List DWord)
  /-- `QUERY_GRAPH_LOG` (R366). Returns the discarded-decrement counts of each core's graph table. -/
  | queryGraphLog (h : CmdHeader) (b : List DWord)
  /-- `QUERY_LINK_LOG` (R366). Returns per-port error-completion and link-loss counts. -/
  | queryLinkLog (h : CmdHeader) (b : List DWord)
  /-- `QUERY_CONTEXT_SUMMARY` (R366). Returns the context status block, per-queue command counts and the stopped flag. -/
  | queryContextSummary (h : CmdHeader) (b : List DWord)
  /-- `ATTEST` (R372). Returns a signed quote over the nonce, ROM and configuration digests and recovery flag. -/
  | attest (h : CmdHeader) (b : List DWord)
  /-- `UNKNOWN_CMD_MESSAGE` (R354). Refuses a command message whose header or length is invalid or whose CMD is unknown. -/
  | unknownCmdMessage (h : CmdHeader)
  /-- `UNASSIGNED_CODE_POINT` (R109). A thread issues a slot whose OPC is unassigned, which raises ILLEGAL_OPCODE with no effect in any thread, even under a false guard. -/
  | unassignedCodePoint (word : Slot)
  /-- `DATA_LANE_LENDING` (R218). A channel with no waiting request lends its data lanes to its neighbouring channel. -/
  | dataLaneLending (chan : Nat)
  deriving DecidableEq, Repr

end Sys2Proof
end

