-- ==== Sys2Proof/Machine/Bits.lean ====
section
/-!
DEFINITION. Bit fields, sign extension, byte order and lane masks. Words are little-endian in memory (00_scope.md R2);
a field written [hi:lo] is `field hi lo`.
-/
namespace Sys2Proof.Machine

/-- Bits [hi:lo] of a word, as a number. -/
def field {n : Nat} (w : BitVec n) (hi lo : Nat) : Nat := (w.toNat >>> lo) % 2 ^ (hi + 1 - lo)

/-- Bits [hi:lo] of a number. -/
def nfield (w hi lo : Nat) : Nat := (w >>> lo) % 2 ^ (hi + 1 - lo)

/-- The two's-complement reading of the low `n` bits of a number. -/
def sext (n w : Nat) : Int :=
  let v := w % 2 ^ n
  if 2 * v < 2 ^ n then (v : Int) else (v : Int) - 2 ^ n

/-- The value of an integer modulo 2^n. -/
def wrapN (n : Nat) (x : Int) : Nat := (x % (2 ^ n : Nat)).toNat

/-- Little-endian bytes of a number, `n` of them. -/
def toBytes : Nat → Nat → List Byte
  | 0, _ => []
  | n + 1, w => BitVec.ofNat 8 w :: toBytes n (w / 256)

/-- The number that little-endian bytes hold. -/
def ofBytes : List Byte → Nat
  | [] => 0
  | b :: bs => b.toNat + 256 * ofBytes bs

/-- Bits lo, lo+1, … of a number, `n` of them, as a list of set positions. -/
def bitsSet (n : Nat) (w : Nat) : List Nat := (List.range n).filter (fun i => w.testBit i)

/-- The lanes of a mask in ascending order. -/
def lanesOf (m : LaneMask) : List Nat := (List.range 32).filter (fun i => m.getLsbD i)

/-- The mask of a list of lanes. -/
def maskOf (ls : List Nat) : LaneMask := ls.foldl (fun m l => m ||| (1#32 <<< l)) 0#32

/-- Even parity of the low `n` bits: true when an odd number of them are one (R67). -/
def oddParity : Nat → Nat → Bool
  | 0, _ => false
  | n + 1, w => (w % 2 == 1) != oddParity n (w / 2)

/-- The words of `n` consecutive 64-bit values of a number, low first. -/
def dwords : Nat → Nat → List DWord
  | 0, _ => []
  | n + 1, w => BitVec.ofNat 64 w :: dwords n (w / 2 ^ 64)

/-- Whether a number is a power of two. -/
def isPow2 (n : Nat) : Bool := n != 0 && 2 ^ n.log2 == n

/-- Ceiling of a quotient. -/
def ceilDiv (a b : Nat) : Nat := (a + b - 1) / b

end Sys2Proof.Machine
end

