-- ==== Sys2Proof/Machine/Fields.lean ====
section
/-!
DEFINITION. The encoding checks of R76: which values of `TY`, `MOD`, `FN`, `SC`, `ORD`, `RD`, `SP`, `WD`, `REP`, `IMM`,
`IMM8` and the branch fields an instruction's entry accepts. A value outside them raises `ILLEGAL_OPCODE`. Register codes
are checked later (R87 to R89, Machine/Operands.lean), and so are `FE` bits (R84).
-/
namespace Sys2Proof.Machine

/-- The source type code `TY`[3:0] (R85). -/
def tyS (ty : BitVec 8) : Nat := ty.toNat % 16

/-- The destination type code `TY`[7:4] (R85). -/
def tyD (ty : BitVec 8) : Nat := ty.toNat / 16

/-- One type of a list in both halves (R85). -/
def tyOne (ts : List Nat) (ty : BitVec 8) : Bool := tyS ty == tyD ty && ts.contains (tyS ty)

/-- I8 to I64 and N8 to N64 (R85). -/
def intTys : List Nat := [0, 1, 2, 3, 4, 5, 6, 7]

/-- F16, BF16 and F32 (R85). -/
def floatTys : List Nat := [8, 9, 10]

/-- Whether an integer type code is signed (R115). -/
def tySigned (t : Nat) : Bool := t < 4

/-- The width in bits of a type (R85, R111, R115). -/
def tyWidth (t : Nat) : Nat :=
  match t with
  | 0 => 8 | 1 => 16 | 2 => 32 | 3 => 64 | 4 => 8 | 5 => 16 | 6 => 32 | 7 => 64
  | 8 => 16 | 9 => 16 | 10 => 32 | 11 => 8 | 12 => 8 | 13 => 4 | 14 => 8 | _ => 64

/-- Whether an immediate is in the range of its source type (R78). -/
def immInRange (t : Nat) (imm : BitVec 32) : Bool :=
  match t with
  | 0 => decide (-128 ≤ imm.toInt) && decide (imm.toInt ≤ 127)
  | 1 => decide (-32768 ≤ imm.toInt) && decide (imm.toInt ≤ 32767)
  | 4 => imm.toNat < 256
  | 5 => imm.toNat < 65536
  | 8 => imm.toNat < 65536
  | 9 => imm.toNat < 65536
  | _ => true

/-- `TY`, `MOD` and `FN` all zero. -/
def plainR (f : FmtR) : Bool := f.ty == 0 && f.mode == 0 && f.fn == 0

/-- Format R with one type of a list, `MOD` of a list and `FN` = 0. -/
def oneR (ts modes : List Nat) (f : FmtR) : Bool := tyOne ts f.ty && modes.contains f.mode.toNat && f.fn == 0

/-- Format I with one type of a list, `MOD` of a list, `FN` = 0 and an immediate in range (R78). -/
def oneI (ts modes : List Nat) (f : FmtI) : Bool :=
  tyOne ts f.ty && modes.contains f.mode.toNat && f.fn == 0 && immInRange (tyS f.ty) f.imm

/-- Conversions of R123, in the codes of R85: source, destination. -/
def cvtPair (s d : Nat) : Bool :=
  (s < 8 && d < 8) || (s < 8 && (d == 10 || d == 15)) || ((s == 10 || s == 15) && d < 8) ||
  (s == 8 && (d == 10 || d == 15 || d == 9 || d == 11 || d == 12 || d == 13)) ||
  (s == 9 && (d == 10 || d == 15 || d == 8 || d == 11 || d == 12 || d == 13)) ||
  (s == 10 && (d == 15 || d == 8 || d == 9 || d == 11 || d == 12 || d == 13 || d == 14)) ||
  (s == 15 && d == 10) ||
  (s == 11 && (d == 8 || d == 9 || d == 10 || d == 15)) ||
  (s == 12 && (d == 8 || d == 9 || d == 10 || d == 15)) ||
  (s == 13 && (d == 8 || d == 9 || d == 10 || d == 11 || d == 12 || d == 15)) ||
  (s == 14 && d == 10)

/-- Narrow conversions, which alone accept stochastic rounding (R120). -/
def narrowPair (s d : Nat) : Bool :=
  (s == 10 && (d == 8 || d == 9 || d == 11 || d == 12 || d == 13 || d == 14)) ||
  ((s == 8 || s == 9) && (d == 11 || d == 12 || d == 13))

/-- `MOD` of `CVT` (R86): bit 3 only for a narrow conversion, and then no rounding mode. -/
def cvtMode (s d : Nat) (m : BitVec 4) : Bool := !m.getLsbD 3 || (narrowPair s d && m.toNat % 4 == 0)

/-- The element types of `MWL`, `MMAC` and `VXM` (R174): I8, F16, BF16, E4M3, E5M2, E2M1 and DM8. -/
def matrixTys : List Nat := [0, 8, 9, 11, 12, 13, 14]

/-- Place fields zero, where the entry says so (R22). -/
def noPlace (f : FmtX) : Bool := f.px == 0 && f.py == 0 && f.pb == 0

/-- Format X with `FN` and `IMM8` zero. -/
def plainX (f : FmtX) : Bool := f.fn == 0 && f.imm8 == 0

/-- Format W with `FN` zero, `MOD`[3:2] zero, the packet fields an instruction does not use zero, and an unused `VS` 511
(R496). -/
def packW (useD useA useB useC useS : Bool) (f : FmtW) : Bool :=
  f.fn == 0 && f.mode.toNat < 4 && (useD || f.wd == 0) && (useA || f.wa == 0) && (useB || f.wb == 0) &&
    (useC || f.wc == 0) && (useS || f.vs == 511)

/-- `LD` (R443). -/
def ldFields (f : FmtM) : Bool :=
  f.wd.toNat ≤ 7 && f.sp.toNat ≤ 2 && f.sc.toNat ≤ 4 && f.ord.toNat ≤ 2 && (f.rd.toNat ≤ 7 || f.rd.toNat == 15)

/-- `ST` (R486). -/
def stFields (f : FmtM) : Bool :=
  f.wd.toNat ≤ 7 && f.sp.toNat ≤ 2 && f.sc.toNat ≤ 4 && [0, 1, 3].contains f.ord.toNat &&
    (f.rd.toNat ≤ 7 || f.rd.toNat == 15) && !f.rep

/-- `MCST` (R452). -/
def mcstFields (f : FmtM) : Bool :=
  f.wd.toNat ≤ 7 && f.sp == 0 && f.sc.toNat ≤ 4 && [0, 1, 3].contains f.ord.toNat && f.rd.toNat == 15 && !f.rep

/-- `ATOM` (R382): the operation stands in `RD`, the sign of the type in `REP`. -/
def atomFields (f : FmtM) : Bool :=
  (f.rd.toNat ≤ 7 || f.rd.toNat == 15) && (!f.rep || [0, 2, 3].contains f.rd.toNat) &&
    (f.wd.toNat == 2 || (f.wd.toNat == 3 && f.rd.toNat != 1)) && f.sp.toNat ≤ 1 && f.sc.toNat ≤ 4 &&
    (if f.ds.toNat == 511 then [1, 3].contains f.ord.toNat else [1, 2, 3, 4].contains f.ord.toNat)

/-- `CAS` (R382). -/
def casFields (f : FmtM) : Bool :=
  f.rd.toNat == 15 && !f.rep && (f.wd.toNat == 2 || f.wd.toNat == 3) && f.sp.toNat ≤ 1 && f.sc.toNat ≤ 4 &&
    [1, 2, 3, 4].contains f.ord.toNat

/-- The fields every `FENCE` form holds at zero (R428). -/
def fenceRest (f : FmtM) : Bool := f.off == 0 && f.wd == 0 && f.sp == 0 && !f.rep && f.rd.toNat == 15

/-- `CTEST` and `CWAIT` (R403). -/
def objFields (f : FmtM) : Bool :=
  f.wd.toNat == 3 && f.sc.toNat == 3 && f.sp == 0 && f.ord == 0 && !f.rep && f.rd.toNat == 15

/-- A direct branch (R392): `J` and `BOUND` zero and a target slot of the line. -/
def branchFields (f : FmtB) : Bool := f.j == 0 && f.bound == 0 && f.slot.toNat ≤ 4

/-- `RET` and `JMPI` (R437, R472). -/
def indirectFields (f : FmtB) : Bool := f.loff == 0 && f.slot == 0 && f.j == 0 && f.bound == 0

/-- The encoding checks of each instruction (R76 and the entries). Commands and events have none. -/
def fieldsOk (i : Instr) : Bool :=
  match i with
  | .nop f => plainR f
  | .exit f => plainR f
  | .yield f => plainR f
  | .bra f => branchFields f
  | .bru f => branchFields f && f.u
  | .call f => branchFields f && !f.u
  | .ret f => indirectFields f
  | .jmpi f => indirectFields f
  | .rcvset f => f.loff == 0 && !f.u && f.slot == 0 && f.bound == 0
  | .rcv f => f.loff == 0 && !f.u
  | .launch f => plainR f
  | .agen f => f.wd.toNat ≤ 7 && f.sc == 0 && f.ord == 0 && f.sp == 0 && !f.rep && f.rd.toNat == 15
  | .andR f => oneR intTys [0] f
  | .andImm f => oneI intTys [0] f
  | .bfi f => oneR [6, 7] [0] f
  | .bfx f => oneR [2, 3, 6, 7] [0] f
  | .brev f => oneR [6, 7] [0] f
  | .bsel f => oneR [6, 7] [0] f
  | .clz f => (f.ty == 0x66 || f.ty == 0x67) && f.mode == 0 && f.fn == 0
  | .iabs f => oneR [0, 1, 2, 3] [0, 4] f
  | .iadd f => oneR intTys [0, 4] f
  | .iaddImm f => oneI intTys [0, 4] f
  | .isub f => oneR intTys [0, 4] f
  | .isubImm f => oneI intTys [0, 4] f
  | .imul f => oneR intTys [0, 4] f
  | .imulImm f => oneI intTys [0, 4] f
  | .imulh f => oneR intTys [0] f
  | .imulhImm f => oneI intTys [0] f
  | .imad f => oneR intTys [0, 4] f
  | .imax f => oneR intTys [0] f
  | .imaxImm f => oneI intTys [0] f
  | .imin f => oneR intTys [0] f
  | .iminImm f => oneI intTys [0] f
  | .idiv f => oneR intTys [0] f
  | .idivImm f => oneI intTys [0] f
  | .irem f => oneR intTys [0] f
  | .iremImm f => oneI intTys [0] f
  | .icmp f => tyOne intTys f.ty && f.mode == 0 && f.fn.toNat % 8 ≤ 5
  | .icmpImm f => tyOne intTys f.ty && f.mode == 0 && f.fn.toNat % 8 ≤ 5 && immInRange (tyS f.ty) f.imm
  | .mov f => oneR intTys [0] f
  | .movFirst f => tyOne [6, 7] f.ty && f.mode == 0 && f.fn == 1
  | .movi f => oneI intTys [0] f
  | .moviHi f => f.ty == 0x77 && f.mode == 0 && f.fn == 1
  | .orR f => oneR intTys [0] f
  | .orImm f => oneI intTys [0] f
  | .popc f => (f.ty == 0x66 || f.ty == 0x67) && f.mode == 0 && f.fn == 0
  | .rot f => oneR [6, 7] [0] f
  | .rotImm f => oneI [6, 7] [0] f
  | .sel f => tyOne intTys f.ty && f.mode == 0 && f.fn.toNat < 16
  | .shl f => oneR intTys [0] f
  | .shlImm f => oneI intTys [0] f
  | .shr f => oneR intTys [0] f
  | .shrImm f => oneI intTys [0] f
  | .sra f => oneR intTys [0] f
  | .sraImm f => oneI intTys [0] f
  | .xorR f => oneR intTys [0] f
  | .xorImm f => oneI intTys [0] f
  | .cvt f => cvtPair (tyS f.ty) (tyD f.ty) && cvtMode (tyS f.ty) (tyD f.ty) f.mode && f.fn == 0
  | .fadd f => oneR floatTys [0, 1, 2, 3] f
  | .faddImm f => oneI floatTys [0, 1, 2, 3] f
  | .fsub f => oneR floatTys [0, 1, 2, 3] f
  | .fsubImm f => oneI floatTys [0, 1, 2, 3] f
  | .fmul f => oneR floatTys [0, 1, 2, 3] f
  | .fmulImm f => oneI floatTys [0, 1, 2, 3] f
  | .fdiv f => oneR floatTys [0, 1, 2, 3] f
  | .fdivImm f => oneI floatTys [0, 1, 2, 3] f
  | .ffma f => oneR floatTys [0, 1, 2, 3] f
  | .fmax f => oneR floatTys [0, 1, 2, 3] f
  | .fmaxImm f => oneI floatTys [0, 1, 2, 3] f
  | .fmin f => oneR floatTys [0, 1, 2, 3] f
  | .fminImm f => oneI floatTys [0, 1, 2, 3] f
  | .fcmp f => tyOne floatTys f.ty && f.mode == 0
  | .fcmpImm f => tyOne floatTys f.ty && f.mode == 0 && immInRange (tyS f.ty) f.imm
  | .frnd f => oneR floatTys [0, 1, 2, 3] f
  | .fsqrt f => oneR floatTys [0, 1, 2, 3] f
  | .frcp f => oneR floatTys [0, 1, 2, 3] f
  | .frsq f => oneR floatTys [0, 1, 2, 3] f
  | .fexp2 f => oneR floatTys [0, 1, 2, 3] f
  | .flog2 f => oneR floatTys [0, 1, 2, 3] f
  | .fsin f => oneR floatTys [0, 1, 2, 3] f
  | .fcos f => oneR floatTys [0, 1, 2, 3] f
  | .ftsum f => oneR [10] [0] f
  | .pfma f => oneR [8, 9] [0, 1, 2, 3] f
  | .muel f => packW true true false false true f
  | .wadd f => packW true true true false false f
  | .wmul f => packW true true true false false f
  | .wfma f => packW true true true true false f
  | .wscal f => packW true true false false true f
  | .wexp f => packW true true false false true f
  | .wspan f => packW true false false false true f
  | .wsum f => packW false true false false true f
  | .wdot f => packW false true true false true f
  | .facc f => plainX f
  | .leafx f => oneR [10] [0] f
  | .tex f => plainX f
  | .texq f => plainX f
  | .texqRead f => f.fn == 1 && f.imm8 == 0
  | .trace f => f.fn.toNat < 2 && f.imm8 == 0
  | .ld f => ldFields f
  | .st f => stFields f
  | .atom f => atomFields f
  | .cas f => casFields f
  | .fence f => fenceRest f && [2, 3, 4].contains f.ord.toNat && f.sc.toNat ≤ 4
  | .fenceWalk f => fenceRest f && f.ord.toNat == 5 && f.sc.toNat == 3
  | .cflush f => f.wd.toNat ≤ 7 && [1, 2, 3].contains f.sc.toNat && f.ord == 0 && f.rd.toNat == 15 && !f.rep && f.sp == 0
  | .pref f => f.wd.toNat ≤ 7 && [1, 3].contains f.sc.toNat && f.ord == 0 && (f.rd.toNat ≤ 7 || f.rd.toNat == 15) && !f.rep
      && f.sp == 0
  | .mcst f => mcstFields f
  | .pldConv f => plainX f
  | .pldRed f => f.fn == 1 && f.imm8 == 0
  | .coll f => plainX f
  | .copy f => f.fn == 0 && f.imm8.toNat < 2
  | .gath f => f.fn == 0 && f.imm8.toNat < 2
  | .scat f => f.fn == 0 && f.imm8.toNat < 2
  | .scatAdd f => f.fn == 0 && (f.imm8.toNat == 2 || f.imm8.toNat == 3)
  | .csig f => plainX f
  | .csigNode f => f.fn == 1
  | .ctest f => objFields f
  | .cwait f => objFields f
  | .node f => f.fn == 0
  | .placeSet f => plainX f
  | .placeGet f => f.fn == 1 && f.imm8 == 0
  | .mwl f => f.fn.toNat < 64 && matrixTys.contains (f.fn.toNat % 16) && f.imm8 == 0
  | .mmac f => f.fn.toNat < 128 && matrixTys.contains (f.fn.toNat % 16) && (f.fn.toNat < 64 || f.fn.toNat % 16 == 0)
      && f.imm8.toNat < 32
  | .mzero f => f.fn == 0 && f.imm8.toNat < 32
  | .mdrn f => f.fn == 0 && f.imm8.toNat < 32
  | .vxm f => matrixTys.contains (f.fn.toNat % 16) && matrixTys.contains (f.fn.toNat / 16) && f.imm8 == 0
  | .bar f => f.ty == 0 && f.mode == 0 && f.fn.toNat < 16
  | .barArv f => f.ty == 0 && f.mode == 0 && 16 ≤ f.fn.toNat && f.fn.toNat < 32
  | .decp f => plainR f
  | .dect f => plainR f
  | .lred f => f.mode == 0 &&
      (if f.fn.toNat ≤ 2 then tyOne [2, 3, 6, 7, 10] f.ty else f.fn.toNat ≤ 5 && tyOne [6, 7] f.ty)
  | .matchR f => tyOne [6, 7] f.ty && f.mode == 0 && f.fn.toNat % 8 == 0
  | .slane f => tyOne [6, 7] f.ty && f.mode == 0
  | .vpoll f => tyOne [6, 7] f.ty && f.mode == 0 && f.fn.toNat % 8 ≤ 4
  | .qpush f => f.ty == 0 && f.mode == 0
  | .qpop f => f.ty == 0 && f.mode == 0
  | .racq f => f.ty == 0 && f.mode == 0 && f.fn.toNat < 16
  | .rrel f => f.ty == 0 && f.mode == 0 && f.fn.toNat < 16
  | .xenq f => plainR f
  | .xdeq f => plainR f
  | .xstatQuery f => f.ty == 0 && f.mode == 0 && f.fn == 0
  | .xstatFlush f => f.ty == 0 && f.mode == 0 && f.fn == 1
  | .xstatReset f => f.ty == 0 && f.mode == 0 && f.fn == 2
  | .bkpt f => plainR f
  | .gfin f => plainR f
  | .gfail f => plainR f
  | .merge f => plainR f
  | .rtt f => plainR f
  | .sreg f => (f.ty == 0x66 || f.ty == 0x77) && f.mode == 0 && f.fn == 0
  | .swr f => (f.ty == 0x66 || f.ty == 0x77) && f.mode == 0 && f.fn == 0
  | .trap f => f.ty == 0 && f.mode == 0 && f.fn == 0
  | .unassignedCodePoint _ | .lineFetch | .teamPlacement | .boot
  | .parkedThreadReexecute .. | .fairnessTimerExpiry .. | .joinBarrierExpiry .. | .watchdog ..
  | .teamRetirement .. | .gridRetirement .. | .activeSetExchange .. | .blockedWaveSwap ..
  | .rotation .. | .registerMoveComplete .. | .skidStop .. | .engineCauseDelivery ..
  | .quarterTransfer .. | .matrixFifoAcceptance .. | .matrixEntryStart .. | .matrixEntryCompletion ..
  | .transferAcceptance .. | .sectorWrite .. | .transferCompletion .. | .csigEffect ..
  | .collectiveChunk .. | .conversionStart .. | .conversionEnd .. | .loadReply .. | .atomicReply ..
  | .texSampleComplete .. | .traceWalkEnd .. | .deferredUpdateArrival .. | .mergePerform ..
  | .fillFrameAvailable .. | .graphWorkCompletion .. | .enqueueEvent .. | .channelGrant ..
  | .laneReclaim .. | .rowActivationRefresh .. | .dirtyLineWriteBack .. | .portLinkLoss ..
  | .ualinkRequest .. | .powerLimitSet .. | .clockStepChange .. | .thermalStepDown ..
  | .thermalShutdown .. | .preemptAcknowledgement .. | .ctxCreate .. | .ctxDestroy .. | .map ..
  | .unmap .. | .launchCommand .. | .graphNode .. | .signal .. | .wait .. | .waitCompletion ..
  | .setDlevel .. | .procRangeRegister .. | .procRangeReset .. | .procRangeDeregister ..
  | .expertSetCreate .. | .expertSetDelete .. | .placementSet .. | .trigger .. | .preemptStop ..
  | .preemptResume .. | .retentionRemove .. | .retentionRestore .. | .queryIdentity ..
  | .queryErrorLog .. | .queryCoreAssignment .. | .queryBlockStates .. | .queryGraphLog ..
  | .queryLinkLog .. | .queryContextSummary .. | .attest .. | .unknownCmdMessage ..
  | .dataLaneLending .. => true

end Sys2Proof.Machine
end

