-- ==== Sys2Proof/WellFormed.lean ====
section
/-!
DEFINITION. Well-formed operations: the field values that the entries accept (R76), a command header and body as R354
and R357 lay them out, and units that exist for an event. The decoder answers well-formed instructions only.
-/
namespace Sys2Proof

open Machine

/-- The opcode field of a slot (R73). -/
def opcOf (w : Slot) : Nat := (w.extractLsb' 0 10).toNat

/-- The command codes of R355 and the body length in words of R357. -/
def cmdShape (cmd : Nat) : Option Nat :=
  match cmd with
  | 0x01 => some 24 | 0x02 => some 0 | 0x03 => some 8 | 0x04 => some 8 | 0x05 => some 16 | 0x06 => some 4
  | 0x07 => some 4 | 0x08 => some 4 | 0x09 => some 4 | 0x0A => some 24 | 0x0B => some 16 | 0x0C => some 12
  | 0x0D => some 8 | 0x0E => some 4 | 0x0F => some 4 | 0x10 => some 4 | 0x11 => some 4
  | _ => none

/-- Whether the part accepts the header of a message (R354). -/
def headerOk (h : CmdHeader) : Bool :=
  h.spare == 0 &&
  (match cmdShape h.cmd.toNat with | some n => h.length.toNat == 8 * n | none => false) &&
  (if h.pkg then h.cmd.toNat == 0x10 || h.cmd.toNat == 0x11 else h.cmd.toNat != 0x11)

/-- A command with code `cmd`, an accepted header and the words of its body. -/
def commandOk (cmd : Nat) (h : CmdHeader) (b : List DWord) : Bool :=
  h.cmd.toNat == cmd && headerOk h && 8 * b.length == h.length.toNat

/-- Well-formed operations. -/
def Instr.wf (i : Instr) : Bool :=
  fieldsOk i &&
  match i with
  | .ctxCreate h b => commandOk 0x01 h b
  | .ctxDestroy h b => commandOk 0x02 h b
  | .map h b => commandOk 0x03 h b
  | .unmap h b => commandOk 0x04 h b
  | .launchCommand h b => commandOk 0x05 h b
  | .graphNode h b => commandOk 0x06 h b
  | .signal h b => commandOk 0x07 h b
  | .wait h b => commandOk 0x08 h b
  | .setDlevel h b => commandOk 0x09 h b
  | .procRangeRegister h b | .procRangeReset h b | .procRangeDeregister h b => commandOk 0x0A h b
  | .expertSetCreate h b | .expertSetDelete h b => commandOk 0x0B h b
  | .placementSet h b => commandOk 0x0C h b
  | .trigger h b => commandOk 0x0D h b
  | .preemptStop h b | .preemptResume h b => commandOk 0x0E h b
  | .retentionRemove h b | .retentionRestore h b => commandOk 0x0F h b
  | .queryIdentity h b | .queryErrorLog h b | .queryCoreAssignment h b | .queryBlockStates h b
  | .queryGraphLog h b | .queryLinkLog h b | .queryContextSummary h b => commandOk 0x10 h b
  | .attest h b => commandOk 0x11 h b
  | .unassignedCodePoint w => !assignedOpc (opcOf w)
  | .activeSetExchange c y | .blockedWaveSwap c y | .rotation c y | .matrixEntryStart c y
  | .matrixEntryCompletion c y => decide (c < 48) && decide (y < 4)
  | .quarterTransfer c y k => decide (c < 48) && decide (y < 4) && decide (k < 2)
  | .matrixFifoAcceptance c | .transferAcceptance c => decide (c < 48)
  | .graphWorkCompletion c k => decide (c < 48) && decide (k < 256)
  | .parkedThreadReexecute _ l => decide (l < 32)
  | .joinBarrierExpiry _ j | .watchdog _ j => decide (j < 16)
  | .portLinkLoss p => decide (p < 6)
  | _ => true
where
  /-- The code points of R101 to R107. -/
  assignedOpc (o : Nat) : Bool :=
    o ≤ 0x002 || (0x008 ≤ o && o ≤ 0x00C) || o == 0x010 || o == 0x011 || o == 0x018 ||
    (0x040 ≤ o && o ≤ 0x05B) || o == 0x081 || (0x088 ≤ o && o ≤ 0x08A) || (0x08C ≤ o && o ≤ 0x091) ||
    o == 0x094 || o == 0x096 || (0x098 ≤ o && o ≤ 0x09B) || (0x100 ≤ o && o ≤ 0x112) || o == 0x141 || o == 0x142 ||
    o == 0x144 || (0x148 ≤ o && o ≤ 0x14A) || o == 0x150 || (0x180 ≤ o && o ≤ 0x188) || (0x1C0 ≤ o && o ≤ 0x1C4) ||
    (0x200 ≤ o && o ≤ 0x208) || (0x280 ≤ o && o ≤ 0x288) || (0x2C0 ≤ o && o ≤ 0x2C4) || (0x300 ≤ o && o ≤ 0x30D) ||
    (0x340 ≤ o && o ≤ 0x347)

end Sys2Proof
end

