-- ==== Sys2Proof/Decode.lean ====
section
/-!
DEFINITION. The decoder of instruction slots and of command messages, total and rejecting by name, and the encoder of
instructions, both written from the encoding tables of 03_instruction_formats.md and 04_opcode_map.md.
-/
namespace Sys2Proof

open Machine

/-- Why a slot is refused (R92 step 2). Both raise `ILLEGAL_OPCODE`. -/
inductive DecodeError where
  /-- A reserved bit of the format is set (R76). -/
  | reservedBit (opc : Nat)
  /-- A field holds a value its entry does not accept (R76). -/
  | fieldValue (opc : Nat)
  deriving DecidableEq, Repr

/-- The common header of a slot (R73). -/
def getHdr (w : Slot) : Hdr :=
  { fe := w.extractLsb' 14 3, gn := w.getLsbD 13, g := w.extractLsb' 10 3 }

/-- Format R (R77). -/
def getR (w : Slot) : FmtR :=
  { h := getHdr w, d := w.extractLsb' 18 9, a := w.extractLsb' 27 9, b := w.extractLsb' 36 9, c := w.extractLsb' 45 9,
    ty := w.extractLsb' 54 8, mode := w.extractLsb' 62 4, fn := w.extractLsb' 66 6 }

/-- Format I (R78). -/
def getI (w : Slot) : FmtI :=
  { h := getHdr w, d := w.extractLsb' 18 9, a := w.extractLsb' 27 9, ty := w.extractLsb' 36 8,
    mode := w.extractLsb' 44 4, fn := w.extractLsb' 48 6, imm := w.extractLsb' 64 32 }

/-- Format M (R79). -/
def getM (w : Slot) : FmtM :=
  { h := getHdr w, ds := w.extractLsb' 18 9, ab := w.extractLsb' 27 9, ai := w.extractLsb' 36 9,
    sc := w.extractLsb' 45 3, ord := w.extractLsb' 48 3, rd := w.extractLsb' 51 4, rep := w.getLsbD 55,
    sp := w.extractLsb' 56 3, wd := w.extractLsb' 59 4, off := w.extractLsb' 64 32 }

/-- Format X (R81). -/
def getX (w : Slot) : FmtX :=
  { h := getHdr w, d := w.extractLsb' 18 9, a := w.extractLsb' 27 9, b := w.extractLsb' 36 9, c := w.extractLsb' 45 9,
    fn := w.extractLsb' 54 8, px := w.extractLsb' 62 8, py := w.extractLsb' 70 8, pb := w.extractLsb' 78 4,
    imm8 := w.extractLsb' 82 8 }

/-- Format B (R82). -/
def getB (w : Slot) : FmtB :=
  { h := getHdr w, u := w.getLsbD 17, loff := w.extractLsb' 18 21, slot := w.extractLsb' 39 3, a := w.extractLsb' 42 9,
    j := w.extractLsb' 51 4, bound := w.extractLsb' 64 32 }

/-- Format W (R83). -/
def getW (w : Slot) : FmtW :=
  { h := getHdr w, wd := w.extractLsb' 18 5, wa := w.extractLsb' 23 5, wb := w.extractLsb' 28 5,
    wc := w.extractLsb' 33 5, vs := w.extractLsb' 38 9, fn := w.extractLsb' 47 6, mode := w.extractLsb' 53 4 }

/-- The reserved bits of each format are zero (R76 to R83). -/
def resR (w : Slot) : Bool := !w.getLsbD 17 && w.extractLsb' 72 24 == 0
def resI (w : Slot) : Bool := !w.getLsbD 17 && w.extractLsb' 54 10 == 0
def resM (w : Slot) : Bool := !w.getLsbD 17 && !w.getLsbD 63
def resX (w : Slot) : Bool := !w.getLsbD 17 && w.extractLsb' 90 6 == 0
def resB (w : Slot) : Bool := w.extractLsb' 55 9 == 0
def resW (w : Slot) : Bool := !w.getLsbD 17 && w.extractLsb' 57 39 == 0

/-- A format's row of the table: its fields when its reserved bits are zero. -/
def decR (w : Slot) (k : FmtR → Instr) : Option Instr := if resR w then some (k (getR w)) else none
def decI (w : Slot) (k : FmtI → Instr) : Option Instr := if resI w then some (k (getI w)) else none
def decM (w : Slot) (k : FmtM → Instr) : Option Instr := if resM w then some (k (getM w)) else none
def decX (w : Slot) (k : FmtX → Instr) : Option Instr := if resX w then some (k (getX w)) else none
def decB (w : Slot) (k : FmtB → Instr) : Option Instr := if resB w then some (k (getB w)) else none
def decW (w : Slot) (k : FmtW → Instr) : Option Instr := if resW w then some (k (getW w)) else none

/-- The opcode tables of R101 to R107; where `FN`, `ORD` or `IMM8` tells two rows apart, it does so here. `none` for a
reserved bit that is set; an unassigned code point is its own row (R109). -/
def decodeOp (opc : Nat) (w : Slot) : Option Instr :=
  match opc with
  | 0x000 => decR w .nop
  | 0x001 => decR w .exit
  | 0x002 => decR w .yield
  | 0x008 => decB w .bra
  | 0x009 => decB w .bru
  | 0x00A => decB w .call
  | 0x00B => decB w .ret
  | 0x00C => decB w .jmpi
  | 0x010 => decB w .rcvset
  | 0x011 => decB w .rcv
  | 0x018 => decR w .launch
  | 0x040 => decM w .agen
  | 0x041 => decR w .andR
  | 0x042 => decR w .bfi
  | 0x043 => decR w .bfx
  | 0x044 => decR w .brev
  | 0x045 => decR w .bsel
  | 0x046 => decR w .clz
  | 0x047 => decR w .iabs
  | 0x048 => decR w .iadd
  | 0x049 => decR w .icmp
  | 0x04A => decR w .idiv
  | 0x04B => decR w .imad
  | 0x04C => decR w .imax
  | 0x04D => decR w .imin
  | 0x04E => decR w .imul
  | 0x04F => decR w .imulh
  | 0x050 => decR w .irem
  | 0x051 => decR w .isub
  | 0x052 => decR w fun f => if f.fn == 1 then .movFirst f else .mov f
  | 0x053 => decI w fun f => if f.fn == 1 then .moviHi f else .movi f
  | 0x054 => decR w .orR
  | 0x055 => decR w .popc
  | 0x056 => decR w .rot
  | 0x057 => decR w .sel
  | 0x058 => decR w .shl
  | 0x059 => decR w .shr
  | 0x05A => decR w .sra
  | 0x05B => decR w .xorR
  | 0x081 => decI w .andImm
  | 0x088 => decI w .iaddImm
  | 0x089 => decI w .icmpImm
  | 0x08A => decI w .idivImm
  | 0x08C => decI w .imaxImm
  | 0x08D => decI w .iminImm
  | 0x08E => decI w .imulImm
  | 0x08F => decI w .imulhImm
  | 0x090 => decI w .iremImm
  | 0x091 => decI w .isubImm
  | 0x094 => decI w .orImm
  | 0x096 => decI w .rotImm
  | 0x098 => decI w .shlImm
  | 0x099 => decI w .shrImm
  | 0x09A => decI w .sraImm
  | 0x09B => decI w .xorImm
  | 0x100 => decR w .cvt
  | 0x101 => decR w .fadd
  | 0x102 => decR w .fcmp
  | 0x103 => decR w .fcos
  | 0x104 => decR w .fdiv
  | 0x105 => decR w .fexp2
  | 0x106 => decR w .ffma
  | 0x107 => decR w .flog2
  | 0x108 => decR w .fmax
  | 0x109 => decR w .fmin
  | 0x10A => decR w .fmul
  | 0x10B => decR w .frcp
  | 0x10C => decR w .frnd
  | 0x10D => decR w .frsq
  | 0x10E => decR w .fsin
  | 0x10F => decR w .fsqrt
  | 0x110 => decR w .fsub
  | 0x111 => decR w .ftsum
  | 0x112 => decR w .pfma
  | 0x141 => decI w .faddImm
  | 0x142 => decI w .fcmpImm
  | 0x144 => decI w .fdivImm
  | 0x148 => decI w .fmaxImm
  | 0x149 => decI w .fminImm
  | 0x14A => decI w .fmulImm
  | 0x150 => decI w .fsubImm
  | 0x180 => decW w .muel
  | 0x181 => decW w .wadd
  | 0x182 => decW w .wdot
  | 0x183 => decW w .wexp
  | 0x184 => decW w .wfma
  | 0x185 => decW w .wmul
  | 0x186 => decW w .wscal
  | 0x187 => decW w .wspan
  | 0x188 => decW w .wsum
  | 0x1C0 => decX w .facc
  | 0x1C1 => decR w .leafx
  | 0x1C2 => decX w .tex
  | 0x1C3 => decX w fun f => if f.fn == 1 then .texqRead f else .texq f
  | 0x1C4 => decX w .trace
  | 0x200 => decM w .ld
  | 0x201 => decM w .st
  | 0x202 => decM w .atom
  | 0x203 => decM w .cas
  | 0x204 => decM w fun f => if f.ord == 5 then .fenceWalk f else .fence f
  | 0x205 => decM w .cflush
  | 0x206 => decM w .pref
  | 0x207 => decM w .mcst
  | 0x208 => decX w fun f => if f.fn == 1 then .pldRed f else .pldConv f
  | 0x280 => decX w .coll
  | 0x281 => decX w .copy
  | 0x282 => decX w fun f => if f.fn == 1 then .csigNode f else .csig f
  | 0x283 => decM w .ctest
  | 0x284 => decM w .cwait
  | 0x285 => decX w .gath
  | 0x286 => decX w .node
  | 0x287 => decX w fun f => if f.fn == 1 then .placeGet f else .placeSet f
  | 0x288 => decX w fun f => if f.imm8.getLsbD 1 then .scatAdd f else .scat f
  | 0x2C0 => decX w .mdrn
  | 0x2C1 => decX w .mmac
  | 0x2C2 => decX w .mwl
  | 0x2C3 => decX w .mzero
  | 0x2C4 => decX w .vxm
  | 0x300 => decR w fun f => if f.fn.getLsbD 4 then .barArv f else .bar f
  | 0x301 => decR w .decp
  | 0x302 => decR w .dect
  | 0x303 => decR w .lred
  | 0x304 => decR w .matchR
  | 0x305 => decR w .qpop
  | 0x306 => decR w .qpush
  | 0x307 => decR w .racq
  | 0x308 => decR w .rrel
  | 0x309 => decR w .slane
  | 0x30A => decR w .vpoll
  | 0x30B => decR w .xdeq
  | 0x30C => decR w .xenq
  | 0x30D => decR w fun f => if f.fn == 1 then .xstatFlush f else if f.fn == 2 then .xstatReset f else .xstatQuery f
  | 0x340 => decR w .bkpt
  | 0x341 => decR w .gfail
  | 0x342 => decR w .gfin
  | 0x343 => decR w .merge
  | 0x344 => decR w .rtt
  | 0x345 => decI w .sreg
  | 0x346 => decI w .swr
  | 0x347 => decI w .trap
  | _ => some (.unassignedCodePoint w)

/-- The instruction a slot holds, or the name of the check of R76 it fails. -/
def decodeSlot (w : Slot) : Except DecodeError Instr :=
  match decodeOp (opcOf w) w with
  | none => .error (.reservedBit (opcOf w))
  | some i => if i.wf then .ok i else .error (.fieldValue (opcOf w))

/-- The slot of a line's bytes that starts at byte 12 i (R65). -/
def slotOfBytes (bs : List Byte) (i : Nat) : Slot := BitVec.ofNat 96 (ofBytes ((bs.drop (12 * i)).take 12))

/-- The header of a command message (R354). -/
def decodeHeader (bs : List Byte) : CmdHeader :=
  let w : BitVec 256 := BitVec.ofNat 256 (ofBytes (bs.take 32))
  { cmd := w.extractLsb' 0 8, queue := w.extractLsb' 16 4, asid := w.extractLsb' 32 11, pkg := w.getLsbD 43,
    length := w.extractLsb' 64 32, tag := w.extractLsb' 96 32,
    spare := w.extractLsb' 128 128 ++ w.extractLsb' 44 20 ++ w.extractLsb' 20 12 ++ w.extractLsb' 8 8 }

/-- The 64-bit words of a body (R357). -/
def bodyWords : List Byte → List DWord
  | b0 :: b1 :: b2 :: b3 :: b4 :: b5 :: b6 :: b7 :: bs =>
      BitVec.ofNat 64 (ofBytes [b0, b1, b2, b3, b4, b5, b6, b7]) :: bodyWords bs
  | _ => []

/-- The command a message holds (R355, R359, R362, R363, R365, R366). A message that R354 refuses is
`unknownCmdMessage`. A body whose `FN` or `WHAT` no row names goes to the first row of its command, which refuses it. -/
def decodeCommand (h : CmdHeader) (b : List DWord) : Instr :=
  let fn := (b.headD 0).toNat
  if !(headerOk h && 8 * b.length == h.length.toNat) then .unknownCmdMessage h else
  match h.cmd.toNat with
  | 0x01 => .ctxCreate h b
  | 0x02 => .ctxDestroy h b
  | 0x03 => .map h b
  | 0x04 => .unmap h b
  | 0x05 => .launchCommand h b
  | 0x06 => .graphNode h b
  | 0x07 => .signal h b
  | 0x08 => .wait h b
  | 0x09 => .setDlevel h b
  | 0x0A => if fn % 4 == 1 then .procRangeReset h b else if fn % 4 == 2 then .procRangeDeregister h b
      else .procRangeRegister h b
  | 0x0B => if fn % 4 == 1 then .expertSetDelete h b else .expertSetCreate h b
  | 0x0C => .placementSet h b
  | 0x0D => .trigger h b
  | 0x0E => if fn % 2 == 1 then .preemptResume h b else .preemptStop h b
  | 0x0F => if fn % 2 == 1 then .retentionRestore h b else .retentionRemove h b
  | 0x10 => match fn % 256 with
    | 1 => .queryErrorLog h b
    | 2 => .queryCoreAssignment h b
    | 3 => .queryBlockStates h b
    | 4 => .queryGraphLog h b
    | 5 => .queryLinkLog h b
    | 6 => .queryContextSummary h b
    | _ => .queryIdentity h b
  | 0x11 => .attest h b
  | _ => .unknownCmdMessage h

/-- The command in the bytes of a message (R354). -/
def decodeMessage (bs : List Byte) : Instr := decodeCommand (decodeHeader bs) (bodyWords (bs.drop 32))

/-- The instruction in `nbits` bits numbered as spec/opcode_table.json numbers them: up to 96 bits a slot, more a
command message. -/
def decodeTableWord (nbits w : Nat) : Option Instr :=
  if nbits ≤ 96 then
    match decodeSlot (BitVec.ofNat 96 w) with
    | .ok i => some i
    | .error _ => none
  else some (decodeMessage (toBytes (ceilDiv nbits 8) w))

/-- Bits [16:0] (R73). -/
def encHdr (opc : Nat) (h : Hdr) : BitVec 17 := h.fe ++ BitVec.ofBool h.gn ++ h.g ++ BitVec.ofNat 10 opc

/-- The slots of each format (R77 to R83). -/
def encR (opc : Nat) (f : FmtR) : Slot :=
  (0#24 ++ f.fn ++ f.mode ++ f.ty ++ f.c ++ f.b ++ f.a ++ f.d ++ 0#1 ++ encHdr opc f.h : BitVec 96)
def encI (opc : Nat) (f : FmtI) : Slot :=
  (f.imm ++ 0#10 ++ f.fn ++ f.mode ++ f.ty ++ f.a ++ f.d ++ 0#1 ++ encHdr opc f.h : BitVec 96)
def encM (opc : Nat) (f : FmtM) : Slot :=
  (f.off ++ 0#1 ++ f.wd ++ f.sp ++ BitVec.ofBool f.rep ++ f.rd ++ f.ord ++ f.sc ++ f.ai ++ f.ab ++ f.ds ++ 0#1 ++
    encHdr opc f.h : BitVec 96)
def encX (opc : Nat) (f : FmtX) : Slot :=
  (0#6 ++ f.imm8 ++ f.pb ++ f.py ++ f.px ++ f.fn ++ f.c ++ f.b ++ f.a ++ f.d ++ 0#1 ++ encHdr opc f.h : BitVec 96)
def encB (opc : Nat) (f : FmtB) : Slot :=
  (f.bound ++ 0#9 ++ f.j ++ f.a ++ f.slot ++ f.loff ++ BitVec.ofBool f.u ++ encHdr opc f.h : BitVec 96)
def encW (opc : Nat) (f : FmtW) : Slot :=
  (0#39 ++ f.mode ++ f.fn ++ f.vs ++ f.wc ++ f.wb ++ f.wa ++ f.wd ++ 0#1 ++ encHdr opc f.h : BitVec 96)

/-- The slot that holds an instruction; none for commands and events, which no slot holds. -/
def encode (i : Instr) : Option Slot :=
  match i with
  | .nop f => some (encR 0x000 f)
  | .exit f => some (encR 0x001 f)
  | .yield f => some (encR 0x002 f)
  | .bra f => some (encB 0x008 f)
  | .bru f => some (encB 0x009 f)
  | .call f => some (encB 0x00A f)
  | .ret f => some (encB 0x00B f)
  | .jmpi f => some (encB 0x00C f)
  | .rcvset f => some (encB 0x010 f)
  | .rcv f => some (encB 0x011 f)
  | .launch f => some (encR 0x018 f)
  | .agen f => some (encM 0x040 f)
  | .andR f => some (encR 0x041 f)
  | .bfi f => some (encR 0x042 f)
  | .bfx f => some (encR 0x043 f)
  | .brev f => some (encR 0x044 f)
  | .bsel f => some (encR 0x045 f)
  | .clz f => some (encR 0x046 f)
  | .iabs f => some (encR 0x047 f)
  | .iadd f => some (encR 0x048 f)
  | .icmp f => some (encR 0x049 f)
  | .idiv f => some (encR 0x04A f)
  | .imad f => some (encR 0x04B f)
  | .imax f => some (encR 0x04C f)
  | .imin f => some (encR 0x04D f)
  | .imul f => some (encR 0x04E f)
  | .imulh f => some (encR 0x04F f)
  | .irem f => some (encR 0x050 f)
  | .isub f => some (encR 0x051 f)
  | .movFirst f => some (encR 0x052 f)
  | .mov f => some (encR 0x052 f)
  | .moviHi f => some (encI 0x053 f)
  | .movi f => some (encI 0x053 f)
  | .orR f => some (encR 0x054 f)
  | .popc f => some (encR 0x055 f)
  | .rot f => some (encR 0x056 f)
  | .sel f => some (encR 0x057 f)
  | .shl f => some (encR 0x058 f)
  | .shr f => some (encR 0x059 f)
  | .sra f => some (encR 0x05A f)
  | .xorR f => some (encR 0x05B f)
  | .andImm f => some (encI 0x081 f)
  | .iaddImm f => some (encI 0x088 f)
  | .icmpImm f => some (encI 0x089 f)
  | .idivImm f => some (encI 0x08A f)
  | .imaxImm f => some (encI 0x08C f)
  | .iminImm f => some (encI 0x08D f)
  | .imulImm f => some (encI 0x08E f)
  | .imulhImm f => some (encI 0x08F f)
  | .iremImm f => some (encI 0x090 f)
  | .isubImm f => some (encI 0x091 f)
  | .orImm f => some (encI 0x094 f)
  | .rotImm f => some (encI 0x096 f)
  | .shlImm f => some (encI 0x098 f)
  | .shrImm f => some (encI 0x099 f)
  | .sraImm f => some (encI 0x09A f)
  | .xorImm f => some (encI 0x09B f)
  | .cvt f => some (encR 0x100 f)
  | .fadd f => some (encR 0x101 f)
  | .fcmp f => some (encR 0x102 f)
  | .fcos f => some (encR 0x103 f)
  | .fdiv f => some (encR 0x104 f)
  | .fexp2 f => some (encR 0x105 f)
  | .ffma f => some (encR 0x106 f)
  | .flog2 f => some (encR 0x107 f)
  | .fmax f => some (encR 0x108 f)
  | .fmin f => some (encR 0x109 f)
  | .fmul f => some (encR 0x10A f)
  | .frcp f => some (encR 0x10B f)
  | .frnd f => some (encR 0x10C f)
  | .frsq f => some (encR 0x10D f)
  | .fsin f => some (encR 0x10E f)
  | .fsqrt f => some (encR 0x10F f)
  | .fsub f => some (encR 0x110 f)
  | .ftsum f => some (encR 0x111 f)
  | .pfma f => some (encR 0x112 f)
  | .faddImm f => some (encI 0x141 f)
  | .fcmpImm f => some (encI 0x142 f)
  | .fdivImm f => some (encI 0x144 f)
  | .fmaxImm f => some (encI 0x148 f)
  | .fminImm f => some (encI 0x149 f)
  | .fmulImm f => some (encI 0x14A f)
  | .fsubImm f => some (encI 0x150 f)
  | .muel f => some (encW 0x180 f)
  | .wadd f => some (encW 0x181 f)
  | .wdot f => some (encW 0x182 f)
  | .wexp f => some (encW 0x183 f)
  | .wfma f => some (encW 0x184 f)
  | .wmul f => some (encW 0x185 f)
  | .wscal f => some (encW 0x186 f)
  | .wspan f => some (encW 0x187 f)
  | .wsum f => some (encW 0x188 f)
  | .facc f => some (encX 0x1C0 f)
  | .leafx f => some (encR 0x1C1 f)
  | .tex f => some (encX 0x1C2 f)
  | .texqRead f => some (encX 0x1C3 f)
  | .texq f => some (encX 0x1C3 f)
  | .trace f => some (encX 0x1C4 f)
  | .ld f => some (encM 0x200 f)
  | .st f => some (encM 0x201 f)
  | .atom f => some (encM 0x202 f)
  | .cas f => some (encM 0x203 f)
  | .fenceWalk f => some (encM 0x204 f)
  | .fence f => some (encM 0x204 f)
  | .cflush f => some (encM 0x205 f)
  | .pref f => some (encM 0x206 f)
  | .mcst f => some (encM 0x207 f)
  | .pldRed f => some (encX 0x208 f)
  | .pldConv f => some (encX 0x208 f)
  | .coll f => some (encX 0x280 f)
  | .copy f => some (encX 0x281 f)
  | .csigNode f => some (encX 0x282 f)
  | .csig f => some (encX 0x282 f)
  | .ctest f => some (encM 0x283 f)
  | .cwait f => some (encM 0x284 f)
  | .gath f => some (encX 0x285 f)
  | .node f => some (encX 0x286 f)
  | .placeGet f => some (encX 0x287 f)
  | .placeSet f => some (encX 0x287 f)
  | .scatAdd f => some (encX 0x288 f)
  | .scat f => some (encX 0x288 f)
  | .mdrn f => some (encX 0x2C0 f)
  | .mmac f => some (encX 0x2C1 f)
  | .mwl f => some (encX 0x2C2 f)
  | .mzero f => some (encX 0x2C3 f)
  | .vxm f => some (encX 0x2C4 f)
  | .barArv f => some (encR 0x300 f)
  | .bar f => some (encR 0x300 f)
  | .decp f => some (encR 0x301 f)
  | .dect f => some (encR 0x302 f)
  | .lred f => some (encR 0x303 f)
  | .matchR f => some (encR 0x304 f)
  | .qpop f => some (encR 0x305 f)
  | .qpush f => some (encR 0x306 f)
  | .racq f => some (encR 0x307 f)
  | .rrel f => some (encR 0x308 f)
  | .slane f => some (encR 0x309 f)
  | .vpoll f => some (encR 0x30A f)
  | .xdeq f => some (encR 0x30B f)
  | .xenq f => some (encR 0x30C f)
  | .xstatFlush f => some (encR 0x30D f)
  | .xstatReset f => some (encR 0x30D f)
  | .xstatQuery f => some (encR 0x30D f)
  | .bkpt f => some (encR 0x340 f)
  | .gfail f => some (encR 0x341 f)
  | .gfin f => some (encR 0x342 f)
  | .merge f => some (encR 0x343 f)
  | .rtt f => some (encR 0x344 f)
  | .sreg f => some (encI 0x345 f)
  | .swr f => some (encI 0x346 f)
  | .trap f => some (encI 0x347 f)
  | .unassignedCodePoint w => some w
  | .lineFetch | .teamPlacement | .boot
  | .parkedThreadReexecute .. | .fairnessTimerExpiry .. | .joinBarrierExpiry .. | .watchdog ..
  | .teamRetirement .. | .gridRetirement .. | .activeSetExchange .. | .blockedWaveSwap ..
  | .rotation .. | .registerMoveComplete .. | .skidStop .. | .engineCauseDelivery ..
  | .quarterTransfer .. | .matrixFifoAcceptance .. | .matrixEntryStart .. | .matrixEntryCompletion ..
  | .transferAcceptance .. | .sectorWrite .. | .transferCompletion .. | .csigEffect ..
  | .collectiveChunk .. | .conversionStart .. | .conversionEnd .. | .loadReply .. | .atomicReply ..
  | .texSampleComplete .. | .traceWalkEnd .. | .deferredUpdateArrival .. | .mergePerform ..
  | .fillFrameAvailable .. | .graphWorkCompletion .. | .enqueueEvent .. | .channelGrant ..
  | .laneReclaim .. | .rowActivationRefresh .. | .dirtyLineWriteBack .. | .portLinkLoss ..
  | .ualinkRequest .. | .powerLimitSet .. | .clockStepChange .. | .thermalStepDown ..
  | .thermalShutdown .. | .preemptAcknowledgement .. | .ctxCreate .. | .ctxDestroy .. | .map ..
  | .unmap .. | .launchCommand .. | .graphNode .. | .signal .. | .wait .. | .waitCompletion ..
  | .setDlevel .. | .procRangeRegister .. | .procRangeReset .. | .procRangeDeregister ..
  | .expertSetCreate .. | .expertSetDelete .. | .placementSet .. | .trigger .. | .preemptStop ..
  | .preemptResume .. | .retentionRemove .. | .retentionRestore .. | .queryIdentity ..
  | .queryErrorLog .. | .queryCoreAssignment .. | .queryBlockStates .. | .queryGraphLog ..
  | .queryLinkLog .. | .queryContextSummary .. | .attest .. | .unknownCmdMessage ..
  | .dataLaneLending .. => none

end Sys2Proof
end

