-- ==== Sys2Proof/Config.lean ====
section
/-!
DEFINITION. What the specification leaves open and the model leaves free: constants with no body, of which nothing can
be proved but what holds for every value. Each is named in the assumption log.
-/
namespace Sys2Proof.Config

/-- The last bit of a transcendental result that 800 bits of the exact value do not decide (R423, R498); log 11. -/
opaque tieBreak : Nat → Bool

/-- SHA3-256, named and not spelled out by the specification (R370, R372); log 9. -/
opaque sha3 : List Byte → List Byte

/-- The ML-DSA-44 signature made with the identity key over a digest (R372); log 9. -/
opaque sign : List Byte → List Byte

/-- The identity public key, 1,312 bytes (R371); log 9. -/
opaque publicKey : List Byte

/-- The digests of the boot ROM and of the command-processor ROM (R367); log 9. -/
opaque bootDigest : List Byte
opaque cpDigest : List Byte

/-- The configuration record as the flash holds it, and its SHA3-256 digest (R367, R370); log 9. -/
opaque record : List Byte
def recordDigest : List Byte := sha3 record

/-- The ROM version of the package identity (R366); log 9. -/
opaque romVersion : Nat

/-- The signature of the configuration record, the Lanade public key in the ROM, the verification of ML-DSA-44 by key, digest and signature,
and so whether the record verifies at boot (R370); log 9. -/
opaque recordSignature : List Byte
opaque lanadeKey : List Byte
opaque verify : List Byte → List Byte → List Byte → Bool
def recordVerifies : Bool := verify lanadeKey recordDigest recordSignature

/-- What the bytes of a configuration record say (R370), in a form that no rule gives: the choice of a physical core for each position of
a die among those that are free (R9), the defect map, the clock-step table, the row activation threshold (R221) and the thermal limits;
log 9. -/
opaque recordCores : List Byte → Nat → Nat
opaque recordDefects : List Byte → List Nat
opaque recordSteps : List Byte → List Nat
opaque recordThreshold : List Byte → Nat
opaque recordLimits : List Byte → List Nat

/-- The UALink port that carries the traffic to a station (R304 to R306); log 9. -/
opaque portOf : Nat → Nat

/-- The reading `n` of an input of which the specification states no value, such as a byte of the flash or the order in
which the outside acts; log 5. -/
opaque freeNat : Nat → Nat

/-- The slack that the requests of a graph node carry, by the name of its work (R215 gives it no wave); log 89. -/
opaque freeSlack : Nat → BitVec 64

/-- Whether a matrix entry reads a 4-byte word of scratch as it was at its acceptance, when it was written since (R182): by the entry's name
and the word; log 90. -/
opaque readsOld : Nat → Nat → Bool

/-- The bytes past a row image in the last register of `MDRN.REG` (R185), by the entry's name and the lane; log 91. -/
opaque padBytes : Nat → Nat → Nat

end Sys2Proof.Config
end

