-- ==== Sys2Proof/Machine/Cells.lean ====
section
/-!
DEFINITION. Sparse data by a key: lists of (key, value) pairs in one canonical form, keys strictly rising and no entry
equal to the default. Memory, register files and per-thread data are held so; equal contents are equal lists.
-/
namespace Sys2Proof.Machine

variable {α : Type}

/-- The value at a key, `d` where the key is not listed. -/
def cellGet (d : α) : List (Nat × α) → Nat → α
  | [], _ => d
  | (k, v) :: t, x => if k = x then v else cellGet d t x

/-- The list without a key. -/
def cellErase (l : List (Nat × α)) (x : Nat) : List (Nat × α) := l.filter (fun p => p.1 != x)

/-- The pair put at its place in rising order. -/
def cellInsert (x : Nat) (v : α) : List (Nat × α) → List (Nat × α)
  | [] => [(x, v)]
  | (k, u) :: t => if x < k then (x, v) :: (k, u) :: t else (k, u) :: cellInsert x v t

/-- A write: the canonical list whose value at `x` is `v`. -/
def cellSet [DecidableEq α] (d : α) (l : List (Nat × α)) (x : Nat) (v : α) : List (Nat × α) :=
  if v = d then cellErase l x else cellInsert x v (cellErase l x)

/-- Several writes, the first of the list first. -/
def cellSets [DecidableEq α] (d : α) (l : List (Nat × α)) (ws : List (Nat × α)) : List (Nat × α) :=
  ws.foldl (fun m p => cellSet d m p.1 p.2) l

/-- Keys strictly rise. -/
def cellRising : List (Nat × α) → Bool
  | [] => true
  | [_] => true
  | (k, _) :: (k', v') :: t => decide (k < k') && cellRising ((k', v') :: t)

/-- The canonical form. -/
def cellWf [DecidableEq α] (d : α) (l : List (Nat × α)) : Bool :=
  cellRising l && l.all (fun p => p.2 != d)

end Sys2Proof.Machine
end

