-- ==== Sys2Proof/Machine/State.lean ====
section
/-!
DEFINITION. The state of the machine as plain data: the package and its memories, the contexts, grids, teams and waves with
all their registers, the engines' work in flight, and what the outside has offered. One line of INVENTORY.md stands
behind each field. The fields marked MODEL are the model's own and no state of the specification (logs 5 and 6).
-/
namespace Sys2Proof.Machine

/-- Why a step stops with a fault. -/
inductive Fault where
  /-- `exec` of an instruction in a state in which no group of threads issues. Raised by every instruction a slot holds;
  no step of the machine reaches it, since `step` names the issuing group first. Safe. -/
  | noIssuingGroup
  deriving DecidableEq, Repr

/-- Why the model gives no meaning. -/
inductive Refusal where
  /-- The instruction has no meaning in the model yet; raised by its arm of `exec`. Safe. -/
  | notModelled (mnemonic : String)
  deriving DecidableEq, Repr

/-- Roles of waves and the lead thread (R49), with the codes of the launch record (R369). -/
inductive Role where
  | copy
  | matrix
  | vector
  | general
  | lead
  deriving DecidableEq, Repr

/-- What a parked thread's access missed on (R44): a 64 KiB range of VA, or a block of a procedural range. -/
inductive MissOn where
  | page (base : Nat)
  | block (range idx : Nat)
  deriving DecidableEq, Repr

/-- What became of a miss: it is outstanding, it resolved, or it resolved as a fault (R46). -/
inductive MissState where
  | waiting
  | resolved
  | failed (cause : Nat)
  deriving DecidableEq, Repr

/-- Where the bytes of some accesses that an entry held stand now, by VA (R320): a byte not listed stands where it is, one without a place
has left the package. -/
abbrev Places := List (Nat × Option Nat)

/-- What a blocked thread waits on (R33). -/
inductive Wait where
  /-- A stage ring and side (R52); the instruction issues again when the wait is over, as for those that follow. -/
  | ring (n : Nat) (cons : Bool)
  /-- A completion object and a threshold (R404). -/
  | object (va threshold : Nat)
  /-- Lines that an engine owns (R258). -/
  | owned (va n : Nat)
  /-- An accumulator tile with entries unfinished that were accepted before the request of a name (R178). -/
  | tile (n before : Nat)
  /-- The decision queue: full (R410), or without the entry of a place in the order of appends (R412). -/
  | full
  | decision (seq : Nat)
  /-- A hardware queue: room for entries, or an entry (R467). -/
  | room (q n : Nat)
  | entry (q : Nat)
  /-- A hardware queue's entry for an S destination, which blocks the whole wave (R467). -/
  | entryS (q : Nat)
  /-- Bytes that the instruction reads at issue and a placement entry that converts holds; and the value of an access that it holds
  (R320), by request; that of an S register blocks the whole wave, whose threads would read it. -/
  | convert (lane : Nat)
  | reply (req : Nat) (whole : Bool)
  /-- The other copy of a redundant team (R301). -/
  | copy
  /-- `RCV` of a join barrier, naming the predicate it writes. -/
  | rcv (j p : Nat)
  /-- `BAR` of a team barrier, and whether the wave's arrival has been counted in the phase (R389). -/
  | bar (n : Nat) (arrived : Bool)
  /-- `BAR.ARV` of a wave whose arrival is recorded in the phase: until the phase releases (R389). -/
  | barPhase (n : Nat)
  /-- `MERGE`. -/
  | merge
  /-- The stores of a lane's thread that no walk sees yet (R232). -/
  | unseen (lane : Nat)
  /-- At issue: free request slots (R207), a bay's staging of a weight slot (R174), or the requests of the load that is to be performed
  at the pseudo-channels (R217). -/
  | slots (n : Nat)
  | staging (slot : Nat)
  | channel
  deriving DecidableEq, Repr

/-- The state of a thread (R33). -/
inductive Run where
  | ready
  | blocked (w : Wait)
  /-- Parked on misses of an access at a VA (R44, R46). -/
  | parked (on : List MissOn) (va : Nat) (st : MissState)
  | ended
  deriving DecidableEq, Repr

/-- A thread (R25, R33, R74, R122, R128, R338, R267). `preds` bit i is Pi. -/
structure Thread where
  pc : DWord
  run : Run
  preds : BitVec 8
  fen : BitVec 6
  srcnt : DWord
  /-- Issue slots since the thread last issued (R34). -/
  idle : Nat
  /-- Deferred-update instructions issued since launch (R267). -/
  q : Nat
  /-- The thread has stored at D2 or D3 since the last merge (R232, R295). -/
  unseen : Bool
  tret1 : DWord
  tret2 : DWord
  saved1 : Run
  saved2 : Run
  /-- Loop buffer, newest first, by PC (R37). -/
  loop : List DWord
  /-- The bytes that an entry held of the reads which the instruction at a PC makes at issue, as they were read when its conversion had
  ended, by PC and VA; none where that raised a cause (R320). -/
  seen : List (DWord × Nat × Option Byte)
  deriving DecidableEq, Repr

/-- What a lane that holds no thread reads as: ended. -/
def Thread.none : Thread :=
  { pc := 0, run := .ended, preds := 0, fen := 0, srcnt := 0, idle := 0, q := 0, unseen := false, tret1 := 0, tret2 := 0,
    saved1 := .ended, saved2 := .ended, loop := [], seen := [] }

/-- A join barrier (R39) with its watchdog count (R347). `young` marks the slot of an episode's first arrival. -/
structure Join where
  exp : LaneMask
  arr : LaneMask
  ext : LaneMask
  brk : Bool
  bnd : Nat
  cnt : Nat
  wdc : Nat
  young : Bool
  deriving DecidableEq, Repr

/-- The join barriers at launch (R39). -/
def Join.none : Join := { exp := 0, arr := 0, ext := 0, brk := false, bnd := 0, cnt := 0, wdc := 0, young := false }

/-- How a halt stands with a wave (R334): it runs, issues skid instructions, or has stopped. -/
inductive Halt where
  | running
  | skid (count : Nat)
  | stopped
  deriving DecidableEq, Repr

/-- A wave that holds its issue: the lanes and PC of the instruction that waits, and the piece of work it waits on, none
when it issues again by itself. -/
structure Hold where
  lanes : LaneMask
  pc : DWord
  work : Option Nat
  on : Option Wait
  deriving DecidableEq, Repr

/-- One level of banked trap registers (R338). -/
structure Bank where
  cause : Nat
  eng : Bool
  addr : DWord
  mask : LaneMask
  deriving DecidableEq, Repr

def Bank.zero : Bank := { cause := 0, eng := false, addr := 0, mask := 0 }

/-- A wave, or a lead thread as wave 32 with lane 0 alone (R25, R26). -/
structure Wave where
  id : WaveId
  role : Role
  core : Nat
  bay : Nat
  place : Nat
  nregs : Nat
  bpc : DWord
  /-- The fairness timer, and the value saved at each handler entry (R34, R340). -/
  fair : Nat
  fair1 : Nat
  fair2 : Nat
  /-- S0 to S63, and V register r of lane l at 32 r + l (R87). -/
  s : List (Nat × DWord)
  v : List (Nat × Word)
  /-- Empty V registers with the request that fills each (R90), 0 where an error left the register empty and none will (R157, R223); and
  registers marked failed (R412). -/
  empties : List (Nat × Nat)
  failed : List Nat
  /-- Registers in which an uncorrectable error stands to be found (R223): lane, 0 for an S register, and register code. -/
  badRegs : List (Nat × Nat)
  threads : List (Nat × Thread)
  flags : BitVec 6
  srkey : DWord
  wlrange : DWord
  dslack : DWord
  /-- `PRIO.GRID` and `PRIO.LEVEL` (R274). -/
  prioGrid : Nat
  prioLevel : Nat
  /-- The `LEVEL` that the issue stage uses in this clock (R274). -/
  prioUse : Nat
  handler : DWord
  tlevel : Nat
  tskid : DWord
  bank1 : Bank
  bank2 : Bank
  joins : List (Nat × Join)
  /-- Position s and phase e per ring and side, at key 2 n + side, as 2 s + e (R52). -/
  ring : List (Nat × Nat)
  /-- Decision-queue entries claimed, by sequence number (R411). -/
  decPos : Nat
  active : Bool
  /-- Bay clocks in the active set, or in the paddock; clocks blocked in a row (R282, R283). -/
  age : Nat
  blockedFor : Nat
  /-- 0, or the clocks since `YIELD` marked the wave, plus 1 (R62). -/
  yielded : Nat
  resident : Bool
  /-- The moves of registers that the wave takes part in and that are not complete, by name (R284). -/
  moves : List Nat
  /-- Of a wave of a redundant team whose copy on the lower core has retired: the core, bay and place of that copy's wave (R299). -/
  saver : Option (Nat × Nat × Nat)
  halt : Halt
  /-- The next fetch is the first at HANDLER after an entry (R342); the first of the kernel or lead section (R71). -/
  firstFetch : Bool
  entry : Bool
  hold : Option Hold
  /-- The wave has issued in this clock; the ready threads off BPC at the start of that slot that have not issued in it, which may
  issue from their loop buffers (R34, R37). -/
  issued : Bool
  others : LaneMask
  deriving DecidableEq, Repr

/-- A team barrier (R388) and the operands of each wave's latest `BAR` group of the phase: wave, mask, A, `.ARV`. -/
structure TeamBar where
  mask : Option (BitVec 33)
  arr : BitVec 33
  xs : Nat
  eng : Nat
  ops : List (Nat × Nat × Nat)
  /-- Lanes that have executed `.ARV` in the phase, by wave. -/
  arvs : List (Nat × LaneMask)
  deriving DecidableEq, Repr

def TeamBar.none : TeamBar := { mask := Option.none, arr := 0, xs := 0, eng := 0, ops := [], arvs := [] }

/-- A stage-ring configuration (R51, R369). -/
structure RingCfg where
  n : Nat
  prod : Nat
  p : Nat
  cons : Nat
  c : Nat
  deriving DecidableEq, Repr

/-- A stage-ring slot (R52): state, phase, and the waves that have released it in the phase (R469). -/
structure RingSlot where
  full : Bool
  ph : Bool
  done : List Nat
  deriving DecidableEq, Repr

def RingSlot.none : RingSlot := { full := false, ph := false, done := [] }

/-- A decision-queue entry (R55): its place in the order of appends, value, and the waves that have still to claim it. -/
structure Decision where
  seq : Nat
  value : DWord
  mask : LaneMask
  deriving DecidableEq, Repr

/-- A cause that waits for delivery (R333): the wave it goes to, the code, `TADDR` and `TMASK`. -/
structure Pending where
  wave : Option Nat
  cause : Nat
  addr : Nat
  mask : LaneMask
  deriving DecidableEq, Repr

/-- A deferred update (R265, R267): the core that sent it (R19), its key, location, operation as `ATOM` codes it or 16 for `FACC` and 17
up for the formats of scatter-add, value, and width. -/
structure Update where
  src : Nat
  t : Nat
  q : Nat
  e : Nat
  va : Nat
  op : Nat
  signed : Bool
  width : Nat
  value : Nat
  sat : Bool
  deriving DecidableEq, Repr

/-- What a team brings to a merge (R295, R297): its index and copy, the bytes of its write set by VA, those of them that
`MCST` wrote, and its deferred updates. -/
structure Share where
  team : Nat
  copy : Nat
  bytes : List (Nat × Byte)
  reps : List Nat
  updates : List Update
  deriving DecidableEq, Repr

/-- A staged quarter of weights (R174): its member position, slot, quartet, type, bytes and scales. -/
structure Quarter where
  bay : Nat
  slot : Nat
  quartet : Nat
  ty : Nat
  bytes : List Byte
  scales : List Byte
  deriving DecidableEq, Repr

/-- The states of a weight slot (R175). -/
inductive SlotState where
  | empty
  | filling
  | latched
  | draining
  deriving DecidableEq, Repr

/-- A weight slot of the core's matrix team (R172, R175): its state, the latched generation with its type and quarters, and
the forming one with the type and the quartet recorded for it. -/
structure WSlot where
  state : SlotState
  gen : Nat
  ty : Nat
  latched : List Quarter
  formTy : Nat
  formQuartet : Nat
  filled : List Quarter
  deriving DecidableEq, Repr

def WSlot.none : WSlot := { state := .empty, gen := 0, ty := 0, latched := [], formTy := 0, formQuartet := 0, filled := [] }

/-- A team (R25, R52, R55, R205, R295, R333, R388). -/
structure Team where
  id : TeamId
  core : Nat
  nwaves : Nat
  hasLead : Bool
  /-- Waves that have retired, and whether the lead thread has executed `EXIT`. -/
  gone : LaneMask
  leadEnded : Bool
  /-- The halt: the wave that runs the handler (R334). -/
  halted : Option Nat
  pending : List Pending
  bars : List (Nat × TeamBar)
  rings : List RingCfg
  ringSlots : List (Nat × RingSlot)
  decisions : List Decision
  decNext : Nat
  scratch : List (Nat × Byte)
  /-- Bytes of the pool in which an uncorrectable error stands to be found (R223): 1 for scratch or 2 + n for the
  accumulators of bay n, and address. -/
  badPool : List (Nat × Nat)
  /-- Accumulator words by ((bay · tiles + tile) · 32 + row) · 128 + column (R178). -/
  acc : List (Nat × Word)
  /-- The core's two weight slots, which the team holds, and quarters staged and not transferred (R172, R174, R175). -/
  wslots : List (Nat × WSlot)
  staged : List Quarter
  /-- Bytes the team has written in the episode at D2 and D3, by VA (R295); `MCST` bytes are marked. -/
  wset : List (Nat × Byte)
  wrep : List Nat
  updates : List Update
  /-- The batch of a firing grid's team: records of 128 bits (R326). -/
  batch : List Nat
  /-- Waves that have arrived at the merge (R296); 32 is the lead thread. -/
  merged : List Nat
  /-- The effect that a copy of a redundant team waits to share, and its operands (R301). -/
  meet : List (Nat × List Nat)
  /-- Engine commands of the team that have not completed (R30). -/
  owed : Nat
  /-- Ended by its handler (R344). -/
  ended : Bool
  /-- Redundant: `DLEVEL.RED` (R291). -/
  red : Bool
  /-- Saved by a pre-emption, its places freed until it resumes (R288, R350). -/
  away : Bool
  deriving DecidableEq, Repr

/-- A launch record's fields (R369). -/
structure LaunchRec where
  kpc : DWord
  hpc : DWord
  arg : DWord
  gx : Nat
  gy : Nat
  gz : Nat
  rf : Nat
  scr : Nat
  acc : Nat
  nregs : Nat
  ncopy : Nat
  nquad : Nat
  nvec : Nat
  ngen : Nat
  cor : Bool
  prio : Nat
  dlvl : Nat
  width : Nat
  height : Nat
  twalk : Bool
  rfirst : Nat
  rlast : Nat
  rings : List RingCfg
  lpc : DWord
  deriving DecidableEq, Repr

/-- Where a grid comes from, and what its retirement releases (R29, R30). -/
inductive Origin where
  /-- A host `LAUNCH`: the queue and tag of its command. -/
  | host (queue : Nat) (tag : Nat)
  /-- A `LAUNCH` instruction: the parent grid, the issuing wave and the completion object, 0 for none. -/
  | child (parent : GridId) (wave : WaveId) (obj : Nat)
  /-- A graph node's slot (R277). -/
  | graph (core slot : Nat)
  /-- The generator of a procedural block (R241). -/
  | generator (range blk depth : Nat)
  /-- A firing of an expert (R326): the expert, the firing number and the records of the batch. -/
  | firing (expert number : Nat) (batch : List Nat)
  deriving DecidableEq, Repr

/-- A grid (R25, R29, R30, R279, R290). -/
structure Grid where
  id : GridId
  lrec : LaunchRec
  origin : Origin
  depth : Nat
  prio : Nat
  level : Nat
  /-- Top-left core of the rectangle, once chosen (R279). -/
  rect : Option Nat
  /-- Teams placed, and retired, by index and copy. -/
  placed : List (Nat × Nat)
  retired : List (Nat × Nat)
  /-- What retired teams leave for the merge and the drain (R296, R297). -/
  left : List Share
  gfin : Bool
  gfail : Bool
  faulted : Bool
  /-- The cause of the handler that first ended a team: code, `TADDR`, team and wave (R276, R344). -/
  endedBy : Option (Nat × Nat × Nat × Nat)
  /-- The order of launches in the package (R280). -/
  order : Nat
  /-- The merges that the grid has performed (R297). -/
  merges : Nat
  /-- Deferred updates held per 128-byte line (R266). -/
  heldLines : List (Nat × Nat)
  /-- Stopped with its chain of fills (R242): it stays for the matrix entries that had started, which complete (R348). -/
  dropped : Bool
  deriving DecidableEq, Repr

/-- A queued or running command (R271), and how far a running `TRIGGER` has come (R168, R238): 0, or 2 n from the number n of
its record, plus 1 once the record is written. -/
structure Cmd where
  h : CmdHeader
  body : List DWord
  step : Nat
  deriving DecidableEq, Repr

/-- A procedural block (R240, R242): its state, written mark, fill depth, when its fill ended, its frame, and the block
whose generator grid started its fill (range and index). -/
structure Block where
  state : Nat
  written : Bool
  depth : Nat
  ended : Nat
  frame : Option Nat
  parent : Option (Nat × Nat)
  deriving DecidableEq, Repr

def Block.empty : Block := { state := 0, written := false, depth := 0, ended := 0, frame := none, parent := none }

/-- A procedural range (R239). -/
structure ProcRange where
  base : Nat
  big : Bool
  nblk : Nat
  pool : Nat
  nfrm : Nat
  lrec : LaunchRec
  blocks : List (Nat × Block)
  /-- Fills that wait for a frame: block and priority, oldest first (R244). -/
  waiting : List (Nat × Nat)
  deriving DecidableEq, Repr

/-- A token record in a siding (R322 to R324): its event number, its 128 bits, and its place in the spill area, if it is there. -/
structure Token where
  stamp : Nat
  word : Nat
  place : Option Nat
  deriving DecidableEq, Repr

/-- A firing whose grid has not retired (R324): its number, its expert, and where each record of its batch stands, in the order of the
batch: in the store, or in a place of the spill area. -/
structure Firing where
  number : Nat
  expert : Nat
  spots : List (Option Nat)
  deriving DecidableEq, Repr

/-- An entry of the combine buffer with slots marked (R330): each slot with its weight, and the launch number of the grid
that marked the last. -/
structure Mark where
  entry : Nat
  slots : List (Nat × Nat)
  lseq : Nat
  deriving DecidableEq, Repr

/-- An expert set (R321). -/
structure ExpertSet where
  nexp : Nat
  t : Nat
  a : Nat
  kslots : Nat
  nseq : Nat
  npos : Nat
  h : Nat
  cbuf : Nat
  ccomp : Nat
  spill : Nat
  spsize : Nat
  recs : List LaunchRec
  sidings : List (Nat × List Token)
  marks : List Mark
  /-- Combinations whose output is written and whose `CCOMP` increment is not made: entry and launch number (R238, R330). -/
  comps : List (Nat × Nat)
  firings : Nat
  fired : List Firing
  deriving DecidableEq, Repr

/-- Who issued a piece of work: a wave, or a graph slot of a core; and under which context. -/
inductive Issuer where
  | wave (w : WaveId)
  | node (core slot : Nat)
  deriving DecidableEq, Repr

/-- What a request carries to the pseudo-channels (R214, R215, R217): its class, the `DSLACK` it was issued with, and the core and context
charged with its misses. -/
structure Carry where
  cls : Nat
  dslack : DWord
  charge : Option (Nat × Nat)
  deriving DecidableEq, Repr

def Carry.none : Carry := { cls := 1, dslack := 0, charge := Option.none }

/-- A numbered demand for a placement state (R318, R319): the entry, its number, the states demanded, the new shard's
descriptor and its handle, the issuers with their completion objects, and whether its conversion runs or has ended with
increments still to make. -/
structure Demand where
  idx : Nat
  number : Nat
  target : List Nat
  dstVa : Nat
  dst : BitVec 512
  objs : List (Issuer × Nat)
  level : Nat
  /-- The place of its acceptance, or of its return after a stop, among the works that own lines (R257 to R259). -/
  order : Nat
  started : Bool
  ended : Bool
  /-- What its accesses carry, captured from its first issuer (R215). -/
  carry : Carry
  deriving DecidableEq, Repr

/-- A context (R228, R230, R339, R345, R350, R358). -/
structure Ctx where
  asid : Nat
  ptroot : DWord
  heapBase : DWord
  heapLimit : DWord
  heapOff : DWord
  tsb : Nat
  savePa : Nat
  saveSz : Nat
  spillPa : Nat
  spillVa : Nat
  spillSz : Nat
  mergePa : Nat
  mergeSz : Nat
  qAreaPa : Nat
  qAreaSz : Nat
  statusVa : Nat
  ring : Nat
  ringN : Nat
  wd : Nat
  f : Nat
  nq : Nat
  qprio : List Nat
  drank : DWord
  ranks : List Nat
  qsize : List Nat
  /-- Commands queued per queue and running per queue; levels and counts of completions per queue. -/
  queued : List (Nat × List Cmd)
  running : List (Nat × Cmd)
  qlevel : List (Nat × Nat)
  qdone : List (Nat × Nat)
  /-- Q0 to Q63: entries, and pops that wait for an entry (request ids), oldest first (R57, R467). -/
  hwq : List (Nat × List DWord)
  pops : List (Nat × List Nat)
  /-- `MISSED` by core (R217). -/
  missed : List (Nat × DWord)
  spillUsed : Nat
  mergeUsed : Nat
  trigN : Nat
  lseq : Nat
  /-- Placement entries by index, 512 bits each (R314), and their shards' descriptors as read when the entry was written. -/
  place : List (Nat × BitVec 512)
  shards : List (Nat × BitVec 512)
  /-- Demands by entry in the order of their numbers, and how many each entry has numbered (R319). -/
  demands : List Demand
  demanded : List (Nat × Nat)
  procs : List (Nat × ProcRange)
  experts : Option ExpertSet
  nrec : Nat
  stState : Nat
  kcause : Nat
  /-- Stopped by `PREEMPT`, with the units that have still to acknowledge (R348, R349). -/
  stopped : Bool
  acks : List UnitId
  /-- Decrements discarded per core (R276). -/
  graphLog : List (Nat × Nat)
  /-- Page requests outstanding (R236). -/
  pageReqs : List Nat
  killed : Bool
  deriving DecidableEq, Repr

/-- A value on its way to a register (R90): lane, register code, 32 bits for a V register, 64 for an S register. -/
structure Fill where
  lane : Nat
  code : Nat
  val : DWord
  deriving DecidableEq, Repr

/-- What a pending request is. -/
inductive ReqKind where
  | load
  | atomic
  | texture
  /-- A `TEXQ` of a texture unit (R145, R146). -/
  | marks
  /-- A walk (R154): its mode, the first result register, and for each lane the ray's eight words, the root reference and
  the ray mask. -/
  | walk (any : Bool) (d : Nat) (rays : List (Nat × List Nat))
  /-- A claimed pop of a hardware queue (R467): queue, and the lane it goes to. -/
  | pop (q : Nat)
  /-- A claimed decision-queue entry (R412), by sequence number. -/
  | decision (seq : Nat)
  /-- An engine's result. -/
  | engine
  /-- The value of an access that a converting entry holds, for a thread that waits for it (R320). -/
  | value
  deriving DecidableEq, Repr

/-- A request slot of a core (R207): the core, the issue of the instruction that took it, and the aligned 512-byte range of VA that it
stands for. What keeps one slot for several of its accesses names it more than once. -/
abbrev SlotTok := Nat × Nat × Nat

/-- A request whose reply is pending (R90, R264): the core and bay whose unit performs it (R24), and the request slots of that core
that it keeps until the reply (R207). -/
structure Req where
  id : Nat
  wave : WaveId
  core : Nat
  bay : Nat
  slots : List SlotTok
  carry : Carry
  kind : ReqKind
  fills : List Fill
  deriving DecidableEq, Repr

/-- A transfer of a copy engine (R194, R199 to R202). -/
structure Xfer where
  id : Nat
  core : Nat
  asid : Nat
  level : Nat
  issuer : Issuer
  /-- 0 `COPY`, 1 `GATH`, 2 `SCAT`, 3 scatter-add (R275). -/
  op : Nat
  dst : BitVec 512
  src : BitVec 512
  dstVa : Nat
  srcVa : Nat
  origin : DWord
  slab : Bool
  obj : Nat
  /-- Sectors written, as addresses divided by 512, and slabs whose increment is made. -/
  done : List Int
  slabs : Nat
  accepted : Bool
  t : Nat
  q : Nat
  /-- The indices, once read (R197), none before. -/
  idx : List Int
  idxRead : Bool
  /-- The bytes of blocks that are written in part, by base: a sector holds the rest (R195, R200). -/
  formed : List (Int × List Byte)
  /-- The scatter-adds of a graph node that wait for its drain (R198, R265). -/
  later : List Update
  /-- The cause and VA that ended it, while such scatter-adds of written sectors are still to be applied (R202). -/
  failed : Option (Nat × Nat)
  /-- The place of its acceptance, or of its return after a stop, among the works that own lines (R257 to R259). -/
  order : Nat
  /-- `DSLACK` as captured at acceptance (R215). -/
  carry : Carry
  deriving DecidableEq, Repr

/-- A pending `CSIG` (R402): the transfers it waits on. -/
structure Csig where
  id : Nat
  wave : WaveId
  core : Nat
  obj : Nat
  value : DWord
  slot : Option Nat
  after : List Nat
  deriving DecidableEq, Repr

/-- A collective operation (R307 to R313). -/
structure Coll where
  id : Nat
  asid : Nat
  die : Nat
  issuer : Issuer
  block : BitVec 256
  blockVa : Nat
  src : BitVec 512
  dst : BitVec 512
  obj : Nat
  /-- Chunks written, and completion increments made. -/
  done : List Nat
  incs : Nat
  accepted : Bool
  /-- As of a transfer. -/
  order : Nat
  carry : Carry
  deriving DecidableEq, Repr

/-- A matrix FIFO entry (R176, R188): its instruction, the wave and lanes at acceptance, the register sources read then,
the PAs of the bytes it drains to, of its residual and of its weights, translated at acceptance, by lane, the bound slot
and generation, and whether it has started. -/
structure Entry where
  id : Nat
  wave : WaveId
  bay : Nat
  instr : Instr
  lanes : LaneMask
  srcs : List (Nat × Word)
  scal : List Nat
  /-- The drain descriptor of `MDRN` (R184). -/
  desc : BitVec 512
  dst : List (Nat × List (Nat × Nat))
  res : List (Nat × List (Nat × Nat))
  slot : Nat
  gen : Nat
  started : Bool
  /-- As of a transfer. -/
  order : Nat
  carry : Carry
  /-- The scratch of the team at the acceptance of an `MMAC` that reads some (R182). -/
  seen : List (Nat × Byte)
  deriving DecidableEq, Repr

/-- A byte of an access that an engine's work, or a write or read on a context's behalf, makes while an entry converts (R320): the work and
the part of it that makes the access, the byte's VA, where it stands now, none where its element has left this package, the entry that
still holds it, and the access's place in the order of arrival. -/
structure HeldByte where
  asid : Nat
  work : Nat × Nat
  part : Nat
  va : Nat
  now : Option Nat
  held : Option Nat
  order : Nat
  deriving DecidableEq, Repr

/-- An engine's work, a walk, or a write or read on a context's behalf, held on a procedural block (R199, R236, R238, R242): the work's
name, the block, the VA of the access that met it, and what became of the miss. -/
structure Stall where
  asid : Nat
  work : Nat × Nat
  range : Nat
  idx : Nat
  va : Nat
  st : MissState
  deriving DecidableEq, Repr

/-- A graph slot (R276): state 0 FREE, 1 WAITING, 2 RUNNING; 3 is RUNNING with its successors decremented and `COMP` held
(R238), 4 is RUNNING with its `WORK` still to be read (R513). `slab` says that its successors with `SLAB` are decremented
per increment (R277). -/
structure NodeSlot where
  state : Nat
  count : Int
  asid : Option Nat
  desc : BitVec 512
  /-- The level queue 0 had captured at entry (R275, R290). -/
  level : Nat
  slab : Bool
  /-- The launch number of its grid, 0 for other work (R238). -/
  lseq : Nat
  deriving DecidableEq, Repr

def NodeSlot.free : NodeSlot :=
  { state := 0, count := 0, asid := none, desc := 0, level := 0, slab := false, lseq := 0 }

/-- An access without a value to return that is not acknowledged: a name, and the request slots it keeps (R207). -/
structure Ack where
  id : Nat
  slots : List SlotTok
  carry : Carry
  deriving DecidableEq, Repr

/-- A core (R11 to R15). -/
structure Core where
  /-- Instruction-cache lines: ASID, line address, and the 64 bytes as fetched (R208, R209). -/
  icache : List (Nat × Nat × BitVec 512)
  fifo : List Entry
  graph : List (Nat × NodeSlot)
  /-- Accesses without a value to return that are not acknowledged (R207). -/
  acks : List Ack
  /-- Requests of the copy engine that are not acknowledged, by name: one of 2,048 slots each (R207). -/
  sectors : List Nat
  /-- MODEL: the clocks that have ended, which tell what began in one clock (R287). -/
  clocks : Nat
  deriving DecidableEq, Repr

/-- A core at reset (R175, R207, R276). -/
def Core.reset : Core := { icache := [], fifo := [], graph := [], acks := [], sectors := [], clocks := 0 }

/-- Work that waits at issue for a unit to accept it (R176, R323, R399), in the order in which the waiting began; and an access of a wave
that a placement entry holds (R320), which keeps its request slots (R207). Its bytes stand at `spots`; `freed` says that the conversion
has ended, so that it is to be performed there. -/
structure Waiting where
  id : Nat
  wave : WaveId
  lanes : LaneMask
  pc : DWord
  instr : Instr
  core : Nat
  nums : List Nat
  /-- The clocks of its core that had ended when the waiting began (R287). -/
  since : Nat
  slots : List SlotTok
  spots : List Nat
  /-- The PAs at which it was translated when it arrived, byte by byte; none once its element has moved (R244). -/
  pas : List Nat
  freed : Bool
  deriving DecidableEq, Repr

/-- Whose request reaches a pseudo-channel (R214): a pending request, an access that is not acknowledged, a transfer, collective or
conversion by name, a matrix entry, an instruction fetch or `PREF` of a wave, a load of a wave whose value returns in the step that
performs it (into an S register, of a completion object, of a descriptor), a write-back, a transfer of deep retention or of the
capacity tier, or traffic of the command processor, for whose class no row stands (log 89). -/
inductive ChanOrigin where
  | request (id : Nat)
  | access (core id : Nat)
  | work (name : Nat × Nat)
  | matrix (core id : Nat)
  | fetch (w : WaveId)
  | prefetch (w : WaveId)
  | scalar (w : WaveId)
  | writeBack
  | tier
  | command (cls : Nat)
  deriving DecidableEq, Repr

/-- A request at a pseudo-channel (R214 to R216): arrival clock, class, slack, 64-byte block, the core and context charged with a miss,
and its origin. -/
structure ChanReq where
  arrival : Nat
  cls : Nat
  slack : Nat
  block : Nat
  charge : Option (Nat × Nat)
  origin : ChanOrigin
  deriving DecidableEq, Repr

/-- A pseudo-channel (R213, R216, R218): its clock, pass counts of LATENCY, BULK and FILL, waiting requests, whether
its data lanes are lent or called back, and the channel clocks that the handshake under way has taken. -/
structure Chan where
  clock : Nat
  pass : List Nat
  waiting : List ChanReq
  lent : Bool
  reclaiming : Bool
  shake : Nat
  deriving DecidableEq, Repr

def Chan.idle : Chan := { clock := 0, pass := [0, 0, 0], waiting := [], lent := false, reclaiming := false, shake := 0 }

/-- Where a TLB stands (R234): in a bay of a core, in a core, or in a compute die. -/
inductive TlbPlace where
  | bay (core n : Nat)
  | core (n : Nat)
  | die (n : Nat)
  deriving DecidableEq, Repr

/-- A cached page, or a walked table entry with the address of the next table (R234). -/
structure TlbEntry where
  place : TlbPlace
  asid : Nat
  level : Nat
  table : Bool
  va : Nat
  pa : Nat
  w : Bool
  x : Bool
  deriving DecidableEq, Repr

/-- An error-log entry (R366): kind, unit, die or stack, channel, PA, and count. -/
structure LogEntry where
  kind : Nat
  unit : Nat
  die : Nat
  chan : Nat
  pa : Nat
  count : Nat
  deriving DecidableEq, Repr

/-- A removed layer (R219): its number, ASID and tier address of the removing command. -/
structure Layer where
  layer : Nat
  tier : Nat
  deriving DecidableEq, Repr

/-- A UALink port (R304, R306). -/
structure Port where
  up : Bool
  errs : Nat
  losses : Nat
  deriving DecidableEq, Repr

def Port.start : Port := { up := true, errs := 0, losses := 0 }

/-- What another package of a context's domain has offered (R307, R319): MODEL input. `kind` 0 is its part in the
collective that this package names `number`: its block above the handles, and its source's elements. `kind` 1 is its
demand `number` for an entry: the entry and the states, and its shard's elements. Elements stand in row order, each as its
code in whole bytes, followed by its scale byte in BLOCKED. -/
structure Peer where
  asid : Nat
  number : Nat
  rank : Nat
  kind : Nat
  words : List Nat
  data : List Byte
  deriving DecidableEq, Repr

/-- What the package sent over UALink (R304, R311). -/
structure UalMsg where
  station : Nat
  kind : Nat
  addr : Nat
  data : List Byte
  deriving DecidableEq, Repr

/-- A context status block on its way to memory (R238, R345): its bytes, and the count, state and kill cause that it reports (R356). -/
structure HeldWrite where
  asid : Nat
  va : Nat
  bytes : List Byte
  nrec : Nat
  st : Nat
  kcause : Nat
  deriving DecidableEq, Repr

/-- The configuration record as the boot ROM read it (R370): its digest, the defect map, the clock-step table, the row activation threshold
and the thermal limits. -/
structure BootRecord where
  digest : List Byte
  defects : List Nat
  steps : List Nat
  threshold : Nat
  limits : List Nat
  deriving DecidableEq, Repr

def BootRecord.none : BootRecord := { digest := [], defects := [], steps := [], threshold := 0, limits := [] }

/-- The group of threads that issues (R34): the wave, its lanes and their PC. MODEL: set by a step for `exec`. -/
structure Cur where
  wid : WaveId
  lanes : LaneMask
  pc : DWord
  viaLoop : Bool
  deriving DecidableEq, Repr

/-- Who moves next (log 6): MODEL. -/
inductive Turn where
  /-- One issue slot of a wave (R34). -/
  | slot (w : WaveId)
  /-- A diverged thread issues from its loop buffer (R37). -/
  | loop (w : WaveId) (lane : Nat)
  /-- A clock of a core goes on: the next wave that owes its slot issues, or the clock of its four bays ends (R32, R34). -/
  | clock (core : Nat)
  /-- A machine event. -/
  | event (i : Instr)
  /-- A command message arrives (R354). -/
  | host (msg : List Byte)
  /-- The command processor starts the next command (R272). -/
  | serve
  /-- What a context's pages held is tried again (R236). -/
  | retry (asid : Nat)
  /-- A TLB caches what a walk reads at a level, or drops an entry (R234). -/
  | tlbFill (place : TlbPlace) (asid va level : Nat)
  | tlbDrop (k : Nat)
  /-- A request of an origin, or of the page-table walk for it, arrives at the pseudo-channel of a PA; or a channel clock passes (R216). -/
  | chanArrive (pa : Nat) (walk : Bool) (origin : ChanOrigin)
  | chanClock (chan : Nat)
  /-- Another package offers (R307, R319). -/
  | peer (p : Peer)
  /-- A 64-byte block suffers an uncorrectable error, or a corrected one is logged (R222, R224). -/
  | bad (pa : Nat)
  | badReg (w : WaveId) (lane code : Nat)
  | badPool (t : TeamId) (space addr : Nat)
  | soft (e : LogEntry)
  /-- A row is activated (R221). -/
  | activate (r : RowId)
  /-- The acknowledgement of a core's access returns and frees its request slots (R207). -/
  | ack (core id : Nat)
  /-- A request of another package that waits is tried again (R258). -/
  | ualRetry (k : Nat)
  /-- A line of the instruction cache is replaced (R208). -/
  | icacheDrop (core k : Nat)
  deriving DecidableEq, Repr

/-- The machine. -/
structure State where
  /-- Memory by PA: device memory and capacity tier (R225). -/
  mem : List Host.Cell
  /-- MODEL: the bytes the current step stores, oldest first; empty between steps. -/
  stores : List Host.Cell
  retired : List Nat
  /-- Blocks in which an uncorrectable error stands to be found (R222). -/
  badBlocks : List Nat
  errLog : List LogEntry
  booted : Bool
  recovery : Bool
  record : BootRecord
  assignment : List Nat
  clockStep : Nat
  powerLimit : Nat
  shutdown : Bool
  layers : List Layer
  capSeq : Nat
  ports : List (Nat × Port)
  /-- Event records sent to the host, oldest first (R356). -/
  records : List (BitVec 512)
  lastServed : Nat × Nat
  sidingEvents : Nat
  tlb : List TlbEntry
  ualOut : List UalMsg
  /-- Requests of other packages that wait for lines which an engine owns, oldest first (R258). -/
  ualIn : List UalRequest
  peers : List Peer
  chans : List (Nat × Chan)
  rowCtr : List (RowId × Nat)
  cores : List (Nat × Core)
  ctxs : List Ctx
  grids : List Grid
  teams : List Team
  waves : List Wave
  reqs : List Req
  waiting : List Waiting
  xfers : List Xfer
  csigs : List Csig
  colls : List Coll
  updates : List (GridId × TeamId × Nat × Update)
  held : List HeldWrite
  stalls : List Stall
  /-- Bytes of other work's accesses that entries which convert hold or have held (R320). -/
  heldBytes : List HeldByte
  /-- Launches in the order of acceptance (R280). -/
  launches : Nat
  /-- MODEL: names of requests and pieces of work; the counter that free values are applied to. -/
  nextId : Nat
  fresh : Nat
  /-- MODEL: who moves next, and the events that are due before any turn. -/
  agenda : List Turn
  due : List Instr
  cur : Option Cur
  deriving DecidableEq, Repr

/-- What a byte of memory reads as when nothing has written it: DESIGN CHOICE 0, log 1. -/
def memDefault : Byte := 0

/-- The canonical form of memory. -/
def Memory.wf (m : List Host.Cell) : Bool := cellWf memDefault m

/-- The machine right after reset (R370 and the Reset columns; logs 1 to 6 for what the specification leaves open). -/
def State.reset : State :=
  { mem := [], stores := [], retired := [], badBlocks := [], errLog := [], booted := false, recovery := false,
    record := BootRecord.none, assignment := [], clockStep := 0, powerLimit := 4000000, shutdown := false, layers := [], capSeq := 0, ports := [],
    records := [], lastServed := (0, 0), sidingEvents := 0, tlb := [], ualOut := [], ualIn := [], peers := [], chans := [],
    rowCtr := [], cores := [], ctxs := [], grids := [], teams := [], waves := [], reqs := [], waiting := [],
    xfers := [], csigs := [], colls := [], updates := [], held := [], stalls := [], heldBytes := [], launches := 0, nextId := 1, fresh := 0,
    agenda := [], due := [.boot], cur := none }

end Sys2Proof.Machine
end

