-- ==== Sys2Proof/Machine/Access.lean ====
section
/-!
DEFINITION. Reading and updating the parts of the state by name: waves, teams, grids, contexts, cores, threads and
registers. An update of a unit that does not exist changes nothing.
-/
namespace Sys2Proof.Machine

/-- The wave of a name. -/
def State.wave? (s : State) (w : WaveId) : Option Wave := s.waves.find? (fun x => x.id == w)

/-- Change a wave. -/
def State.updWave (s : State) (w : WaveId) (f : Wave → Wave) : State :=
  { s with waves := s.waves.map (fun x => if x.id = w then f x else x) }

/-- The team of a name. -/
def State.team? (s : State) (t : TeamId) : Option Team := s.teams.find? (fun x => x.id == t)

/-- Change a team. -/
def State.updTeam (s : State) (t : TeamId) (f : Team → Team) : State :=
  { s with teams := s.teams.map (fun x => if x.id = t then f x else x) }

/-- The grid of a name. -/
def State.grid? (s : State) (g : GridId) : Option Grid := s.grids.find? (fun x => x.id == g)

/-- Change a grid. -/
def State.updGrid (s : State) (g : GridId) (f : Grid → Grid) : State :=
  { s with grids := s.grids.map (fun x => if x.id = g then f x else x) }

/-- The context of an ASID. -/
def State.ctx? (s : State) (a : Nat) : Option Ctx := s.ctxs.find? (fun x => x.asid == a)

/-- Change a context. -/
def State.updCtx (s : State) (a : Nat) (f : Ctx → Ctx) : State :=
  { s with ctxs := s.ctxs.map (fun x => if x.asid = a then f x else x) }

/-- A core, by logical index (R8). -/
def State.core (s : State) (c : Nat) : Core := cellGet Core.reset s.cores c

/-- Change a core. -/
def State.updCore (s : State) (c : Nat) (f : Core → Core) : State :=
  { s with cores := cellSet Core.reset s.cores c (f (s.core c)) }

/-- The compute die of a logical core (R8), and the I/O die that serves it (R16). -/
def dieOf (core : Nat) : Nat := core % 8 / 4 + 2 * (core / 24)
def dieOfCore (core : Nat) : Nat := dieOf core / 2

/-- What a wave's request of a class carries (R214, R215, R217). -/
def State.carryOf (s : State) (w : WaveId) (cls : Nat) : Carry :=
  match s.wave? w with
  | some x => { cls := cls, dslack := x.dslack, charge := some (x.core, w.team.grid.asid) }
  | none => Carry.none

/-- What an engine's command carries: that of its issuing wave. A graph node has none; its slack is stated nowhere and is a free value
(R215; log 89). -/
def State.carryFor (s : State) (iss : Issuer) (asid : Nat) : Carry :=
  match iss with
  | .wave w => s.carryOf w 2
  | .node core _ => { cls := 2, dslack := Config.freeSlack s.nextId, charge := some (core, asid) }

/-- Whether a request of an origin waits at a pseudo-channel (R216): its misses are still to be counted (R217). -/
def State.atChannel (s : State) (o : ChanOrigin) : Bool := s.chans.any (fun h => h.2.waiting.any (fun r => r.origin == o))

/-- The waves of a team. -/
def State.wavesOf (s : State) (t : TeamId) : List Wave := s.waves.filter (fun x => x.id.team == t)

/-- An event that is due before any other agent moves. -/
def State.pushDue (s : State) (i : Instr) : State := { s with due := s.due ++ [i] }

/-- A new name for a request or a piece of work, and the state after it. -/
def State.newId (s : State) : Nat × State := (s.nextId, { s with nextId := s.nextId + 1 })

/-- The thread in a lane (R25). -/
def Wave.thread (w : Wave) (l : Nat) : Thread := cellGet Thread.none w.threads l

/-- Change the thread in a lane. -/
def Wave.updThread (w : Wave) (l : Nat) (f : Thread → Thread) : Wave :=
  { w with threads := cellSet Thread.none w.threads l (f (w.thread l)) }

/-- Change the threads of some lanes. -/
def Wave.updThreads (w : Wave) (ls : List Nat) (f : Nat → Thread → Thread) : Wave :=
  ls.foldl (fun w l => w.updThread l (f l)) w

/-- An S register (R87). -/
def Wave.sreg (w : Wave) (n : Nat) : DWord := cellGet 0 w.s n

/-- Write an S register. -/
def Wave.setS (w : Wave) (n : Nat) (v : DWord) : Wave :=
  { w with s := cellSet 0 w.s n v, badRegs := w.badRegs.filter (· != (0, 384 + n)) }

/-- The key of V register r of lane l. -/
def vkey (l r : Nat) : Nat := 32 * r + l

/-- The lane and the register of a key. -/
def vkeyLane (k : Nat) : Nat := k % 32
def vkeyReg (k : Nat) : Nat := k / 32

/-- A V register of a lane (R87). -/
def Wave.vreg (w : Wave) (l r : Nat) : Word := cellGet 0 w.v (vkey l r)

/-- Write a V register of a lane; a failed mark is cleared (R412), and one that an error left empty is full again (R157). -/
def Wave.setV (w : Wave) (l r : Nat) (x : Word) : Wave :=
  { w with v := cellSet 0 w.v (vkey l r) x, empties := w.empties.filter (· != (vkey l r, 0)), failed := w.failed.filter (· != vkey l r),
           badRegs := w.badRegs.filter (· != (l, r)) }

/-- Write consecutive V registers of a lane from a list of words. -/
def Wave.setVs (w : Wave) (l r : Nat) : List Word → Wave
  | [] => w
  | x :: xs => (w.setV l r x).setVs l (r + 1) xs

/-- Consecutive V registers of a lane. -/
def Wave.vregs (w : Wave) (l r n : Nat) : List Word := (List.range n).map (fun i => w.vreg l (r + i))

/-- A predicate of a lane; P0 reads true (R74). -/
def Wave.pred (w : Wave) (l p : Nat) : Bool := p == 0 || (w.thread l).preds.getLsbD p

/-- Write a predicate; a write to P0 is discarded (R74). -/
def Wave.setPred (w : Wave) (l p : Nat) (b : Bool) : Wave :=
  if p == 0 then w else
  w.updThread l (fun t => { t with preds := if b then t.preds ||| (1#8 <<< p) else t.preds &&& ~~~(1#8 <<< p) })

/-- Whether a wave is a lead thread (R26). -/
def Wave.isLead (w : Wave) : Bool := w.id.wave == 32

/-- The lanes a wave has: 32, or lane 0 of a lead thread. -/
def Wave.lanes (w : Wave) : List Nat := if w.isLead then [0] else List.range 32

/-- The lanes whose threads have not ended. -/
def Wave.live (w : Wave) : List Nat := w.lanes.filter (fun l => (w.thread l).run != .ended)

/-- Whether a run state is parked. -/
def Run.isParked : Run → Bool
  | .parked _ _ _ => true
  | _ => false

/-- Whether some thread of the wave is parked in a stall (R45). DESIGN CHOICE (log 116): within a handler the live run states alone count, so
that a thread parked when its wave entered the handler holds back no release in the handler's slots, though its saved wait counts as one. -/
def Wave.someParked (w : Wave) : Bool := w.lanes.any (fun l => (w.thread l).run.isParked)

/-- The PC after one at which an instruction stands (R70). -/
def nextPc (pc : DWord) : DWord :=
  if pc.toNat % 8 < 4 then pc + 1 else BitVec.ofNat 64 (pc.toNat / 64 * 64 + 64)

/-- A register field read by a lane as 64 bits: `n` V registers from an even one, or an S register, `ZERO` or a special
(R26, R87, R88). -/
def Wave.readReg (w : Wave) (l : Nat) (code n : Nat) : Nat :=
  if code < 320 then
    (if n ≥ 2 then (w.vreg l code).toNat + 2 ^ 32 * (w.vreg l (code + 1)).toNat else (w.vreg l code).toNat)
  else if 384 ≤ code && code < 448 then (w.sreg (code - 384)).toNat
  else match code with
    | 449 => if w.isLead then 0 else l
    | 450 => w.id.wave
    | 451 => w.id.team.team
    | 452 => w.core
    | 453 => if w.isLead then 0 else w.bay
    | _ => 0

/-- A result written to a register field by a lane: the low 32 bits to one V register, or 64 bits to a pair or an S
register; `ZERO` and an absent field discard it (R87, R88). -/
def Wave.writeReg (w : Wave) (l : Nat) (code n : Nat) (x : Nat) : Wave :=
  if code < 320 then
    (if n ≥ 2 then (w.setV l code (BitVec.ofNat 32 x)).setV l (code + 1) (BitVec.ofNat 32 (x / 2 ^ 32))
      else w.setV l code (BitVec.ofNat 32 x))
  else if 384 ≤ code && code < 448 then w.setS (code - 384) (BitVec.ofNat 64 x)
  else w

/-- Mark V registers of a lane empty until a request fills them (R90). -/
def Wave.markEmpty (w : Wave) (l r n req : Nat) : Wave :=
  let ks := (List.range n).map (fun i => vkey l (r + i))
  { w with empties := w.empties.filter (fun p => !(p.2 == 0 && ks.contains p.1)) ++ ks.map (fun k => (k, req)), failed := w.failed.filter (fun k => !ks.contains k) }

/-- Whether some of `n` V registers of a lane is empty (R90). -/
def Wave.anyEmpty (w : Wave) (l r n : Nat) : Bool :=
  (List.range n).any (fun i => w.empties.any (fun p => p.1 == vkey l (r + i)))

/-- Whether a write to some of `n` V registers of a lane is pending (R91). -/
def Wave.anyPending (w : Wave) (l r n : Nat) : Bool :=
  (List.range n).any (fun i => w.empties.any (fun p => p.1 == vkey l (r + i) && p.2 != 0))

/-- What a request that ends by an error was to fill stays empty, with no write pending (R157, R223). -/
def Wave.fillLost (w : Wave) (req : Nat) : Wave :=
  { w with empties := w.empties.map (fun p => if p.2 = req then (p.1, 0) else p) }

/-- Whether some of `n` V registers of a lane is marked failed (R412). -/
def Wave.anyFailed (w : Wave) (l r n : Nat) : Bool := (List.range n).any (fun i => w.failed.contains (vkey l (r + i)))

/-- The ASID a wave runs under. -/
def asidOf (w : WaveId) : Nat := w.team.grid.asid

/-- Whether a grid belongs to a procedural fill: a generator grid, or a child launched under one; `fuel` levels (R29, R241). -/
def State.filling (s : State) : Nat → GridId → Bool
  | 0, _ => false
  | fuel + 1, g => match s.grid? g with
    | none => false
    | some x => match x.origin with
      | .generator _ _ _ => true
      | .child p _ _ => s.filling fuel p
      | _ => false

/-- Whether a grid stands still: its context is killed or gone, or is stopped by `PREEMPT`, under which fills run on (R245,
R348); or it has been stopped with its chain of fills (R242). -/
def State.idleGrid (s : State) (g : GridId) : Bool :=
  match s.ctx? g.asid with
  | some c => c.killed || (c.stopped && !s.filling 11 g) || (s.grid? g).any (·.dropped)
  | none => true

/-- The determinism level of the grid of a wave (R290). -/
def State.levelOf (s : State) (g : GridId) : Nat := match s.grid? g with | some x => x.level | none => 0

/-- Change `due` work counted against a team (R30). -/
def State.owe (s : State) (t : TeamId) (up : Bool) : State :=
  s.updTeam t (fun x => { x with owed := if up then x.owed + 1 else x.owed - 1 })

end Sys2Proof.Machine
end

