-- ==== Sys2Proof/Machine/Memory.lean ====
section
/-!
DEFINITION. Physical memory, the interleave, integrity, address translation and the protection of pages (10_memory_hierarchy.md
R210, R219, R222 to R224; 11_translation_procedural.md R225 to R240). A step's stores are gathered in `stores`, newest
first, and drained into `mem` when the step ends.
-/
namespace Sys2Proof.Machine

/-- A byte of physical memory, as the current step sees it. -/
def State.byteAt (s : State) (pa : Nat) : Byte :=
  match s.stores.find? (fun c => c.1 == pa) with
  | some c => c.2
  | none => cellGet memDefault s.mem pa

/-- `n` bytes from a physical address. -/
def State.bytesAt (s : State) (pa n : Nat) : List Byte := (List.range n).map (fun i => s.byteAt (pa + i))

/-- The little-endian number in `n` bytes. -/
def State.numAt (s : State) (pa n : Nat) : Nat := ofBytes (s.bytesAt pa n)

/-- Store bytes at a physical address. A write that covers a retired block restores it (R224). -/
def State.storeBytes (s : State) (pa : Nat) (bs : List Byte) : State :=
  let cells := (List.range bs.length).map (fun i => (pa + i, bs.getD i 0))
  { s with stores := cells.reverse ++ s.stores,
           retired := s.retired.filter (fun b => !(pa ≤ 64 * b && 64 * b + 64 ≤ pa + bs.length)),
           badBlocks := s.badBlocks.filter (fun b => !(pa ≤ 64 * b && 64 * b + 64 ≤ pa + bs.length)) }

/-- The end of a step: its stores are drained into memory. -/
def commit (s s' : State) : Host.Outcome State Fault Refusal :=
  .next { s' with mem := cellSets memDefault s.mem s'.stores.reverse, stores := [] }

/-- Whether a physical address is backed: device memory or the capacity tier, in no removed layer (R219, R225). -/
def State.backed (s : State) (pa : Nat) : Bool :=
  (pa < 1536 * 2 ^ 30 && !s.layers.any (fun l => l.layer == pa / (96 * 2 ^ 30))) || (2 ^ 50 ≤ pa && pa < 2 ^ 51)

/-- Whether a range lies wholly in device memory. -/
def inDevice (pa n : Nat) : Bool := pa + n ≤ 1536 * 2 ^ 30

/-- Whether a range touches a removed layer (R219). -/
def State.touchesRemoved (s : State) (pa n : Nat) : Bool :=
  s.layers.any (fun l => pa < (l.layer + 1) * (96 * 2 ^ 30) && l.layer * (96 * 2 ^ 30) < pa + n)

/-- The home of a device address under the default interleave (R210). -/
structure HomeOf where
  stack : Nat
  die : Nat
  channel : Nat
  pseudo : Nat
  layer : Nat
  offset : Nat
  deriving DecidableEq, Repr

/-- R210. -/
def homeOf (pa : Nat) : HomeOf :=
  let stack := pa / 4096 % 24
  let offset := pa / 98304 * 4096 + pa % 4096
  let pch := offset % 4096 / 64
  { stack := stack, die := stack / 6, channel := pch / 2, pseudo := pch % 2, layer := offset / (4 * 2 ^ 30),
    offset := offset }

/-- The first byte of a range that lies in a block which cannot be read: a retired one or one with an uncorrectable
error (R223, R224). -/
def State.badByte (s : State) (pa n : Nat) : Option Nat :=
  ((List.range n).map (pa + ·)).find? (fun a => s.retired.contains (a / 64) || s.badBlocks.contains (a / 64))

/-- The first byte of a write that covers part only of a retired block (R224). -/
def State.partialRetired (s : State) (pa n : Nat) : Option Nat :=
  ((List.range n).map (pa + ·)).find? (fun a =>
    s.retired.contains (a / 64) && !(pa ≤ a / 64 * 64 && a / 64 * 64 + 64 ≤ pa + n))

/-- A block found bad: logged, and retired when it is not already (R222, R224). -/
def State.logBad (s : State) (pa : Nat) : State :=
  let h := homeOf pa
  { s with errLog := s.errLog ++ [{ kind := 2, unit := 3, die := h.stack, chan := h.channel, pa := pa, count := 1 }] }

/-- What an access is, for protection (R233). -/
inductive Acc where
  | read
  | write
  | fetch
  deriving DecidableEq, Repr

/-- How a translation ends (R226): a PA, a fault of a step with its cause and VA, a replayable miss on a range, or a
procedural block that is not ready. -/
inductive XRes where
  | ok (pa : Nat)
  | fault (step cause va : Nat)
  | miss (base : Nat)
  | blk (range idx : Nat)
  deriving DecidableEq, Repr

/-- Cause codes of R331. -/
def cIllegalOpcode : Nat := 0x01
def cIllegalOperand : Nat := 0x02
def cIllegalLine : Nat := 0x03
def cLineParity : Nat := 0x04
def cBranchTarget : Nat := 0x05
def cRole : Nat := 0x06
def cUniform : Nat := 0x07
def cEmptyRead : Nat := 0x08
def cNullPointer : Nat := 0x09
def cPlaceRange : Nat := 0x0A
def cAlign : Nat := 0x10
def cTranslation : Nat := 0x11
def cProtection : Nat := 0x12
def cHeapBounds : Nat := 0x13
def cProcRecursion : Nat := 0x14
def cGeneratorFault : Nat := 0x15
def cPlacement : Nat := 0x16
def cMergeConflict : Nat := 0x17
def cNondeterministic : Nat := 0x18
def cRedundancy : Nat := 0x19
def cSidingSpill : Nat := 0x1A
def cIndexBounds : Nat := 0x1B
def cWatchdog : Nat := 0x30
def cLaunchDepth : Nat := 0x32
def cQueue : Nat := 0x33
def cSoftware : Nat := 0x40
def cBreakpoint : Nat := 0x41
def cHandlerFetch : Nat := 0x50
def cTrapOverflow : Nat := 0x51
def cMachineCheck : Nat := 0x60

/-- The procedural range that holds a VA, and the block index (R239). -/
def Ctx.procAt (c : Ctx) (va : Nat) : Option (Nat × ProcRange × Nat) :=
  (c.procs.find? (fun p =>
    let sz := if p.2.big then 2 ^ 21 else 2 ^ 16
    p.2.base ≤ va && va < p.2.base + sz * p.2.nblk)).map
    (fun p => (p.1, p.2, (va - p.2.base) / (if p.2.big then 2 ^ 21 else 2 ^ 16)))

/-- The page-table entry of a level for a VA is read at this PA (R230, R231). -/
def pteAddr (table level va : Nat) : Nat := table + 8 * (va / 2 ^ ([46, 36, 26, 16].getD level 16) % 1024)

/-- The page size of a leaf (R230). -/
def pageBits (level : Nat) : Nat := [46, 36, 26, 16].getD level 16

/-- How a walk ends (R231): a leaf with its level, base PA and bits, a miss, a fault, or an uncorrectable error. -/
inductive Walk where
  | leaf (level pa : Nat) (w x : Bool)
  | replay
  | bad
  | check (pa : Nat)
  deriving DecidableEq, Repr

/-- A page-table entry (R230, R231): invalid with its `RPL`, malformed, a table, or a page with its `W` and `X`. -/
inductive Pte where
  | invalid (rpl : Bool)
  | bad
  | table (addr : Nat)
  | page (addr : Nat) (w x : Bool)
  deriving DecidableEq, Repr

/-- R230 and R231. -/
def pteOf (level e : Nat) : Pte :=
  let leaf := e / 2 % 2 == 1
  let addr := nfield e 51 13 * 2 ^ 13
  if e % 2 == 0 then .invalid (e / 16 % 2 == 1)
  else if nfield e 63 52 != 0 || nfield e 12 5 != 0 || (leaf && level == 0) || (!leaf && level ≥ 3)
      || (leaf && addr % 2 ^ pageBits level != 0) then .bad
  else if leaf then .page addr (e / 4 % 2 == 1) (e / 8 % 2 == 1)
  else .table addr

/-- The entry at a PA; one outside memory is invalid. -/
def State.pteAt (s : State) (level a : Nat) : Pte := pteOf level (if s.backed a then s.numAt a 8 else 0)

/-- The walk of R231 from a table at a level; `fuel` levels remain. -/
def State.walk (s : State) (va : Nat) : Nat → Nat → Nat → Walk
  | 0, _, _ => .bad
  | fuel + 1, level, table =>
    let a := pteAddr table level va
    match s.badByte a 8 with
    | some b => .check b
    | none => match s.pteAt level a with
      | .invalid rpl => if rpl then .replay else .bad
      | .bad => .bad
      | .page pa w x => .leaf level pa w x
      | .table t => s.walk va fuel (level + 1) t

/-- Whether the access that is being made looks into a TLB (R234): the issuing wave into its bay's, its core's and its die's. PRESUMED
(log 82): the other units look into those of cores and dies. -/
def State.tlbSees (s : State) (p : TlbPlace) : Bool :=
  match s.cur.bind (fun c => s.wave? c.wid), p with
  | some w, .bay c n => c == w.core && n == w.bay
  | some w, .core c => c == w.core
  | some w, .die d => d == dieOf w.core
  | none, .bay _ _ => false
  | none, _ => true

/-- A cached page, or walked entry of a level, for a VA (R234). -/
def State.tlbFind (s : State) (asid va : Nat) (table : Bool) (level : Nat) : Option TlbEntry :=
  s.tlb.find? (fun e => e.asid == asid && e.table == table && e.level == level && va / 2 ^ pageBits level == e.va / 2 ^ pageBits level &&
    s.tlbSees e.place)
def State.tlbHit (s : State) (asid va : Nat) : Option TlbEntry := [1, 2, 3].findSome? (s.tlbFind asid va false)

/-- The walk of a VA of a context (R231), from the deepest walked entry that a TLB holds, else from the root (R234). -/
def State.walkFor (s : State) (c : Ctx) (va : Nat) : Walk :=
  match [2, 1, 0].findSome? (s.tlbFind c.asid va true) with
  | some e => s.walk va (3 - e.level) (e.level + 1) e.pa
  | none => s.walk va 4 0 c.ptroot.toNat

/-- The PA of the level 3 entry of a VA, from a table at a level, where tables lead to one (R230, R231); `fuel` levels remain. -/
def State.entryPa (s : State) (va : Nat) : Nat → Nat → Nat → Option Nat
  | 0, _, _ => none
  | fuel + 1, level, table =>
    let a := pteAddr table level va
    if level = 3 then some a else
    match s.pteAt level a with
    | .table t => s.entryPa va fuel (level + 1) t
    | _ => none

/-- Translate an access of `n` bytes that lies within one page (R226). `own` is the block a generator grid writes, which
proceeds in every state (R241). A block's pages are those that its table holds; one whose tables do not reach level 3 goes by its frame
(log 99). The spill area is mapped read-only (R266). -/
def State.xlate (s : State) (c : Ctx) (own : Option (Nat × Nat)) (va n : Nat) (acc : Acc) : XRes :=
  let last := va + n - 1
  if va ≥ 2 ^ 56 then .fault 1 cTranslation va
  else if last ≥ 2 ^ 56 then .fault 1 cTranslation (last % 2 ^ 64)
  else
    let b := c.heapBase.toNat
    let l := c.heapLimit.toNat
    let inside (a : Nat) : Bool := l != 0 && b ≤ a && a < b + l
    if inside va && inside last then
      if acc == .fetch then .fault 4 cProtection va else .ok ((va + c.heapOff.toNat) % 2 ^ 64)
    else if inside va then .fault 2 cHeapBounds (b + l)
    else if inside last || (l != 0 && va < b && b + l ≤ last) then .fault 2 cHeapBounds b
    else if c.spillVa ≤ va && va < c.spillVa + c.spillSz * 2 ^ 16 then
      if acc == .read then .ok (c.spillPa + (va - c.spillVa)) else .fault 4 cProtection va
    else
      let finish (level pa : Nat) (w x : Bool) : XRes :=
        let a := pa + va % 2 ^ pageBits level
        if (acc == .write && !w) || (acc == .fetch && !x) || !s.backed a then .fault 4 cProtection va else .ok a
      match c.procAt va with
      | some (p, r, k) =>
        if acc == .fetch then .fault 4 cProtection va
        else
          let blk := cellGet Block.empty r.blocks k
          let sz := if r.big then 2 ^ 21 else 2 ^ 16
          let pa (f : Nat) := r.pool + f * sz + (va - r.base) % sz
          if blk.state == 2 || own == some (p, k) then
            match blk.frame, s.tlbHit c.asid va with
            | some _, some e => finish e.level e.pa e.w e.x
            | some f, none => match s.walkFor c va with
              | .leaf level pa w x => finish level pa w x
              | .replay => .miss (va / 2 ^ 16 * 2 ^ 16)
              | .bad => if (s.entryPa va 4 0 c.ptroot.toNat).isSome then .fault 3 cTranslation va else .ok (pa f)
              | .check _ => .fault 3 cMachineCheck va
            | none, _ => .blk p k
          else if blk.state == 3 then .fault 5 cGeneratorFault va
          else .blk p k
      | none => match s.tlbHit c.asid va with
        | some e => finish e.level e.pa e.w e.x
        | none => match s.walkFor c va with
        | .leaf level pa w x => finish level pa w x
          | .replay => .miss (va / 2 ^ 16 * 2 ^ 16)
          | .bad => .fault 3 cTranslation va
          | .check _ => .fault 3 cMachineCheck va

/-- The PA of the table entry that the walk of a VA cannot read (R231). -/
def State.walkBad (s : State) (c : Ctx) (va : Nat) : Option Nat :=
  match s.walkFor c va with
  | .check pa => some pa
  | _ => none

/-- The uncorrectable error that a read of one byte meets is logged (R222, R223): in the walk, or in the byte. -/
def State.logVa (s : State) (asid va : Nat) : State :=
  match s.ctx? asid with
  | none => s
  | some c => match s.xlate c none va 1 .read with
    | .ok pa => if (s.badByte pa 1).isSome then s.logBad pa else s
    | .fault _ cause _ => if cause == cMachineCheck then ((s.walkBad c va).map s.logBad).getD s else s
    | _ => s

/-- The aligned pieces of a range, none of which crosses a 64 KiB boundary or is longer than 64 KiB; `fuel` pieces. -/
def pieces : Nat → Nat → Nat → List (Nat × Nat)
  | 0, _, _ => []
  | fuel + 1, va, n =>
    if n = 0 then [] else
    let room := 2 ^ 16 - va % 2 ^ 16
    if n ≤ room then [(va, n)] else (va, room) :: pieces fuel (va + room) (n - room)

/-- How a whole access translates (R227): the PAs of its pieces, the fault of the earliest step, or what it misses on. -/
inductive XAll where
  | ok (pas : List (Nat × Nat))
  | fault (step cause va : Nat)
  | wait (on : List MissOn)
  deriving DecidableEq, Repr

/-- Put one piece's result with those of the pieces after it (R227). -/
def xjoin (n : Nat) (r : XRes) (rest : XAll) : XAll :=
  match r, rest with
  | .fault a c v, .fault b c' v' => if a ≤ b then .fault a c v else .fault b c' v'
  | .fault a c v, _ => .fault a c v
  | _, .fault b c v => .fault b c v
  | .ok pa, .ok l => .ok ((pa, n) :: l)
  | .ok _, .wait on => .wait on
  | .miss b, .ok _ => .wait [.page b]
  | .miss b, .wait on => .wait (.page b :: on)
  | .blk p k, .ok _ => .wait [.block p k]
  | .blk p k, .wait on => .wait (.block p k :: on)

/-- Translate a whole access of any length (R226, R227). A heap bound that the whole access crosses is decided first. -/
def State.xlateAll (s : State) (c : Ctx) (own : Option (Nat × Nat)) (va n : Nat) (acc : Acc) : XAll :=
  let b := c.heapBase.toNat
  let l := c.heapLimit.toNat
  let last := va + n - 1
  let inside (a : Nat) : Bool := l != 0 && b ≤ a && a < b + l
  if va < 2 ^ 56 && last ≥ 2 ^ 56 then .fault 1 cTranslation last
  else if last < 2 ^ 56 && inside va && !inside last then .fault 2 cHeapBounds (b + l)
  else if last < 2 ^ 56 && l != 0 && va < b && b ≤ last then .fault 2 cHeapBounds b
  else (pieces (n / 2 ^ 16 + 2) va n).foldr (fun p r => xjoin p.2 (s.xlate c own p.1 p.2 acc) r) (.ok [])

/-- The bytes at translated pieces. -/
def State.readPas (s : State) (pas : List (Nat × Nat)) : List Byte := pas.flatMap (fun p => s.bytesAt p.1 p.2)

/-- Store bytes over translated pieces. -/
def State.writePas (s : State) : List (Nat × Nat) → List Byte → State
  | [], _ => s
  | (pa, n) :: ps, bs => (s.storeBytes pa (bs.take n)).writePas ps (bs.drop n)

/-- Whether the pieces meet an unreadable block, and the first PA (R223). -/
def State.badPas (s : State) (pas : List (Nat × Nat)) : Option Nat := pas.findSome? (fun p => s.badByte p.1 p.2)

/-- A write by an agent other than a block's generator marks the block that holds a VA written (R240). -/
def Ctx.markBlock (c : Ctx) (own : Option (Nat × Nat)) (va : Nat) : Ctx :=
  match c.procAt va with
  | none => c
  | some (p, r, k) =>
    if own == some (p, k) then c else
    { c with procs := c.procs.map (fun q => if q.1 == p then
        (p, { r with blocks := cellSet Block.empty r.blocks k { cellGet Block.empty r.blocks k with written := true } }) else q) }

/-- A write of `n` bytes marks every block that it touches (R240). -/
def Ctx.markWritten (c : Ctx) (own : Option (Nat × Nat)) (va n : Nat) : Ctx :=
  (pieces (n / 2 ^ 16 + 2) va n).foldl (fun c p => c.markBlock own p.1) c

end Sys2Proof.Machine
end

