-- ==== Sys2Proof/Machine/Num.lean ====
section
/-!
DEFINITION. Number formats and rounding (05_numbers.md): decoding of element formats (R111 to R115), rounding of exact
values into a format with its flags (R117 to R121), and the conversions of R123. Exact values are rationals.
-/
namespace Sys2Proof.Machine

/-- What an element decodes to; `fin` keeps the sign of a zero. NaR decodes to `nan`. -/
inductive Val where
  | nan (signalling : Bool)
  | inf (neg : Bool)
  | fin (neg : Bool) (mag : Rat)
  deriving DecidableEq, Repr

/-- The exception bits of R127. -/
def nvBit : BitVec 6 := 1#6
def dzBit : BitVec 6 := 2#6
def ofBit : BitVec 6 := 4#6
def ufBit : BitVec 6 := 8#6
def nxBit : BitVec 6 := 16#6
def idzBit : BitVec 6 := 32#6

/-- Rounding modes of `MOD` (R86, R117), with stochastic rounding by a draw u (R121). -/
inductive Rnd where
  | rne
  | rtz
  | rup
  | rdn
  | sr (u : Nat)
  deriving DecidableEq, Repr

/-- The mode of `MOD`[1:0] (R86). -/
def rndOf (m : Nat) : Rnd :=
  match m % 4 with
  | 0 => .rne | 1 => .rtz | 2 => .rup | _ => .rdn

/-- A binary format (R111): exponent and mantissa widths and bias; `ieee` when it has infinities. -/
structure BinFmt where
  eb : Nat
  mb : Nat
  bias : Nat
  ieee : Bool
  deriving DecidableEq, Repr

/-- The binary formats of R111 by type code (R85); none for integers and DM8. -/
def binFmt (t : Nat) : Option BinFmt :=
  match t with
  | 8 => some ⟨5, 10, 15, true⟩
  | 9 => some ⟨8, 7, 127, true⟩
  | 10 => some ⟨8, 23, 127, true⟩
  | 11 => some ⟨4, 3, 7, false⟩
  | 12 => some ⟨5, 2, 15, true⟩
  | 13 => some ⟨2, 1, 1, false⟩
  | 15 => some ⟨11, 52, 1023, true⟩
  | _ => none

/-- 2^e for an integer e. -/
def pow2 (e : Int) : Rat := if 0 ≤ e then ((2 ^ e.toNat : Nat) : Rat) else mkRat 1 (2 ^ (-e).toNat)

/-- 10^e for an integer e. -/
def pow10 (e : Int) : Rat := if 0 ≤ e then ((10 ^ e.toNat : Nat) : Rat) else mkRat 1 (10 ^ (-e).toNat)

/-- The largest integer e with 2^e ≤ x, for x > 0. -/
def ilog2 (x : Rat) : Int :=
  let e : Int := (x.num.toNat.log2 : Int) - (x.den.log2 : Int)
  if pow2 e ≤ x then e else e - 1

/-- The canonical NaN (NaR for DM8) of a format (R112); E2M1 has none. -/
def canonNaN (t : Nat) : Nat :=
  match t with
  | 8 => 0x7E00 | 9 => 0x7FC0 | 10 => 0x7FC00000 | 11 => 0x7F | 12 => 0x7F | 14 => 0x80
  | 15 => 0x7FF8000000000000 | _ => 0

/-- Decode a binary element (R111, R112). -/
def decBin (f : BinFmt) (w : Nat) : Val :=
  let m := w % 2 ^ f.mb
  let e := (w >>> f.mb) % 2 ^ f.eb
  let neg := (w >>> (f.mb + f.eb)) % 2 == 1
  let top := 2 ^ f.eb - 1
  if f.ieee && e == top then
    if m == 0 then .inf neg else .nan (f.mb ≥ 7 && m < 2 ^ (f.mb - 1))
  else if !f.ieee && f.eb == 4 && e == top && m == 7 then .nan false
  else if e == 0 then .fin neg ((m : Rat) * pow2 (1 - (f.bias : Int) - f.mb))
  else .fin neg (((2 ^ f.mb + m : Nat) : Rat) * pow2 ((e : Int) - f.bias - f.mb))

/-- The position of the lowest set bit of a 7-bit body (R113). -/
def dm8q (c : Nat) : Nat :=
  if c % 2 == 1 then 0 else if c / 2 % 2 == 1 then 1 else if c / 4 % 2 == 1 then 2 else if c / 8 % 2 == 1 then 3
  else if c / 16 % 2 == 1 then 4 else if c / 32 % 2 == 1 then 5 else 6

/-- The magnitude of a nonzero DM8 body (R113). -/
def dm8Mag (c : Nat) : Rat :=
  let q := dm8q c
  let f := c >>> (q + 1)
  let e : Int := [0, -1, 1, -2, 2, -3, 3].getD q 0
  (1 + mkRat (9 * f) (2 ^ (6 - q))) * pow10 e

/-- The fraction field F of a DM8 body (R113). -/
def dm8F (c : Nat) : Nat := c >>> (dm8q c + 1)

/-- Decode a DM8 element (R113). -/
def decDm8 (w : Nat) : Val :=
  let c := w % 128
  let neg := w / 128 % 2 == 1
  if c == 0 then (if neg then .nan false else .fin false 0) else .fin neg (dm8Mag c)

/-- The value of an integer of a type (R115). -/
def intVal (t w : Nat) : Int := if tySigned t then sext (tyWidth t) w else ((w % 2 ^ tyWidth t : Nat) : Int)

/-- Decode an element of any type of R85. -/
def decVal (t w : Nat) : Val :=
  if t < 8 then
    let x := intVal t w
    .fin (decide (x < 0)) ((x.natAbs : Nat) : Rat)
  else match binFmt t with
    | some f => decBin f w
    | none => decDm8 w

/-- The signed real a finite value stands for. -/
def Val.real : Val → Rat
  | .fin neg m => if neg then -m else m
  | _ => 0

/-- Rounding to an integer (R117): the integer, and whether it changed the value. `odd` tells which of two neighbours is
even for RNE: it is the parity of the lower one. -/
def roundInt (r : Rnd) (x : Rat) : Int × Bool :=
  let lo := x.floor
  let d := x - (lo : Rat)
  if d = 0 then (lo, false) else
  let up : Bool := match r with
    | .rne => if d < mkRat 1 2 then false else if d > mkRat 1 2 then true else lo % 2 != 0
    | .rtz => decide (x < 0)
    | .rup => true
    | .rdn => false
    | .sr u => decide ((u : Rat) < d * ((2 ^ 32 : Nat) : Rat))
  (if up then lo + 1 else lo, true)

/-- The largest finite magnitude of a binary format (R111). -/
def maxFin (f : BinFmt) : Rat :=
  if f.ieee then ((2 ^ (f.mb + 1) - 1 : Nat) : Rat) * pow2 ((2 ^ f.eb - 2 : Int) - f.bias - f.mb)
  else if f.eb == 4 then 448 else 6

/-- Encode a finite magnitude that the format holds, with a sign. -/
def encMag (f : BinFmt) (neg : Bool) (m : Rat) : Nat :=
  let s := if neg then 2 ^ (f.eb + f.mb) else 0
  if m = 0 then s else
  let emin : Int := 1 - f.bias
  let e := ilog2 m
  if e < emin then s + (m * pow2 (f.mb - emin)).floor.toNat
  else s + (e + f.bias).toNat * 2 ^ f.mb + ((m * pow2 (f.mb - e)).floor.toNat - 2 ^ f.mb)

/-- The infinity of a format that has one. -/
def encInf (f : BinFmt) (neg : Bool) : Nat := (if neg then 2 ^ (f.eb + f.mb) else 0) + (2 ^ f.eb - 1) * 2 ^ f.mb

/-- The result of an overflow, and its flags (R118). -/
def overflowTo (t : Nat) (f : BinFmt) (r : Rnd) (sat neg : Bool) : Nat × BitVec 6 :=
  let big := encMag f neg (maxFin f)
  let v :=
    if t == 13 then big
    else if t == 11 then (if sat then big else canonNaN 11)
    else if sat then big
    else match r with
      | .rne => encInf f neg
      | .rtz => big
      | .rup => if neg then big else encInf f neg
      | .rdn => if neg then encInf f neg else big
      | .sr _ => encInf f neg
  (v, ofBit ||| nxBit)

/-- The exact real x ≠ 0 rounded into a binary format, with its flags (R117 to R119, R121). -/
def roundBin (t : Nat) (f : BinFmt) (r : Rnd) (sat : Bool) (x : Rat) : Nat × BitVec 6 :=
  let neg := decide (x < 0)
  let m := if neg then -x else x
  let e := ilog2 m
  let emin : Int := 1 - f.bias
  let q : Int := (if e < emin then emin else e) - f.mb
  let (k, nx) := roundInt r (x * pow2 (-q))
  let y : Rat := ((k.natAbs : Nat) : Rat) * pow2 q
  let big : Bool := if f.ieee then decide (y > maxFin f) else decide (m > maxFin f)
  if big then overflowTo t f r sat neg
  else
    -- tiny: the magnitude rounded with an unbounded exponent lies below the smallest normal (R119)
    let (kU, _) := roundInt r (x * pow2 ((f.mb : Int) - e))
    let tiny := decide (((kU.natAbs : Nat) : Rat) * pow2 (e - f.mb) < pow2 emin)
    (encMag f neg y, (if nx then nxBit else 0) ||| (if nx && tiny then ufBit else 0))

/-- The DM8 bodies in rising order of magnitude (R113). -/
def dm8Ladder : List Nat :=
  [0x20, 0x60] ++ ((List.range 8).map (fun f => f * 16 + 8)) ++ ((List.range 32).map (fun f => f * 4 + 2)) ++
    ((List.range 64).map (fun f => f * 2 + 1)) ++ ((List.range 16).map (fun f => f * 8 + 4)) ++
    ((List.range 4).map (fun f => f * 32 + 16)) ++ [0x40]

/-- The greatest body of a rising list whose magnitude is at most m, 0 when there is none, and the next one. -/
def dm8Bracket (m : Rat) : Nat → List Nat → Nat × Nat
  | lo, [] => (lo, lo)
  | lo, c :: cs => if dm8Mag c ≤ m then dm8Bracket m c cs else (lo, c)

/-- The exact real x ≠ 0 rounded to DM8, with its flags (R117 to R119, R121). -/
def roundDm8 (r : Rnd) (sat : Bool) (x : Rat) : Nat × BitVec 6 :=
  let neg := decide (x < 0)
  let m := if neg then -x else x
  let code (c : Nat) : Nat := if c == 0 then 0 else if neg then 128 + c else c
  if m > 1000 then (if sat then code 0x40 else 0x80, ofBit ||| nxBit) else
  let (a, b) := dm8Bracket m 0 dm8Ladder
  let va := if a == 0 then 0 else dm8Mag a
  if va = m then (code a, 0) else
  let d := (m - va) / (dm8Mag b - va)
  let out : Bool := match r with
    | .rne => if d < mkRat 1 2 then false else if d > mkRat 1 2 then true else a != 0 && dm8F a % 2 == 1
    | .rtz => false
    | .rup => !neg
    | .rdn => neg
    | .sr u => if neg then !decide ((u : Rat) < (1 - d) * ((2 ^ 32 : Nat) : Rat)) else decide ((u : Rat) < d * ((2 ^ 32 : Nat) : Rat))
  (code (if out then b else a), nxBit ||| (if m < mkRat 1 1000 then ufBit else 0))

/-- A zero of a sign in a format: DM8 has one zero only (R113). -/
def zeroOf (t : Nat) (neg : Bool) : Nat :=
  match binFmt t with
  | some f => encMag f neg 0
  | none => 0

/-- An exact real rounded into a float format; `zneg` is the sign of an exact zero. -/
def roundReal (t : Nat) (r : Rnd) (sat : Bool) (x : Rat) (zneg : Bool) : Nat × BitVec 6 :=
  if x = 0 then (zeroOf t zneg, 0) else
  match binFmt t with
  | some f => roundBin t f r sat x
  | none => roundDm8 r sat x

/-- The limits of an integer type (R115). -/
def intMin (t : Nat) : Int := if tySigned t then -(2 ^ (tyWidth t - 1) : Nat) else 0
def intMax (t : Nat) : Int := if tySigned t then (2 ^ (tyWidth t - 1) : Nat) - 1 else (2 ^ tyWidth t : Nat) - 1

/-- Clamp to an integer type. -/
def clampInt (t : Nat) (x : Int) : Int := if x < intMin t then intMin t else if intMax t < x then intMax t else x

/-- The bits a narrow result leaves in its register: `n` bits of it, extended from the width of the type (R115). -/
def extendTo (n t : Nat) (x : Int) : Nat :=
  let w := tyWidth t
  wrapN n (if tySigned t then sext w (wrapN w x) else (wrapN w x : Int))

/-- A conversion of R123, with the low bits of the source, before extension of an integer result: the result as an
integer, for an integer destination, or as a code. -/
def convert (s d : Nat) (r : Rnd) (sat : Bool) (w : Nat) : Int × BitVec 6 :=
  if s < 8 && d < 8 then
    let x := intVal s w
    if sat then (clampInt d x, if clampInt d x = x then 0 else ofBit) else (x, 0)
  else match decVal s w with
    | .nan sig =>
      if d < 8 then (0, nvBit)
      else if d == 13 then (0, nvBit) else ((canonNaN d : Nat), if sig then nvBit else 0)
    | .inf neg =>
      if d < 8 then (if neg then intMin d else intMax d, nvBit)
      else match binFmt d with
        | some f => if f.ieee && !sat then ((encInf f neg : Nat), 0)
            else let (v, e) := overflowTo d f r sat neg; ((v : Nat), e)
        | none => (((if sat then (if neg then 0xC0 else 0x40) else 0x80 : Nat) : Int), ofBit ||| nxBit)
    | .fin neg m =>
      let x := if neg then -m else m
      if d < 8 then
        let (k, nx) := roundInt r x
        if clampInt d k = k then (k, if nx then nxBit else 0) else (clampInt d k, nvBit)
      else let (v, e) := roundReal d r sat x neg; ((v : Nat), e)

end Sys2Proof.Machine
end

