-- ==== Sys2Proof/Machine/Flags.lean ====
section
/-!
DEFINITION. Float arithmetic with its exception flags: the operations of R420 to R426 on decoded values, each rounded
once (R124), the special operands of R421 and R423, comparisons (R422), and the integer operations of R116 and R434 with
theirs. A result is a pair of the result's bits and the exceptions E of R127.
-/
namespace Sys2Proof.Machine

/-- Whether a value is a NaN. -/
def Val.isNaN : Val → Bool
  | .nan _ => true
  | _ => false

/-- Whether a value is a signalling NaN. -/
def Val.isSig : Val → Bool
  | .nan s => s
  | _ => false

/-- Invalid for a signalling operand (R124). -/
def sigFlags (vs : List Val) : BitVec 6 := if vs.any Val.isSig then nvBit else 0

/-- The sign of a sum that is exactly zero (R124). -/
def zeroSumNeg (r : Rnd) (na nb : Bool) : Bool := if na == nb then na else r == .rdn

/-- The infinity of a type with the flags given. -/
def infOf (t : Nat) (neg : Bool) : Nat :=
  match binFmt t with
  | some f => encInf f neg
  | none => canonNaN t

/-- a + b (R420, R421). -/
def fAdd (t : Nat) (r : Rnd) (a b : Val) : Nat × BitVec 6 :=
  match a, b with
  | .nan _, _ => (canonNaN t, sigFlags [a, b])
  | _, .nan _ => (canonNaN t, sigFlags [a, b])
  | .inf x, .inf y => if x == y then (infOf t x, 0) else (canonNaN t, nvBit)
  | .inf x, .fin _ _ => (infOf t x, 0)
  | .fin _ _, .inf y => (infOf t y, 0)
  | .fin x p, .fin y q =>
    roundReal t r false ((if x then -p else p) + (if y then -q else q)) (zeroSumNeg r x y)

/-- The negated operand of a subtraction. -/
def Val.neg : Val → Val
  | .nan s => .nan s
  | .inf n => .inf (!n)
  | .fin n m => .fin (!n) m

/-- a − b. -/
def fSub (t : Nat) (r : Rnd) (a b : Val) : Nat × BitVec 6 := fAdd t r a b.neg

/-- The exact product as a value; the flag is invalid for 0 × ∞ (R421). -/
def mulExact (a b : Val) : Val × BitVec 6 :=
  match a, b with
  | .nan _, _ => (.nan false, sigFlags [a, b])
  | _, .nan _ => (.nan false, sigFlags [a, b])
  | .inf x, .inf y => (.inf (x != y), 0)
  | .inf x, .fin y q => if q = 0 then (.nan false, nvBit) else (.inf (x != y), 0)
  | .fin x p, .inf y => if p = 0 then (.nan false, nvBit) else (.inf (x != y), 0)
  | .fin x p, .fin y q => (.fin (x != y) (p * q), 0)

/-- A value rounded into a format; a NaN becomes canonical. -/
def roundVal (t : Nat) (r : Rnd) (v : Val) : Nat × BitVec 6 :=
  match v with
  | .nan _ => (canonNaN t, 0)
  | .inf n => (infOf t n, 0)
  | .fin n m => roundReal t r false (if n then -m else m) n

/-- a × b. -/
def fMul (t : Nat) (r : Rnd) (a b : Val) : Nat × BitVec 6 :=
  let (p, e) := mulExact a b
  let (w, e') := roundVal t r p
  (w, e ||| e')

/-- a × b + c, rounded once (R421). -/
def fFma (t : Nat) (r : Rnd) (a b c : Val) : Nat × BitVec 6 :=
  let (p, e) := mulExact a b
  let (w, e') := fAdd t r p c
  (w, e ||| e')

/-- a ÷ b (R421). -/
def fDiv (t : Nat) (r : Rnd) (a b : Val) : Nat × BitVec 6 :=
  match a, b with
  | .nan _, _ => (canonNaN t, sigFlags [a, b])
  | _, .nan _ => (canonNaN t, sigFlags [a, b])
  | .inf _, .inf _ => (canonNaN t, nvBit)
  | .inf x, .fin y _ => (infOf t (x != y), 0)
  | .fin x _, .inf y => (zeroOf t (x != y), 0)
  | .fin x p, .fin y q =>
    if q = 0 then (if p = 0 then (canonNaN t, nvBit) else (infOf t (x != y), dzBit))
    else roundReal t r false (if x != y then -(p / q) else p / q) (x != y)

/-- The order of −∞ < finite < +∞, with −0 below +0 when `zs` (R421): a below b. -/
def valLt (zs : Bool) (a b : Val) : Bool :=
  match a, b with
  | .inf x, .inf y => x && !y
  | .inf x, .fin _ _ => x
  | .fin _ _, .inf y => !y
  | .fin x p, .fin y q =>
    let u := if x then -p else p
    let v := if y then -q else q
    decide (u < v) || (zs && decide (u = v) && x && !y)
  | _, _ => false

/-- Equality of two ordered values; −0 equals +0. -/
def valEq (a b : Val) : Bool :=
  match a, b with
  | .inf x, .inf y => x == y
  | .fin x p, .fin y q => decide ((if x then -p else p) = (if y then -q else q))
  | _, _ => false

/-- `FMAX` and `FMIN` (R421), on the operands' bits: the result is one of them, so it is exact. -/
def fMinMax (t : Nat) (wantMax : Bool) (wa wb : Nat) : Nat × BitVec 6 :=
  let a := decVal t wa
  let b := decVal t wb
  let e := sigFlags [a, b]
  if a.isNaN && b.isNaN then (canonNaN t, e)
  else if a.isNaN then (wb, e)
  else if b.isNaN then (wa, e)
  else if valLt true a b == wantMax then (wb, e) else (wa, e)

/-- The conditions of `FCMP` (R422). -/
def fCmp (cond : Nat) (a b : Val) : Bool × BitVec 6 :=
  let un := a.isNaN || b.isNaN
  let e := if un && 2 ≤ cond && cond ≤ 5 then nvBit else sigFlags [a, b]
  let res := match cond with
    | 0 => !un && valEq a b
    | 1 => un || !valEq a b
    | 2 => !un && valLt false a b
    | 3 => !un && (valLt false a b || valEq a b)
    | 4 => !un && valLt false b a
    | 5 => !un && (valLt false b a || valEq a b)
    | 6 => !un
    | _ => un
  (res, e)

/-- `FRND` (R424). -/
def fRnd (t : Nat) (r : Rnd) (a : Val) : Nat × BitVec 6 :=
  match a with
  | .nan s => (canonNaN t, if s then nvBit else 0)
  | .inf n => (infOf t n, 0)
  | .fin n m =>
    let (k, _) := roundInt r (if n then -m else m)
    let (w, _) := roundReal t .rne false (k : Rat) n
    (w, 0)

/-- `FTSUM` (R425): the rounded sum, its exact error, and the flags. -/
def fTwoSum (a b : Val) : Nat × Nat × BitVec 6 :=
  let (s, e) := fAdd 10 .rne a b
  match a, b, decVal 10 s with
  | .fin x p, .fin y q, .fin n m =>
    let t := (if x then -p else p) + (if y then -q else q)
    let d := t - (if n then -m else m)
    ((s, (roundReal 10 .rne false d false).1, e &&& ~~~nxBit))
  | _, _, _ => (s, 0, e)

/-- Wrap or clamp an exact integer to a type, with the overflow flag of `.SAT` (R116). -/
def intResult (t : Nat) (sat : Bool) (x : Int) : Int × BitVec 6 :=
  if sat then (clampInt t x, if clampInt t x = x then 0 else ofBit) else (x, 0)

/-- Quotient and remainder of R116, with the divide-by-zero flag. -/
def intDiv (a b : Int) : Int × Int × BitVec 6 :=
  if b = 0 then (-1, a, idzBit) else (a.tdiv b, a.tmod b, 0)

/-- The comparisons of `ICMP` (R435). -/
def iCmp (cond : Nat) (a b : Int) : Bool :=
  match cond with
  | 0 => decide (a = b)
  | 1 => decide (a ≠ b)
  | 2 => decide (a < b)
  | 3 => decide (a ≤ b)
  | 4 => decide (b < a)
  | _ => decide (b ≤ a)

end Sys2Proof.Machine
end

