-- ==== Sys2Proof/Machine/Tensor.lean ====
section
/-!
DEFINITION. Tensors (09_tensors_copy.md): descriptors and their checks (R189, R190, R192), where elements lie (R191), traversal
order (R193), the element maps of transfers (R194, R196), and block scales (05 R114, R195).
-/
namespace Sys2Proof.Machine

/-- A tensor descriptor's fields (R189). -/
structure Tensor where
  base : Nat
  idxp : Nat
  sizes : List Nat
  strides : List Int
  rank : Nat
  fmt : Nat
  layout : Nat
  oob : Nat
  iw : Nat
  idim : Nat
  rm : Nat
  sat : Bool
  deriving DecidableEq, Repr

/-- R189. -/
def tensorOf (d : Nat) : Tensor :=
  { base := nfield d 55 0, idxp := nfield d 111 56,
    sizes := (List.range (min (nfield d 474 472) 5)).map (fun i => nfield d (32 * i + 143) (32 * i + 112)),
    strides := (List.range (min (nfield d 474 472) 5)).map (fun i => sext 40 (nfield d (40 * i + 311) (40 * i + 272))),
    rank := nfield d 474 472, fmt := nfield d 478 475, layout := nfield d 481 479, oob := nfield d 483 482,
    iw := nfield d 484 484, idim := nfield d 487 485, rm := nfield d 489 488, sat := d.testBit 490 }

def Tensor.size (t : Tensor) (d : Nat) : Nat := t.sizes.getD d 1
def Tensor.stride (t : Tensor) (d : Nat) : Int := t.strides.getD d 0

/-- Element size in bytes, 1 for E2M1. -/
def Tensor.es (t : Tensor) : Nat := max 1 (tyWidth t.fmt / 8)

/-- Bytes of a block with its scale (R191). -/
def Tensor.blockBytes (t : Tensor) : Nat := if t.fmt == 13 then 17 else 32 * t.es + 1

/-- The checks of R190 but for `BASE` = 0, with the constraints of R192. -/
def tensorBad (d : Nat) : Bool :=
  let t := tensorOf d
  let es := t.es
  nfield d 511 491 != 0 || t.rank == 0 || t.rank > 5 || t.layout > 4 || t.oob == 3 || t.fmt == 15
    || t.sizes.any (· == 0)
    || (List.range 5).any (fun k => t.rank ≤ k && (nfield d (32 * k + 143) (32 * k + 112) != 0 || nfield d (40 * k + 311) (40 * k + 272) != 0))
    || (t.idxp != 0 && t.idxp % (if t.iw == 0 then 4 else 8) != 0) || t.idim ≥ t.rank
    || t.base % es != 0
    || (t.layout == 2 && (t.rank < 2 || t.stride 0 % 1024 != 0 || t.stride 1 % 1024 != 0))
    || (t.layout == 3 && (!([11, 12, 13, 14].contains t.fmt) || t.stride 0 != 1 || (List.range 5).any (fun k => 1 ≤ k && k < t.rank && t.stride k % 32 != 0)))
    || (t.layout == 4 && (t.stride 0 != 1 || t.size 0 > 64))

/-- The sum of i_d × stride_d from dimension `d` on. -/
def dotStrides (t : Tensor) : Nat → List Nat → Int
  | _, [] => 0
  | d, i :: is => (i : Int) * t.stride d + dotStrides t (d + 1) is

/-- The element offset of R191. -/
def Tensor.offset (t : Tensor) (ix : List Nat) : Int :=
  if t.layout == 2 then
    let i0 := ix.getD 0 0
    let i1 := ix.getD 1 0
    ((i0 / 32 : Nat) : Int) * t.stride 0 + ((i1 / 32 : Nat) : Int) * t.stride 1 + dotStrides t 2 (ix.drop 2)
      + ((32 * (i1 % 32) + i0 % 32 : Nat) : Int)
  else dotStrides t 0 ix

/-- Where an element lies (R191): its byte address, and for E2M1 whether it is the high half of the byte. -/
def Tensor.addr (t : Tensor) (ix : List Nat) : Int × Bool :=
  let o := t.offset ix
  if t.layout == 3 then
    let b := o / 32
    let p := o % 32
    ((t.base : Int) + b * (t.blockBytes : Int) + (if t.fmt == 13 then p / 2 else p * (t.es : Int)), t.fmt == 13 && p % 2 == 1)
  else if t.fmt == 13 then ((t.base : Int) + o / 2, o % 2 == 1)
  else ((t.base : Int) + o * (t.es : Int), false)

/-- Where an element's block scale lies, in BLOCKED (R191). -/
def Tensor.scaleAddr (t : Tensor) (ix : List Nat) : Option Int :=
  if t.layout != 3 then none else
  some ((t.base : Int) + t.offset ix / 32 * (t.blockBytes : Int) + (if t.fmt == 13 then 16 else 32 * (t.es : Int)))

/-- Index vectors with dimension 0 fastest. -/
def rowOrder : List Nat → List (List Nat)
  | [] => [[]]
  | n :: ns => (rowOrder ns).flatMap (fun r => (List.range n).map (fun i => i :: r))

/-- Traversal order of a layout over some sizes (R191, R193). -/
def traversal (layout : Nat) (sizes : List Nat) : List (List Nat) :=
  match layout, sizes with
  | 1, a :: b :: rest =>
    (rowOrder rest).flatMap (fun r => (List.range a).flatMap (fun i => (List.range b).map (fun j => i :: j :: r)))
  | 2, a :: b :: rest =>
    (rowOrder rest).flatMap (fun r =>
      (List.range (ceilDiv b 32)).flatMap (fun tj => (List.range (ceilDiv a 32)).flatMap (fun ti =>
        (List.range (min 32 (b - 32 * tj))).flatMap (fun j => (List.range (min 32 (a - 32 * ti))).map (fun i =>
          (32 * ti + i) :: (32 * tj + j) :: r)))))
  | _, _ => rowOrder sizes

/-- The least and greatest byte address of a tensor's elements and scales; strides may be negative. -/
def Tensor.range (t : Tensor) : Int × Int :=
  let ends (d : Nat) : Int × Int :=
    let n := t.size d - 1
    let k : Int := if t.layout == 2 && d < 2 then ((n / 32 : Nat) : Int) * t.stride d else (n : Int) * t.stride d
    (min 0 k, max 0 k)
  let lo := (List.range t.rank).foldl (fun a d => a + (ends d).1) 0
  let hi := (List.range t.rank).foldl (fun a d => a + (ends d).2) (if t.layout == 2 then 1023 else 0)
  if t.layout == 3 then ((t.base : Int) + lo / 32 * (t.blockBytes : Int), (t.base : Int) + (hi / 32 + 1) * (t.blockBytes : Int) - 1)
  else if t.fmt == 13 then ((t.base : Int) + lo / 2, (t.base : Int) + hi / 2)
  else ((t.base : Int) + lo * (t.es : Int), (t.base : Int) + hi * (t.es : Int) + (t.es : Int) - 1)

/-- Signed 12-bit origins (R194). -/
def originOf (w : DWord) (d : Nat) : Int := sext 12 (nfield w.toNat (12 * d + 11) (12 * d))

/-- How an index vector meets a tensor's bounds (R194): inside, replaced by CLAMP, padding under ZERO, or a fault. -/
inductive Bound where
  | inside (ix : List Nat)
  | zero
  | fault
  deriving DecidableEq, Repr

/-- Whether some index lies outside its size. -/
def outside (t : Tensor) (js : List Int) : Bool :=
  (List.range js.length).any (fun d => js.getD d 0 < 0 || js.getD d 0 ≥ (t.size d : Int))

/-- R194 at a tensor with its policy. -/
def bound (t : Tensor) (js : List Int) : Bound :=
  if !outside t js then .inside (js.map Int.toNat)
  else match t.oob with
    | 0 => .fault
    | 1 => .zero
    | _ => .inside ((List.range js.length).map (fun d => (max 0 (min (js.getD d 0) ((t.size d : Int) - 1))).toNat))

/-- One element of a transfer: its place in the index tensor, its indices in the element space, and the bounds its source
and its destination meet (R194, R196). -/
structure Move where
  pos : Nat
  space : List Nat
  src : Bound
  dst : Bound
  deriving DecidableEq, Repr

/-- The element space of a transfer, in traversal order: the destination's, or the source's for a scatter (R194, R196). DESIGN CHOICE (log 103):
a scatter goes in the order of its source's layout. -/
def spaceOf (op : Nat) (d s : Tensor) : List (List Nat) :=
  if op ≥ 2 then traversal s.layout s.sizes else traversal d.layout d.sizes

/-- The length of a transfer's index tensor (R196). -/
def indexCount (op : Nat) (d s : Tensor) : Nat :=
  if op == 1 then d.size s.idim else if op ≥ 2 then s.size s.idim else 0

/-- The moves of a transfer, in traversal order, with the indices read (R194, R196). -/
def moves (op : Nat) (d s : Tensor) (origin : DWord) (idx : List Int) : List Move :=
  (spaceOf op d s).map (fun ix =>
    let plain (k : Nat) : Int := (ix.getD k 0 : Int) + originOf origin k
    let p := ix.getD s.idim 0
    match op with
    | 0 => { pos := 0, space := ix, src := bound s ((List.range ix.length).map plain), dst := .inside ix }
    | 1 =>
      let js := (List.range ix.length).map (fun k => if k == s.idim then idx.getD p 0 + originOf origin k else plain k)
      { pos := p, space := ix, src := bound s js, dst := .inside ix }
    | _ =>
      let ds := (List.range ix.length).map (fun k => if k == d.idim then idx.getD p 0 else (ix.getD k 0 : Int))
      { pos := p, space := ix, src := bound s ((List.range ix.length).map plain), dst := bound d ds })

/-- An E8M0 or DS8 scale (R114); `none` for NaN and NaR. -/
def scaleVal (fmt : Nat) (b : Byte) : Option Rat :=
  if fmt == 14 then (if b == 0x80 then none else some (pow10 (sext 8 b.toNat)))
  else if b == 0xFF then none else some (pow2 ((b.toNat : Int) - 127))

/-- An element's value times its scale (R114). -/
def scaledVal (fmt code : Nat) (scale : Option Byte) : Val :=
  match decVal fmt code, scale with
  | v, none => v
  | v, some b => match scaleVal fmt b with
    | none => .nan false
    | some k => match v with
      | .fin n m => .fin n (m * k)
      | w => w

/-- The element code in the bytes of an element. -/
def codeIn (fmt : Nat) (hi : Bool) (w : Nat) : Nat :=
  if fmt == 13 then (if hi then w / 16 % 16 else w % 16) else w % 2 ^ tyWidth fmt

/-- Floor of the base-10 logarithm of a positive rational, and its ceiling. -/
def ilog10 (x : Rat) : Nat → Int
  | 0 => 0
  | n + 1 => if x ≥ 10 then 1 + ilog10 (x / 10) n else if x < 1 then -1 + ilog10 (x * 10) n else 0
def clog10 (x : Rat) : Int := let k := ilog10 x 400; if pow10 k = x then k else k + 1

/-- The scale the engine forms for a block whose largest magnitude is `m` (R195): its byte. -/
def formScale (fmt : Nat) (m : Rat) : Byte :=
  if m = 0 then (if fmt == 14 then 0 else 0x7F)
  else if fmt == 14 then BitVec.ofInt 8 (max (-127) (min 127 (clog10 m - 3)))
  else
    let emax : Int := match fmt with | 11 => 8 | 12 => 15 | _ => 2
    BitVec.ofNat 8 (max 0 (min 254 (ilog2 m - emax + 127))).toNat

/-- A value rounded into a type that has float or integer codes, with `RM` and `SAT` (R123, R195): the code. -/
def toCode (s d : Nat) (rm : Nat) (sat : Bool) (v : Val) : Nat :=
  let r := rndOf rm
  match v with
  | .nan _ => if d < 8 then 0 else if d == 13 then 0 else canonNaN d
  | .inf neg => match encInfOf neg with | w => wrapN (tyWidth d) (convert 10 d r sat w).1
  | .fin neg m =>
    let x := if neg then -m else m
    if d < 8 then
      (if s < 8 then wrapN (tyWidth d) (if sat then clampInt d x.floor else x.floor)
       else wrapN (tyWidth d) (clampInt d (roundInt r x).1))
    else (roundReal d r sat x neg).1
where
  /-- The F32 code of an infinity. -/
  encInfOf (neg : Bool) : Nat := if neg then 0xFF800000 else 0x7F800000

/-- The bytes of a code of a type, for a whole-byte type. -/
def codeBytes (fmt code : Nat) : List Byte := toBytes (max 1 (tyWidth fmt / 8)) code

end Sys2Proof.Machine
end

