-- ==== Sys2Proof/Machine/Shards.lean ====
section
/-!
DEFINITION. Placement entries (15_fabric_placement.md R314 to R317): their fields and refusal, this package's piece of a tensor, the
entry that holds an address; the chunks of a collective (15 R312); and the lines that engines own (12 R257 to R259).
-/
namespace Sys2Proof.Machine

/-- Aligned 128-byte lines that a range of VA touches. -/
def linesOf (va n : Nat) : List Nat := (List.range ((va % 128 + n + 127) / 128)).map (fun i => va / 128 + i)

/-- Bytes of global memory in which the first unreadable one stands, as a VA. -/
def State.badVa (s : State) (va : Nat) : List (Nat × Nat) → Option (Nat × Nat)
  | [] => none
  | (pa, n) :: ps => match s.badByte pa n with
    | some b => some (va + (b - pa), b)
    | none => s.badVa (va + n) ps

/-- The first byte of a write that covers part only of a retired block, as a VA. -/
def State.partVa (s : State) (va : Nat) : List (Nat × Nat) → Option Nat
  | [] => none
  | (pa, n) :: ps => match s.partialRetired pa n with
    | some b => some (va + (b - pa))
    | none => s.partVa (va + n) ps

/-- The fields of a placement entry (R314). -/
structure PEntry where
  shard : Nat
  gsize : List Nat
  ax : List Nat
  st : List Nat
  rbase : Nat
  conv : Bool
  deriving DecidableEq, Repr

/-- R314. -/
def pentryOf (w : BitVec 512) : PEntry :=
  { shard := field w 55 0, gsize := (List.range 5).map (fun d => field w (32 * d + 87) (32 * d + 56)),
    ax := [field w 251 239, field w 264 252, field w 277 265], st := [field w 282 278, field w 287 283, field w 292 288],
    rbase := field w 304 293, conv := w.getLsbD 305 }

/-- Axis states: R, P(op), split of a dimension, unused (R314). -/
def isR (s : Nat) : Bool := s == 0
def isP (s : Nat) : Bool := 16 ≤ s && s ≤ 18
def isS (s : Nat) : Bool := 8 ≤ s && s ≤ 12
def stateOk (s : Nat) : Bool := isR s || isP s || isS s || s == 24

/-- The mesh coordinate of a rank, and the rank of a coordinate (R316). -/
def PEntry.coords (e : PEntry) (rank : Nat) : List Nat :=
  let k := rank - e.rbase
  let a0 := e.ax.getD 0 1
  let a1 := e.ax.getD 1 1
  [k % max 1 a0, k / max 1 a0 % max 1 a1, k / max 1 a0 / max 1 a1]
def PEntry.rankOf (e : PEntry) (a : List Nat) : Nat :=
  e.rbase + a.getD 0 0 + e.ax.getD 0 1 * (a.getD 1 0 + e.ax.getD 1 1 * a.getD 2 0)

/-- The axes whose state splits a dimension, in ascending order (R316). -/
def PEntry.axesOf (e : PEntry) (d : Nat) : List Nat := (List.range 3).filter (fun k => e.st.getD k 0 == 8 + d)

/-- How many pieces a dimension has, the size of a piece, and which piece a coordinate holds (R316). -/
def PEntry.pieces (e : PEntry) (d : Nat) : Nat := (e.axesOf d).foldl (fun n k => n * e.ax.getD k 1) 1
def PEntry.local (e : PEntry) (d : Nat) : Nat := e.gsize.getD d 0 / max 1 (e.pieces d)
def PEntry.piece (e : PEntry) (a : List Nat) (d : Nat) : Nat :=
  (e.axesOf d).foldl (fun n k => n * e.ax.getD k 1 + a.getD k 0) 0

/-- The global index of a local element, and the local index of a global one in a piece (R316). -/
def PEntry.global (e : PEntry) (a ix : List Nat) : List Nat :=
  (List.range ix.length).map (fun d => e.piece a d * e.local d + ix.getD d 0)
def PEntry.toLocal (e : PEntry) (a g : List Nat) : Option (List Nat) :=
  let ok := (List.range g.length).all (fun d => e.piece a d * e.local d ≤ g.getD d 0 && g.getD d 0 < (e.piece a d + 1) * e.local d)
  if ok then some ((List.range g.length).map (fun d => g.getD d 0 - e.piece a d * e.local d)) else none

/-- Whether an entry's tensor descriptor agrees with the local shard of R316. -/
def PEntry.agrees (e : PEntry) (t : Tensor) : Bool := t.sizes == (List.range t.rank).map e.local

/-- Whether two address ranges overlap. -/
def overlap (a b : Int × Int) : Bool := a.1 ≤ b.2 && b.1 ≤ a.2

/-- The refusals of R315 that an entry's image alone shows. -/
def imageRefused (c : Ctx) (w : BitVec 512) : Bool :=
  let e := pentryOf w
  let n := e.ax.getD 0 0 * e.ax.getD 1 0 * e.ax.getD 2 0
  field w 511 306 != 0 || field w 238 216 != 0 || e.st.any (fun s => !stateOk s) || e.ax.any (fun a => a == 0 || a > 4096)
    || (List.range 3).any (fun k => e.st.getD k 0 == 24 && e.ax.getD k 0 != 1)
    || n > 4096 || e.rbase + n - 1 > field c.drank 27 16
    || (List.range 5).any (fun k => e.gsize.getD k 0 % max 1 (e.pieces k) != 0)
    || e.conv

/-- Those that its shard's descriptor shows. -/
def shardRefused (c : Ctx) (idx : Nat) (w d : BitVec 512) : Bool :=
  let e := pentryOf w
  let t := tensorOf d.toNat
  tensorBad d.toNat || !e.agrees t
    || (List.range 5).any (fun k => t.rank ≤ k && (e.gsize.getD k 0 != 0 || !(e.axesOf k).isEmpty))
    || c.shards.any (fun p => p.1 != idx && overlap (tensorOf p.2.toNat).range t.range)

/-- The placement entry of an index; an entry that nothing has written is zero. -/
def Ctx.entry (c : Ctx) (idx : Nat) : BitVec 512 := cellGet 0 c.place idx

/-- The entries of a context whose shard a range of VA touches (R317). -/
def Ctx.entriesAt (c : Ctx) (va n : Nat) : List (Nat × PEntry × Tensor) :=
  (c.shards.filter (fun p => overlap (tensorOf p.2.toNat).range ((va : Int), (va : Int) + n - 1))).map
    (fun p => (p.1, pentryOf (c.entry p.1), tensorOf p.2.toNat))

/-- Whether a plain write, an atomic or an engine write to a range raises `PLACEMENT` (R317). An entry that converts holds the access
first, and its new states govern it (R320). -/
def Ctx.needsMcst (c : Ctx) (va n : Nat) : Bool := (c.entriesAt va n).any (fun e => e.2.1.st.any isR && !e.2.1.conv)

/-- The entry that converts and holds an access (R320). -/
def Ctx.converting (c : Ctx) (va n : Nat) : Option Nat := ((c.entriesAt va n).find? (fun e => e.2.1.conv)).map (·.1)

/-- The place of a byte, none where its element has left the package. -/
def Places.of (p : Places) (va : Nat) : Option Nat := match p.find? (fun q => q.1 == va) with | some q => q.2 | none => some va

/-- Whether some byte of a range is listed. -/
def Places.meets (p : Places) (va n : Nat) : Bool := !p.isEmpty && (List.range n).any (fun i => p.any (fun q => q.1 == va + i))

/-- The pieces of a range as they stand now, bases and lengths: the range itself, or its bytes one by one. -/
def Places.spread (p : Places) (va n : Nat) : List (Nat × Nat) :=
  if p.meets va n then (List.range n).filterMap (fun i => (p.of (va + i)).map (fun a => (a, 1))) else [(va, n)]

/-- The first byte of a range whose element has left the package, for which the access raises `PLACEMENT` (R320). DEDUCED (log 111): the
whole access does. -/
def Places.lost (p : Places) (va n : Nat) : Option Nat :=
  if p.meets va n then ((List.range n).map (va + ·)).find? (fun a => (p.of a).isNone) else none

/-- The bytes of a range that an entry which converts holds, each with that entry. -/
def Ctx.holds (c : Ctx) (p : Places) (va n : Nat) : List (Nat × Nat × Nat) :=
  (List.range n).filterMap (fun i => (p.of (va + i)).bind (fun a => (c.converting a 1).map (fun k => (va + i, a, k))))

/-- The context as an access sees it that an entry held and holds no longer: one that converts again does not hold it once more. -/
def Ctx.unheld (c : Ctx) : Ctx := { c with shards := c.shards.filter (fun p => !(pentryOf (c.entry p.1)).conv) }

/-- The places of a part of a piece of work, and those that an entry has released. -/
def State.placesOf (s : State) (work : Nat × Nat) (part : Nat) : Places :=
  (s.heldBytes.filter (fun h => h.work == work && h.part == part)).map (fun h => (h.va, h.now))
def State.freedOf (s : State) (work : Nat × Nat) (part : Nat) : List Nat :=
  (s.heldBytes.filter (fun h => h.work == work && h.part == part && h.held.isNone)).filterMap (·.now)

/-- The names of a matrix entry, and of a held access of a wave, among the works. -/
def entryWork (id : Nat) : Nat × Nat := (65536, id)
def recWork (id : Nat) : Nat × Nat := (65537, id)

/-- The place of a part of a piece of work in the order of arrival (R320): that of what an entry held and has released, else the last. -/
def State.stamp (s : State) (work : Nat × Nat) (part : Nat) : Nat :=
  if work.1 == (recWork 0).1 then work.2 else
  match s.heldBytes.find? (fun h => h.work == work && h.part == part && h.held.isNone) with
  | some h => h.order
  | none => s.nextId

/-- The context as a part of some work sees it for an access at a VA (R320). -/
def State.viaCtx (s : State) (c : Ctx) (work : Nat × Nat) (part va : Nat) : Ctx :=
  if (s.freedOf work part).contains va then c.unheld else c

/-- An entry that converts holds accesses of a part of a piece of work (R320), each from when it arrives. -/
def State.holdBytes (s : State) (c : Ctx) (work : Nat × Nat) (part : Nat) (as : List (Nat × Nat)) : State :=
  let p := s.placesOf work part
  let new := ((as.flatMap (fun a => c.holds p a.1 a.2)).filter (fun h => !p.any (fun q => q.1 == h.1))).eraseDups
  if new.isEmpty then s else
    { s with
      heldBytes := s.heldBytes ++ new.map (fun h =>
        { asid := c.asid, work := work, part := part, va := h.1, now := some h.2.1, held := some h.2.2, order := s.nextId : HeldByte })
      nextId := s.nextId + 1 }

/-- A part of a piece of work, or all of it, has made its accesses or makes them no more; nothing holds the work then. -/
def State.dropPart (s : State) (work : Nat × Nat) (part : Nat) : State :=
  { s with heldBytes := s.heldBytes.filter (fun h => h.work != work || h.part != part) }
def State.dropBytes (s : State) (work : Nat × Nat) : State :=
  { s with heldBytes := s.heldBytes.filter (fun h => h.work != work), stalls := s.stalls.filter (fun h => h.work != work) }

/-- Requests are dropped, with all that holds their walks (R243). -/
def State.dropReqs (s : State) (gone : Req → Bool) : State :=
  let mine (work : Nat × Nat) : Bool := work.1 == 0 && s.reqs.any (fun r => gone r && r.id == work.2)
  { s with
    reqs := s.reqs.filter (fun r => !gone r)
    stalls := s.stalls.filter (fun h => !mine h.work)
    heldBytes := s.heldBytes.filter (fun h => !mine h.work) }

/-- The parts of a piece of work that are no sector or chunk: a write or a read on a context's behalf, the indices of a transfer, its
drain. -/
def partAct : Nat := 2 ^ 128
def partIndex : Nat := 2 ^ 128 + 1
def partDrain : Nat := 2 ^ 128 + 2

/-- The accesses of engines and units that a converting entry holds are released when its conversion ends, to the places where their
elements then are (R320). -/
def State.releaseBytes (s : State) (c : Ctx) (idx : Nat) (f : Nat → Option Nat) : State :=
  { s with heldBytes := s.heldBytes.map (fun h =>
      if h.asid = c.asid ∧ h.held = some idx then { h with now := h.now.bind f, held := none } else h) }

/-- The local element at a VA. -/
def Tensor.elementAt (t : Tensor) (va : Nat) : Option (List Nat) :=
  (rowOrder t.sizes).find? (fun ix => (t.addr ix).1 ≤ (va : Int) && (va : Int) < (t.addr ix).1 + t.es)

/-- Where an element's block begins, in BLOCKED (R191). -/
def Tensor.blockBase (t : Tensor) (ix : List Nat) : Int := (t.base : Int) + t.offset ix / 32 * (t.blockBytes : Int)

/-- The place of a block in its tensor. -/
def blockKey (ix : List Nat) : List Nat := ix.headD 0 / 32 :: ix.drop 1

/-- The fields of a collective block (R307). -/
structure CBlock where
  src : Nat
  dst : Nat
  count : Nat
  first : Nat
  stride : Nat
  op : Nat
  rop : Nat
  nanp : Bool
  chunk : Bool
  root : Nat
  k : Nat
  deriving DecidableEq, Repr

/-- R307. -/
def cblockOf (b : Nat) : CBlock :=
  { src := nfield b 63 0, dst := nfield b 127 64, count := nfield b 140 128, first := nfield b 152 141,
    stride := nfield b 164 153, op := nfield b 167 165, rop := nfield b 169 168, nanp := b.testBit 170, chunk := b.testBit 171,
    root := nfield b 183 172, k := nfield b 215 184 }

/-- Units of a destination of which chunks are made (R312): elements in traversal order, or whole blocks in BLOCKED. -/
def chunkUnits (d : Tensor) : List (List Nat) :=
  if d.layout == 3 then ((traversal d.layout d.sizes).map blockKey).eraseDups else traversal d.layout d.sizes

/-- The bits of a unit. -/
def chunkBits (d : Tensor) : Nat := if d.layout == 3 then 8 * d.blockBytes else tyWidth d.fmt

/-- The index vectors of a chunk, 64 KiB of the destination (R312): a block that lies in two chunks is written with each. -/
def chunkIx (d : Tensor) (k : Nat) : List (List Nat) :=
  let first := k * 524288 / chunkBits d
  let us := (chunkUnits d).drop first |>.take (ceilDiv ((k + 1) * 524288) (chunkBits d) - first)
  if d.layout == 3 then us.flatMap (fun u => (List.range 32).filterMap (fun p =>
      if 32 * u.headD 0 + p < d.size 0 then some ((32 * u.headD 0 + p) :: u.drop 1) else none))
  else us

/-- How many chunks a destination has. -/
def chunkCount (d : Tensor) : Nat := ceilDiv ((chunkUnits d).length * chunkBits d) 524288

/-- Whether a team is stopped with its context, so that its engines start nothing new (R188, R348). -/
def State.frozen (s : State) (t : TeamId) : Bool :=
  s.idleGrid t.grid || (match s.team? t with | some x => x.away | none => true)

/-- Whether an engine stands still on an issuer's work: its team or context is stopped (R200, R348). -/
def State.still (s : State) (asid : Nat) (iss : Issuer) : Bool :=
  match iss with
  | .wave w => s.frozen w.team
  | .node _ _ => match s.ctx? asid with | some c => c.stopped | none => true

/-- The sector of an address, and the number by which events name a sector: every integer has one, and another integer another. -/
def sectorName (k : Int) : Nat := if k < 0 then 2 * k.natAbs - 1 else 2 * k.natAbs
def sectorOf (n : Nat) : Int := if n % 2 = 0 then (n / 2 : Nat) else -((n / 2 + 1 : Nat) : Int)

/-- Whether a transfer writes to some line of a range in a sector that it has not finished (R257): a scatter owns its destination's
whole range until its indices are read, and whole blocks in BLOCKED, which it forms anew (R195). -/
def Xfer.owns (t : Xfer) (va n : Nat) : Bool :=
  let d := tensorOf t.dst.toNat
  (linesOf va n).any (fun line =>
    !t.done.contains ((line / 4 : Nat) : Int) &&
      (if t.op ≥ 2 && !t.idxRead then overlap d.range ((128 * line : Nat), (128 * line + 127 : Nat))
       else (moves t.op d (tensorOf t.src.toNat) t.origin t.idx).any (fun m => match m.dst with
         | .inside ix => if d.layout == 3 then overlap (d.blockBase ix, d.blockBase ix + (d.blockBytes : Int) - 1) ((128 * line : Nat), (128 * line + 127 : Nat))
             else (d.addr ix).1 / 128 == (line : Int)
         | _ => false)))

/-- The base, the row stride and the bytes of a row that a global `MDRN` drains (R184). -/
def Entry.rows (e : Entry) : Nat × Nat × Nat :=
  let d := e.desc.toNat
  (nfield d 63 0, nfield d 95 64, ceilDiv ((nfield d 376 370 + 1) * tyWidth (nfield d 355 352)) 8)

/-- Whether a FIFO entry is a global `MDRN`, and whether it drains to some line of a range (R184, R257). -/
def Entry.drains (e : Entry) : Bool := match e.instr with | .mdrn _ => nfield e.desc.toNat 361 360 == 2 | _ => false
def Entry.owns (e : Entry) (va n : Nat) : Bool :=
  (lanesOf e.lanes).any (fun l => (linesOf va n).any (fun line => (linesOf (e.rows.1 + l * e.rows.2.1) e.rows.2.2).contains line))

/-- Whether an element of a tensor, or its scale, lies in some line of a range. -/
def Tensor.touches (t : Tensor) (va n : Nat) (ix : List Nat) : Bool :=
  (linesOf va n).any (fun line => (t.addr ix).1 / 128 == (line : Int) ||
    match t.scaleAddr ix with | some a => a / 128 == (line : Int) | none => false)

/-- Whether a collective writes to some line of a range in a chunk that is not done, or to the indices of a TOPK (R257, R307). -/
def Coll.owns (o : Coll) (va n : Nat) : Bool :=
  let d := tensorOf o.dst.toNat
  let top := (cblockOf o.block.toNat).op == 4
  let near (lo hi : Int) : Bool := overlap (lo, hi) ((va / 128 * 128 : Nat), ((va + n - 1) / 128 * 128 + 127 : Nat))
  (near d.range.1 d.range.2 || (top && near d.idxp (d.idxp + 8 * d.size 0 - 1 : Nat))) &&
    (List.range (chunkCount d)).any (fun k => !o.done.contains k && (chunkIx d k).any (fun ix => d.touches va n ix ||
      (top && (linesOf va n).any (fun line => (d.idxp + 8 * ix.headD 0) / 128 == line))))

/-- A piece of engine work that owns lines (R257), or an access that an entry held and has released (R320): its name, its place in the
order of acceptance or of arrival, its context, the range of VA within which its lines lie, which lines those are, and which of the two it
is. -/
structure Owner where
  work : Nat × Nat
  order : Nat
  asid : Nat
  lo : Int
  hi : Int
  owns : Nat → Nat → Bool
  late : Bool

/-- The work that owns lines now (R257, R259): transfers but deferred scatter-adds, collectives, global `MDRN` entries and conversions.
Work that has stopped with its context or team owns none; a matrix entry that has started completes and keeps its lines (R348). -/
def State.engines (s : State) : List Owner :=
  (s.xfers.filter (fun t => t.accepted && !(t.op == 3 && t.level ≥ 1) && !s.still t.asid t.issuer)).map (fun t =>
    let r := (tensorOf t.dst.toNat).range
    { work := (0, t.id), order := t.order, asid := t.asid, lo := r.1, hi := r.2, owns := t.owns, late := false : Owner }) ++
  (s.colls.filter (fun o => o.accepted && !s.still o.asid o.issuer)).flatMap (fun o =>
    let d := tensorOf o.dst.toNat
    let of (lo hi : Int) : Owner := { work := (0, o.id), order := o.order, asid := o.asid, lo := lo, hi := hi, owns := o.owns, late := false }
    of d.range.1 d.range.2 :: (if d.idxp == 0 then [] else [of d.idxp (d.idxp + 8 * d.size 0)])) ++
  s.cores.flatMap (fun c => (c.2.fifo.filter (fun e => e.drains && (e.started || !s.frozen e.wave.team))).map (fun e =>
    { work := entryWork e.id, order := e.order, asid := asidOf e.wave, lo := (e.rows.1 : Int), hi := ((e.rows.1 + 32 * e.rows.2.1 + e.rows.2.2 : Nat) : Int), owns := e.owns, late := false : Owner })) ++
  s.ctxs.flatMap (fun c => if c.stopped then [] else (c.demands.filter (fun m => !m.ended)).map (fun m =>
    let d := tensorOf m.dst.toNat
    { work := (c.asid + 1, m.idx), order := m.order, asid := c.asid, lo := d.range.1, hi := d.range.2,
      owns := fun va n => (rowOrder d.sizes).any (d.touches va n), late := false : Owner }))

/-- Whether a piece of work stands still with its team or context. -/
def State.stillWork (s : State) (work : Nat × Nat) : Bool :=
  (work.1 == 0 && (s.xfers.any (fun t => t.id == work.2 && s.still t.asid t.issuer) || s.colls.any (fun o => o.id == work.2 && s.still o.asid o.issuer) ||
    s.csigs.any (fun g => g.id == work.2 && s.frozen g.wave.team) || s.reqs.any (fun r => r.id == work.2 && s.frozen r.wave.team))) ||
  (work.1 == (entryWork 0).1 && s.cores.any (fun c => c.2.fifo.any (fun e => e.id == work.2 && !e.started && s.frozen e.wave.team)))

/-- The accesses that an entry held, has released and are still to be performed (R320): they come before every later access of their lines
(log 111), which waits for them as for an engine. -/
def State.releases (s : State) : List Owner :=
  let at' (work : Nat × Nat) (order asid a : Nat) : Owner :=
    { work := work, order := order, asid := asid, lo := a, hi := a, owns := fun va n => (linesOf va n).contains (a / 128), late := true }
  (s.heldBytes.filter (fun h => h.held.isNone && !s.stillWork h.work)).filterMap (fun h => h.now.map (at' h.work h.order h.asid)) ++
    (s.waiting.filter (·.freed)).flatMap (fun r => r.spots.map (at' (recWork r.id) r.id (asidOf r.wave)))

/-- What bars a line: both. -/
def State.owners (s : State) : List Owner := s.engines ++ s.releases

/-- Whether an access that an entry has released, and that arrived before a part of some work, reads or writes bytes of a range (R320). -/
def State.behind (s : State) (work : Nat × Nat) (part asid va n : Nat) : Bool :=
  s.releases.any (fun o => o.work != work && o.order < s.stamp work part && o.asid == asid && (va : Int) ≤ o.lo && o.lo < (va : Int) + n)

/-- Whether work owns a line at one of some PAs (R257). -/
def State.ownsPa (s : State) (o : Owner) (pas : List Nat) : Bool :=
  match s.ctx? o.asid with
  | some c => !pas.isEmpty && (List.range ((o.hi / 65536 - o.lo / 65536).toNat + 1)).any (fun i =>
      let page := (o.lo / 65536).toNat * 65536 + i * 65536
      match s.xlate c none page 1 .read with
      | .ok base => pas.any (fun m => base ≤ m && m < base + 65536 && o.owns (page + (m - base)) 1)
      | _ => false)
  | none => false

/-- Whether work of another VA owns a line through the page that both map (R257, R258): lines are physical. -/
def State.aliased (s : State) (o : Owner) (asid va n : Nat) : Bool :=
  match s.ctx? asid with
  | some c => s.ownsPa o ((linesOf va n).filterMap (fun l => match s.xlate c none (128 * l) 1 .read with | .ok pa => some pa | _ => none))
  | none => false

/-- Whether an engine owns a line of a range of PA (R258). -/
def State.paOwned (s : State) (pa n : Nat) : Bool := s.owners.any (fun o => s.ownsPa o ((linesOf pa n).map (128 * ·)))

/-- Whether work of some kind owns a line of a range of a context's VA. -/
def State.ownedBy (s : State) (which : Owner → Bool) (asid va n : Nat) : Bool :=
  s.owners.any (fun o => which o && ((o.asid == asid && o.owns va n) || s.aliased o asid va n))

/-- Whether something bars some line of a range (R258, R320); whether something does that came before a part of some work, which an entry
that has held it has to wait for released accesses alone (log 111); or before a place in the order of acceptance. -/
def State.owned (s : State) (asid va n : Nat) : Bool := s.ownedBy (fun _ => true) asid va n
def State.ownedBut (s : State) (work : Nat × Nat) (part asid va n : Nat) : Bool :=
  s.ownedBy (fun o => o.work != work && (o.late || (s.freedOf work part).isEmpty) && o.order < s.stamp work part) asid va n
def State.ownedBefore (s : State) (work : Nat × Nat) (order asid va n : Nat) : Bool :=
  s.ownedBy (fun o => o.work != work && o.order < order) asid va n

end Sys2Proof.Machine
end

