-- ==== Sys2Proof/Machine/Fills.lean ====
section
/-!
DEFINITION. Event records and page requests (18 R356; 11 R236), the fields of launch records (18 R369), the creation of grids
(R29), and the fills of procedural blocks (11 R240 to R245) with those who wait on them.
-/
namespace Sys2Proof.Machine

/-- An event record (R356): kind, status, ASID, tag, bytes 8 to 15, and the payload from byte 16. -/
def mkRecord (kind status asid tag mid payload : Nat) : BitVec 512 :=
  BitVec.ofNat 512 (kind % 256 + status % 256 * 2 ^ 8 + asid % 2 ^ 11 * 2 ^ 16 + tag % 2 ^ 32 * 2 ^ 32
    + mid % 2 ^ 64 * 2 ^ 64 + payload * 2 ^ 128)

/-- Send an event record to the host (R356). -/
def State.emit (s : State) (r : BitVec 512) : State := { s with records := s.records ++ [r] }

/-- Ask the host for the 64 KiB range of a miss: one record per range and context while it is outstanding (R236). -/
def State.requestPage (s : State) (asid base : Nat) (write : Bool) : State :=
  match s.ctx? asid with
  | none => s
  | some c =>
    if c.pageReqs.contains base then s else
    (s.updCtx asid (fun c => { c with pageReqs := base :: c.pageReqs })).emit
      (mkRecord 3 0 asid 0 0 (base + (if write then 2 ^ 64 else 0)))

/-- A ring configuration word (R369). -/
def ringOfWord (k : Nat) : RingCfg :=
  { n := nfield k 4 0, prod := nfield k 7 5, p := nfield k 13 8, cons := nfield k 16 14, c := nfield k 22 17 }

/-- The fields of a launch record (R369). -/
def parseRec (r : Nat) : LaunchRec :=
  { kpc := BitVec.ofNat 64 r, hpc := BitVec.ofNat 64 (nfield r 127 64), arg := BitVec.ofNat 64 (nfield r 191 128),
    gx := nfield r 207 192, gy := nfield r 223 208, gz := nfield r 239 224, rf := nfield r 247 240,
    scr := nfield r 255 248, acc := nfield r 263 256, nregs := nfield r 280 272, ncopy := nfield r 286 281,
    nquad := nfield r 290 287, nvec := nfield r 296 291, ngen := nfield r 302 297, cor := r.testBit 303,
    prio := nfield r 311 304, dlvl := nfield r 314 312, width := nfield r 318 315, height := nfield r 321 319,
    twalk := r.testBit 322, rfirst := nfield r 415 384, rlast := nfield r 447 416,
    rings := (List.range 8).map (fun i => ringOfWord (nfield r (32 * i + 479) (32 * i + 448))),
    lpc := BitVec.ofNat 64 (nfield r 767 704) }

/-- Create a grid and name it by the context's next launch number (R29, R345). -/
def State.newGrid (s : State) (asid : Nat) (l : LaunchRec) (origin : Origin) (depth prio level : Nat) : GridId × State :=
  let n := match s.ctx? asid with | some c => c.lseq + 1 | none => 1
  let id : GridId := { asid := asid, lseq := n }
  let g : Grid :=
    { id := id, lrec := l, origin := origin, depth := depth, prio := prio, level := level, rect := none, placed := [],
      retired := [], left := [], gfin := false, gfail := false, faulted := false, endedBy := none,
      order := s.launches, merges := 0, heldLines := [], dropped := false }
  (id, { (s.updCtx asid (fun c => { c with lseq := n })) with
    grids := s.grids ++ [g]
    launches := s.launches + 1 })

/-- The waits of a run state end at a resolved miss (R44, R46): at once when a page of it is mapped (R236), and with blocks once no other
of its blocks is FILLING (R143). -/
def Run.resolve (hit filling : MissOn → Bool) (st : MissState) : Run → Run
  | .parked on va .waiting =>
    if !on.any hit then .parked on va .waiting else
    match st with
    | .failed c => .parked on va (.failed c)
    | _ =>
      if on.any (fun m => !hit m && filling m) && !on.any (fun m => hit m && match m with | .page _ => true | .block _ _ => false) then
        .parked on va .waiting
      else .parked on va .resolved
  | r => r

/-- Whether a run state waits on a miss; and whether it is parked on one, outstanding or over (R243, R245). -/
def Run.waitsOn (hit : MissOn → Bool) : Run → Bool
  | .parked on _ .waiting => on.any hit
  | _ => false
def Run.parkedOn (hit : MissOn → Bool) : Run → Bool
  | .parked on _ _ => on.any hit
  | _ => false

/-- Change a procedural range, or a block of one. -/
def Ctx.updProc (c : Ctx) (r : Nat) (f : ProcRange → ProcRange) : Ctx :=
  { c with procs := c.procs.map (fun p => if p.1 = r then (p.1, f p.2) else p) }
def Ctx.updBlock (c : Ctx) (r k : Nat) (f : Block → Block) : Ctx :=
  c.updProc r (fun p => { p with blocks := cellSet Block.empty p.blocks k (f (cellGet Block.empty p.blocks k)) })

/-- The range of a number, and a block of it. -/
def Ctx.proc? (c : Ctx) (r : Nat) : Option ProcRange := (c.procs.find? (fun p => p.1 == r)).map (·.2)
def Ctx.block (c : Ctx) (r k : Nat) : Block :=
  match c.proc? r with | some p => cellGet Block.empty p.blocks k | none => Block.empty

/-- Whether a miss is on a block of a range. -/
def onBlock (r k : Nat) : MissOn → Bool
  | .block r' k' => r' == r && k' == k
  | .page _ => false

/-- Whether a block is FILLING (R240). -/
def Ctx.fillingOn (c : Ctx) : MissOn → Bool
  | .block r k => (c.block r k).state == 1
  | .page _ => false

/-- Misses of a context end: parked threads become due to re-execute, or to receive the fault (R44, R46). -/
def State.resolve (s : State) (asid : Nat) (hit : MissOn → Bool) (st : MissState) : State :=
  let mine (w : Wave) : Bool := asidOf w.id == asid
  let filling := match s.ctx? asid with | some c => c.fillingOn | none => fun _ => false
  let now := (s.waves.filter mine).flatMap (fun w =>
    (w.lanes.filter (fun l => (w.thread l).run.waitsOn hit)).map (fun l => (w.id, l)))
  let s := { s with waves := s.waves.map (fun w => if mine w then
    w.updThreads w.lanes (fun _ t => { t with
      run := t.run.resolve hit filling st
      saved1 := t.saved1.resolve hit filling st
      saved2 := t.saved2.resolve hit filling st }) else w) }
  now.foldl (fun s p => s.pushDue (.parkedThreadReexecute p.1 p.2)) s

/-- Whether some thread, engine, command or write on the context's behalf is parked or held on a block (R243, R244): until it has made
its access again, a saved one too (R245). -/
def State.wanted (s : State) (asid r k : Nat) : Bool :=
  let hit := onBlock r k
  s.waves.any (fun w => asidOf w.id == asid && w.lanes.any (fun l =>
    (w.thread l).run.parkedOn hit || (w.thread l).saved1.parkedOn hit || (w.thread l).saved2.parkedOn hit)) ||
  s.stalls.any (fun h => h.asid == asid && h.range == r && h.idx == k)

/-- A fill that has ended is no longer what asked for the fills of other blocks (R242). -/
def Ctx.orphan (c : Ctx) (r k : Nat) : Ctx :=
  { c with procs := c.procs.map (fun p => (p.1, { p.2 with blocks := p.2.blocks.map (fun b =>
      (b.1, if b.2.parent = some (r, k) then { b.2 with parent := none } else b.2)) })) }

/-- The command processor maps a block's pages to a frame, writable and not executable, or makes them invalid with `RPL` 0 (R239, R244), in
the level 3 tables that the context has there (log 99); no TLB keeps what an entry was (R235). -/
def State.mapBlock (s : State) (asid r k : Nat) (frame : Option Nat) : State :=
  match (s.ctx? asid).bind (fun c => (c.proc? r).map (fun p => (c, p))) with
  | none => s
  | some (c, p) =>
    let sz := if p.big then 2 ^ 21 else 2 ^ 16
    let va := p.base + k * sz
    let s := { s with tlb := s.tlb.filter (fun e => e.asid != asid || e.table || e.va + 2 ^ pageBits e.level ≤ va || va + sz ≤ e.va) }
    (List.range (sz / 2 ^ 16)).foldl (fun s i => match s.entryPa (va + i * 2 ^ 16) 4 0 c.ptroot.toNat with
      | none => s
      | some a => s.storeBytes a (toBytes 8 (match frame with | some f => p.pool + f * sz + i * 2 ^ 16 + 7 | none => 0))) s

/-- A fill ends, or a block returns to EMPTY: its state changes, its requesters re-execute or receive a cause. -/
def State.blockEnd (s : State) (asid r k st : Nat) (frame : Option Nat) (miss : MissState) : State :=
  let (now, s) := s.newId
  let ended : MissState := match miss with | .failed c => .failed c | _ => .resolved
  let tell (h : Stall) : Stall := if h.asid = asid ∧ h.range = r ∧ h.idx = k ∧ h.st = .waiting then { h with st := ended } else h
  let s := { s with stalls := s.stalls.map tell }
  let s := if frame.isNone then s.mapBlock asid r k none else s
  (s.updCtx asid (fun c => (c.updBlock r k (fun b => { b with
    state := st
    frame := frame
    ended := now
    written := st == 2 && b.written
    parent := none })).orphan r k)).resolve asid (onBlock r k) miss

/-- Whether a wave issued a piece of work of a grid. -/
def Issuer.ofGrid (g : GridId) : Issuer → Bool
  | .wave w => w.team.grid == g
  | .node _ _ => false

/-- The merge area that a write set takes (R295). -/
def setSize (bytes : List (Nat × Byte)) : Nat := 16 * ((bytes.map (fun p => p.1 / 8)).eraseDups).length

/-- Give back what a grid holds of its context's merge area and spill area (R266, R295). -/
def State.freeAreas (s : State) (g : GridId) : State :=
  match s.grid? g with
  | none => s
  | some x =>
    let sets := x.left.map (·.bytes) ++ (s.teams.filter (fun t => t.id.grid == g)).map (·.wset)
    let spilled := (x.heldLines.map (fun p => 32 * (p.2 - 16))).sum
    s.updCtx g.asid (fun c => { c with
      mergeUsed := c.mergeUsed - (sets.map setSize).sum
      spillUsed := c.spillUsed - spilled })

/-- The names of works other than transfers, collectives, walks and conversions that a block may hold: the completion of a grid, the read of
the work and the completion of a graph node, a command, a status block, a combination, a drain. -/
def gridWork (g : GridId) : Nat × Nat := (4096 + g.asid, g.lseq)
def nodeWorkName (core slot : Nat) : Nat × Nat := (8192 + core, slot)
def nodeCompName (core slot : Nat) : Nat × Nat := (8192 + 64 + core, slot)
def cmdWork (asid queue : Nat) : Nat × Nat := (12288 + asid, queue)
def statusWork (asid nrec : Nat) : Nat × Nat := (16384 + asid, nrec)
def combineWork (asid entry : Nat) : Nat × Nat := (20480 + asid, entry)
def drainWork (g : GridId) : Nat × Nat := (24576 + g.asid, g.lseq)

/-- Remove a grid with its teams, waves and their work in flight (R242), but for the accesses that an entry which converts holds (R264) and
for matrix entries in progress, which complete (R348): for those their team and wave stay, the wave's threads ended, and go with the last
of them. The room it leaves is given anew (R279). DEDUCED (log 109): grids that it launched go on. DESIGN CHOICE (log 113): its write sets
and deferred updates are discarded. -/
def State.dropGrid (s : State) (g : GridId) : State :=
  let runs (t : TeamId) : Bool := t.grid == g && s.cores.any (fun p => p.2.fifo.any (fun e => e.started && e.wave.team == t))
  let strip (t : Team) : Team := if t.id.grid = g then { t with wset := [], wrep := [], updates := [], pending := [], owed := 0 } else t
  let still (w : Wave) : Wave :=
    if w.id.team.grid = g then { (w.updThreads w.lanes (fun _ t => { t with run := .ended, saved1 := .ended, saved2 := .ended })) with hold := none } else w
  let s := (s.freeAreas g).pushDue .teamPlacement
  let works := (s.xfers.filter (fun x => x.issuer.ofGrid g)).map (·.id) ++ (s.colls.filter (fun x => x.issuer.ofGrid g)).map (·.id) ++
    (s.csigs.filter (fun x => x.wave.team.grid == g)).map (·.id) ++ (s.reqs.filter (fun x => x.wave.team.grid == g)).map (·.id)
  { s with
    stalls := s.stalls.filter (fun h => !(h.work.1 == 0 && works.contains h.work.2) && h.work != gridWork g && h.work != drainWork g)
    heldBytes := s.heldBytes.filter (fun h => !(h.work.1 == 0 && works.contains h.work.2) && h.work != gridWork g && h.work != drainWork g &&
      !s.cores.any (fun p => p.2.fifo.any (fun e => e.wave.team.grid == g && !e.started && h.work == entryWork e.id)))
    xfers := s.xfers.filter (fun x => !x.issuer.ofGrid g)
    colls := s.colls.filter (fun x => !x.issuer.ofGrid g)
    csigs := s.csigs.filter (fun x => x.wave.team.grid != g)
    cores := s.cores.map (fun p => (p.1, { p.2 with fifo := p.2.fifo.filter (fun e => e.wave.team.grid != g || e.started) }))
    grids := if s.teams.any (fun t => runs t.id) then s.grids.map (fun x => if x.id = g then { x with dropped := true, left := [], heldLines := [] } else x)
      else s.grids.filter (fun x => x.id != g)
    teams := (s.teams.filter (fun x => x.id.grid != g || runs x.id)).map strip
    waves := (s.waves.filter (fun x => x.id.team.grid != g || runs x.id.team)).map still
    reqs := s.reqs.filter (fun x => x.wave.team.grid != g)
    waiting := s.waiting.filter (fun x => x.wave.team.grid != g || x.nums.length ≥ 4)
    updates := s.updates.filter (fun x => x.1 != g) }

/-- The chain of blocks from one up through the blocks whose generators asked for each; at most four are FILLING (R242). -/
def Ctx.chain (c : Ctx) : Nat → Option (Nat × Nat) → List (Nat × Nat)
  | 0, _ => []
  | _, none => []
  | n + 1, some b => b :: c.chain n (c.block b.1 b.2).parent

/-- Abandon a whole chain of fills (R242): its generators stop without an outcome, its blocks return to EMPTY, and every
requester receives `PROC_RECURSION`. -/
def State.abandon (s : State) (asid : Nat) (chain : List (Nat × Nat)) : State :=
  chain.foldl (fun s b =>
    let s := s.updCtx asid (fun c => c.updProc b.1 (fun p => { p with waiting := p.waiting.filter (fun q => q.1 != b.2) }))
    let s := (s.grids.filter (fun g => g.id.asid == asid && match g.origin with | .generator r k _ => r == b.1 && k == b.2 | _ => false)).foldl
      (fun s g => s.dropGrid g.id) s
    (s.blockEnd asid b.1 b.2 0 none (.failed cProcRecursion)).pushDue (.fillFrameAvailable asid b.1)) s

/-- The frames of a range's pool that no block holds, from the lowest number on, as far as some of `n` is beyond them. -/
def ProcRange.spare (r : ProcRange) (n : Nat) : List Nat :=
  (List.range (min r.nfrm (r.blocks.length + n + 1))).filter (fun f => !r.blocks.any (fun b => b.2.frame == some f))

/-- The physical pieces that accesses already translated have still to reach (R235, R244): those of matrix entries, and of accesses that an
entry which converts holds. -/
def State.promised (s : State) : List (Nat × Nat) :=
  s.cores.flatMap (fun k => k.2.fifo.flatMap (fun e => (e.dst ++ e.res).flatMap (·.2))) ++ s.waiting.flatMap (fun r => r.pas.map (fun a => (a, 1)))

/-- Whether an access already translated has still to reach a frame (R244). -/
def State.frameBusy (s : State) (r : ProcRange) (f : Nat) : Bool :=
  let sz := if r.big then 2 ^ 21 else 2 ^ 16
  s.promised.any (fun p => p.1 < r.pool + (f + 1) * sz && r.pool + f * sz < p.1 + p.2)

/-- The free frame of lowest number that can be taken (R244). -/
def State.freeFrame (s : State) (r : ProcRange) : Option Nat :=
  (r.spare s.promised.length).find? (fun f => !s.frameBusy r f)

/-- Start a block's generator grid on a frame (R241). -/
def State.generate (s : State) (asid r k frame prio : Nat) : State :=
  match (s.ctx? asid).bind (fun c => c.proc? r) with
  | none => s
  | some p =>
    let s := (s.updCtx asid (fun c => c.updBlock r k (fun b => { b with frame := some frame }))).mapBlock asid r k (some frame)
    let d := (cellGet Block.empty p.blocks k).depth
    (s.newGrid asid p.lrec (.generator r k d) 1 prio p.lrec.dlvl).2.pushDue .teamPlacement

/-- The block of a range that eviction takes (R244): FULL, not written, wanted by nobody, its fill ended earliest. -/
def State.evictable (s : State) (asid r : Nat) (p : ProcRange) : Option Nat :=
  ((p.blocks.filter (fun b => b.2.state == 2 && !b.2.written && !s.wanted asid r b.1)).foldl
    (fun (m : Option (Nat × Block)) b => match m with
      | none => some b
      | some a => if b.2.ended < a.2.ended then some b else some a) none).map (·.1)

/-- A fill takes a frame (R244): a free one, or that of the block evicted; or waits, for a frame that an access has still to reach or for
another fill; or ends FAILED. -/
def State.takeFrame (s : State) (asid r k prio : Nat) : State :=
  match (s.ctx? asid).bind (fun c => c.proc? r) with
  | none => s
  | some p =>
    let wait (s : State) : State := s.updCtx asid (fun c => c.updProc r (fun p => { p with waiting := p.waiting ++ [(k, prio)] }))
    match s.freeFrame p with
    | some f => s.generate asid r k f prio
    | none =>
      if !(p.spare s.promised.length).isEmpty then wait s else
      match s.evictable asid r p with
      | some e =>
        let s := (s.updCtx asid (fun c => c.updBlock r e (fun _ => Block.empty))).mapBlock asid r e none
        match ((s.ctx? asid).bind (fun c => c.proc? r)).bind s.freeFrame with
        | some f => s.generate asid r k f prio
        | none => wait s
      | none =>
        if p.blocks.any (fun b => b.2.state == 1 && b.2.frame.isSome) then wait s
        else s.blockEnd asid r k 3 none (.failed cGeneratorFault)

/-- An access meets a block that is EMPTY or FILLING (R240, R242): a fill starts or is joined, or the chain is abandoned.
`parent` is the block whose generator grid asks. -/
def State.wantBlock (s : State) (asid r k : Nat) (parent : Option (Nat × Nat)) (prio : Nat) : State :=
  match s.ctx? asid with
  | none => s
  | some c =>
    let b := c.block r k
    let chain := c.chain 5 parent
    if b.state == 1 then
      (if chain.contains (r, k) then s.abandon asid chain else s)
    else if b.state == 0 then
      let d := (match parent with | some q => (c.block q.1 q.2).depth | none => 0) + 1
      if d ≥ 5 then s.abandon asid chain else
      (s.updCtx asid (fun c => c.updBlock r k (fun b => { b with
        state := 1
        depth := d
        frame := none
        written := false
        parent := parent }))).takeFrame asid r k prio
    else s

/-- The block a wave's generator grid fills (R241). -/
def State.ownBlock (s : State) (g : GridId) : Option (Nat × Nat) :=
  match s.grid? g with
  | some g => match g.origin with | .generator r b _ => some (r, b) | _ => none
  | none => none

/-- The block that the generator grid of an issuer fills (R241). -/
def State.ownOf (s : State) (iss : Issuer) : Option (Nat × Nat) :=
  match iss with | .wave w => s.ownBlock w.team.grid | .node _ _ => none

/-- Start or join the fills, and make the page requests, that a grid's access misses on (R236, R240); a generator grid that an abandoned
chain has ended asks for no more (R242). -/
def State.askFor (s : State) (g : GridId) (write : Bool) (on : List MissOn) : State :=
  on.foldl (fun s m => match s.grid? g, m with
    | none, _ => s
    | some x, m => if x.dropped then s else match m with
      | .page b => s.requestPage g.asid b write
      | .block r k => s.wantBlock g.asid r k (s.ownBlock g) x.prio) s

/-- Forget on what a piece of work was held; and the cause that ended a hold of it, with the VA (R242, R244). -/
def State.unstall (s : State) (work : Nat × Nat) : State := { s with stalls := s.stalls.filter (fun h => h.work != work) }
def State.stallCause (s : State) (work : Nat × Nat) : Option (Nat × Nat) :=
  s.stalls.findSome? (fun h => if h.work == work then (match h.st with | .failed c => some (c, h.va) | _ => none) else none)

/-- Ask for what an engine's access misses on (R236, R240); the engine holds it and parks no thread. DESIGN CHOICE (log 107): a fill that
no grid asks for has priority 0. -/
def State.engAsk (s : State) (asid : Nat) (iss : Issuer) (write : Bool) (work : Option (Nat × Nat)) (ons : List (MissOn × Nat)) :
    State :=
  let s := match work with
    | none => s
    | some k => { s with stalls := s.stalls ++ ons.filterMap (fun p => match p.1 with
        | .block r b => some { asid := asid, work := k, range := r, idx := b, va := p.2, st := .waiting : Stall }
        | .page _ => none) }
  let on := (ons.map (·.1)).eraseDups
  match iss with
  | .wave w => s.askFor w.team.grid write on
  | .node _ _ => on.foldl (fun s m => match m with
    | .page b => s.requestPage asid b write
    | .block r k => s.wantBlock asid r k none 0) s

/-- Park threads of a wave on what their accesses miss (R44, R227): each lane with the VA of its access. -/
def State.park (s : State) (w : WaveId) (write : Bool) (ls : List (Nat × Nat × List MissOn)) : State :=
  let s := s.updWave w (fun w => ls.foldl (fun w p =>
    w.updThread p.1 (fun t => { t with run := .parked p.2.2 p.2.1 .waiting })) w)
  ls.foldl (fun s p => s.askFor w.team.grid write p.2.2) s

end Sys2Proof.Machine
end

