-- ==== Sys2Proof/Machine/Ops.lean ====
section
/-!
DEFINITION. Named operations of the machine: event records, page requests, the context status block, context kill, TAKING
AN EXCEPTION and returning from one (17_traps_preemption.md R331 to R346), causes delivered by engines, writes made on a
context's behalf (R238), and a team's view of memory at D2 and D3 (R295).
-/
namespace Sys2Proof.Machine

/-- The VA and value of a byte in a team's write set (R295). -/
def Team.written (t : Team) (va : Nat) : Option Byte := (t.wset.find? (fun p => p.1 == va)).map (·.2)

/-- A byte of global memory as a team sees it: at D2 and D3 its own latest write of the episode, else memory (R295). -/
def State.viewByte (s : State) (view : Option TeamId) (va pa : Nat) : Byte :=
  match view with
  | none => s.byteAt pa
  | some t => match (s.team? t).bind (fun x => x.written va) with
    | some b => b
    | none => s.byteAt pa

/-- `n` bytes at a VA whose pieces translate to the PAs given. -/
def State.viewBytes (s : State) (view : Option TeamId) (va : Nat) : List (Nat × Nat) → List Byte
  | [] => []
  | (pa, n) :: ps => (List.range n).map (fun i => s.viewByte view (va + i) (pa + i)) ++ s.viewBytes view (va + n) ps

/-- The name under which an unstated value of a wave's instruction is drawn: at D0 one that the clock makes, and from D1 on what the
program gives, so that a rerun and the other copy of a redundant team draw the same (R289, R299; log 115). -/
def State.freeKey (s : State) (w : WaveId) (timed : Nat) (given : List Nat) : Nat :=
  if s.levelOf w.team.grid = 0 then timed else (w.team.team :: w.wave :: given).foldl (fun k a => k * 2 ^ 512 + a % 2 ^ 512) 1

/-- The view of a wave's accesses: its team's at D2 and D3 (R295). -/
def State.viewOf (s : State) (w : WaveId) : Option TeamId := if s.levelOf w.team.grid ≥ 2 then some w.team else none

/-- The view of an issuer's accesses (R295). -/
def State.viewIss (s : State) (iss : Issuer) : Option TeamId :=
  match iss with | .wave w => s.viewOf w | .node _ _ => none

/-- The aligned 8-byte pieces of a range, and how many of them a write set does not hold yet (R295). -/
def newPieces (t : Team) (va n : Nat) : Nat :=
  ((List.range (ceilDiv (va % 8 + n) 8)).filter (fun k =>
    !t.wset.any (fun p => p.1 / 8 == va / 8 + k))).length

/-- A write at a VA in a view: into memory, or into the team's write set. `none` when the merge area is full (R295). -/
def State.viewWrite (s : State) (view : Option TeamId) (va : Nat) (pas : List (Nat × Nat)) (bs : List Byte) :
    Option State :=
  match view with
  | none => some (s.writePas pas bs)
  | some t =>
    match s.team? t, s.ctx? t.grid.asid with
    | some x, some c =>
      let more := 16 * newPieces x va bs.length
      if c.mergeUsed + more > c.mergeSz * 2 ^ 16 then none else
      let cells := (List.range bs.length).map (fun i => (va + i, bs.getD i 0))
      some ((s.updTeam t (fun x => { x with wset := cells.foldl (fun m p => cellInsert p.1 p.2 (cellErase m p.1)) x.wset })).updCtx
        t.grid.asid (fun c => { c with mergeUsed := c.mergeUsed + more }))
    | _, _ => some s

/-- How a write on a context's behalf ended. -/
inductive Behalf where
  | made (s : State)
  | heldOn (s : State) (on : List MissOn)
  | failed (s : State) (cause va : Nat)

/-- Whether a view holds every byte of a range as the team's own writes (R295). -/
def State.ownBytes (s : State) (view : Option TeamId) (va n : Nat) : Bool :=
  (view.bind s.team?).any (fun t => (List.range n).all (fun i => (t.written (va + i)).isSome))

/-- How several accesses translate together (R226): the fault of the earliest step, else what they miss on. -/
def XAll.join : XAll → XAll → XAll
  | .fault a c v, .fault b c' v' => if a ≤ b then .fault a c v else .fault b c' v'
  | .fault a c v, _ => .fault a c v
  | _, .fault b c v => .fault b c v
  | .ok l, .ok m => .ok (l ++ m)
  | .ok _, .wait on => .wait on
  | .wait on, .ok _ => .wait on
  | .wait on, .wait ons => .wait (on ++ ons)

/-- The pieces of an access that translates. -/
def XAll.pas : XAll → List (Nat × Nat)
  | .ok l => l
  | _ => []

/-- Write bytes over several accesses, each a VA and a length with its translation, in a view. -/
def State.viewPut (s : State) (view : Option TeamId) : List ((Nat × Nat) × XAll) → List Byte → Option State
  | [], _ => some s
  | x :: xs, bs => (s.viewWrite view x.1.1 x.2.pas (bs.take x.1.2)).bind (fun s => s.viewPut view xs (bs.drop x.1.2))

/-- Perform a store, or an `ATOM.ADD` to an 8-byte object when `add`, at a VA of a context for a piece of work (R238, R261): checked like
a store (R226, R317), held on misses, on lines that other work owns (R258) and on an entry that converts (R320; log 83), after which it
goes to the place where its element then is. -/
def State.behalf (s : State) (asid : Nat) (iss : Issuer) (work : Nat × Nat) (view : Option TeamId) (va : Nat) (add : Bool)
    (bs : List Byte) : Behalf :=
  match s.ctx? asid with
  | none => .made s
  | some c =>
    match s.stallCause work with
    | some (cause, v) => .failed (s.unstall work) cause v
    | none =>
      let s := s.unstall work
      let own := s.ownOf iss
      let p := s.placesOf work partAct
      let xs := (p.spread va bs.length).map (fun q => (q, s.xlateAll c own q.1 q.2 .write))
      match p.lost va bs.length, xs.foldr (fun x r => x.2.join r) (.ok []) with
      | some v, _ => .failed (s.dropPart work partAct) cPlacement v
      | none, .fault _ cause v => .failed ((if cause == cMachineCheck then s.logVa asid v else s).dropPart work partAct) cause v
      | none, .wait on => .heldOn (s.engAsk asid iss true (some work) (on.map (fun m => (m, va)))) on
      | none, .ok pas =>
        if xs.any (fun x => c.needsMcst x.1.1 x.1.2) then .failed (s.dropPart work partAct) cPlacement va
        else if xs.any (fun x => s.ownedBut work partAct asid x.1.1 x.1.2) then .heldOn s []
        else if xs.any (fun x => ((s.viaCtx c work partAct x.1.1).converting x.1.1 x.1.2).isSome) then .heldOn (s.holdBytes c work partAct [(va, bs.length)]) []
        else
          let bad :=
            if add then (if xs.all (fun x => s.ownBytes view x.1.1 x.1.2) then none else s.badPas pas)
            else if view.isSome then none else pas.findSome? (fun p => s.partialRetired p.1 p.2)
          match bad with
          | some pa => .failed ((s.logBad pa).dropPart work partAct) cMachineCheck va
          | none =>
            let old := ofBytes (xs.flatMap (fun x => s.viewBytes view x.1.1 x.2.pas))
            let bs := if add then toBytes bs.length ((old + ofBytes bs) % 2 ^ (8 * bs.length)) else bs
            match s.viewPut view xs bs with
            | none => .failed (s.dropPart work partAct) cNondeterministic va
            | some s => .made ((s.updCtx asid (fun c => xs.foldl (fun c x => c.markWritten own x.1.1 x.1.2) c)).dropPart work partAct)

/-- The completion increment of R201 and R261 at an object, 0 for none; it comes after the work's requests at the pseudo-channels, whose
misses are counted then (R217). -/
def State.increment (s : State) (asid : Nat) (iss : Issuer) (work : Nat × Nat) (view : Option TeamId) (obj amount : Nat) : Behalf :=
  if obj == 0 then .made s else if s.atChannel (.work work) then .heldOn s [] else s.behalf asid iss work view obj true (toBytes 8 amount)

/-- What a record of the context status block names (R345). -/
structure StatusRec where
  c1 : Nat
  c2 : Nat
  c3 : Nat
  a1 : Nat
  a2 : Nat
  a3 : Nat
  pc : Nat
  team : Nat
  wave : Nat
  lseq : Nat
  deriving DecidableEq, Repr

/-- A record of one cause that belongs to no wave (R238). -/
def StatusRec.plain (cause va lseq : Nat) : StatusRec :=
  { c1 := cause, c2 := 0, c3 := 0, a1 := va, a2 := 0, a3 := 0, pc := 0, team := 0, wave := 0xFF, lseq := lseq }

/-- The context status block (R345). -/
def statusBlock (r : StatusRec) (nrec kcause st : Nat) : Nat :=
  st % 256 + kcause % 256 * 2 ^ 8 + nrec % 2 ^ 64 * 2 ^ 64 + r.lseq % 2 ^ 32 * 2 ^ 160 + r.c1 % 256 * 2 ^ 192
    + r.c2 % 256 * 2 ^ 200 + r.c3 % 256 * 2 ^ 208 + r.wave % 256 * 2 ^ 216 + r.team % 2 ^ 32 * 2 ^ 224
    + r.pc % 2 ^ 64 * 2 ^ 256 + r.a1 % 2 ^ 64 * 2 ^ 320 + r.a2 % 2 ^ 64 * 2 ^ 384 + r.a3 % 2 ^ 64 * 2 ^ 448

/-- The completion record of a command (R356). -/
def State.completeCmd (s : State) (h : CmdHeader) (asid status value : Nat) : State :=
  s.emit (mkRecord 1 status asid h.tag.toNat 0 (value % 2 ^ 64))

/-- Complete every running command of a context with STATUS 3 (R346). -/
def State.abortRunning (s : State) (c : Ctx) : State :=
  let s := c.running.foldl (fun s p => s.completeCmd p.2.h c.asid 3 0) s
  s.updCtx c.asid (fun c => { c with
    running := []
    qdone := c.running.foldl (fun d p => cellSet 0 d p.1 (cellGet 0 d p.1 + 1)) c.qdone })

/-- The effects of R346 apart from the status block: engines stop at their boundaries, their work, conversions and deferred work are
discarded; a matrix entry in progress completes, and what converting entries held is performed (R264). -/
def State.stopContext (s : State) (asid : Nat) : State :=
  match s.ctx? asid with
  | none => s
  | some c =>
    let mine (w : WaveId) : Bool := w.team.grid.asid == asid
    let s := s.abortRunning c
    let held := s.waiting.filter (fun x => mine x.wave && x.nums.length ≥ 4)
    let s := s.updCtx asid (fun c => { c with
      killed := true
      stopped := false
      acks := []
      demands := []
      place := c.place.map (fun p => (p.1, p.2 &&& ~~~(1#512 <<< 305))) })
    let s := (held.map (fun x => x.nums.headD 0)).eraseDups.foldl (fun s k => s.pushDue (.conversionEnd asid k)) s
    { s with
        reqs := s.reqs.filter (fun r => !mine r.wave),
        waiting := s.waiting.filter (fun x => !mine x.wave || x.nums.length ≥ 4),
        xfers := s.xfers.filter (fun x => x.asid != asid),
        csigs := s.csigs.filter (fun x => !mine x.wave),
        colls := s.colls.filter (fun x => x.asid != asid),
        updates := s.updates.filter (fun u => u.1.asid != asid),
        stalls := s.stalls.filter (fun h => h.asid != asid),
        heldBytes := s.heldBytes.filter (fun h => h.asid != asid || s.cores.any (fun p => p.2.fifo.any (fun e => e.started && h.work == entryWork e.id))),
        cores := s.cores.map (fun p => (p.1, { p.2 with fifo := p.2.fifo.filter (fun e => !mine e.wave || e.started) })),
        teams := s.teams.map (fun t => if t.id.grid.asid == asid then { t with wset := [], updates := [], pending := [], owed := 0 } else t) }

/-- The record of `KIND` 2 that tells the host of a write of a status block, or of its failure (R356). -/
def statusNote (h : HeldWrite) (st kcause cause va : Nat) : BitVec 512 :=
  mkRecord 2 0 h.asid 0 0 (h.nrec % 2 ^ 64 + cause * 2 ^ 64 + st * 2 ^ 72 + kcause * 2 ^ 80 + va % 2 ^ 64 * 2 ^ 128)

/-- The write of a status block is made, held until its page is mapped, or fails, which kills the context (R238). -/
def State.putStatus (s : State) (h : HeldWrite) : State :=
  match s.behalf h.asid (.node 0 0) (statusWork h.asid h.nrec) none h.va false h.bytes with
  | .made s => s.emit (statusNote h h.st h.kcause 0 0)
  | .heldOn s _ => { s with held := s.held ++ [h] }
  | .failed s cause va =>
    let s := s.emit (statusNote h h.st h.kcause cause va)
    match s.ctx? h.asid with
    | none => s
    | some c => if c.stState == 2 then s else (s.stopContext h.asid).updCtx h.asid (fun c => { c with stState := 2, kcause := cause })

/-- Write a record of the context status block (R345): the state and kill cause it reports come with it. -/
def State.writeStatus (s : State) (asid : Nat) (r : StatusRec) (st kcause : Nat) : State :=
  match s.ctx? asid with
  | none => s
  | some c =>
    if c.stState == 2 then s else
    (s.updCtx asid (fun c => { c with nrec := c.nrec + 1, stState := st, kcause := kcause })).putStatus
      { asid := asid, va := c.statusVa, bytes := toBytes 64 (statusBlock r (c.nrec + 1) kcause st), nrec := c.nrec + 1, st := st,
        kcause := kcause }

/-- Kill a context (R346), its status block telling the causes. -/
def State.killCtx (s : State) (asid kcause : Nat) (r : StatusRec) : State :=
  match s.ctx? asid with
  | none => s
  | some c => if c.killed then s else (s.writeStatus asid r 2 kcause).stopContext asid

/-- The PC of the lowest lane of a mask, 0 for the empty mask. -/
def pcOfMask (w : Wave) (m : LaneMask) (f : Thread → DWord) : Nat :=
  match lanesOf m with
  | [] => 0
  | l :: _ => (f (w.thread l)).toNat

/-- The PC that the status block gives a cause (R345): that of the lowest lane of its mask, 0 for kind E. `WATCHDOG`, of kind T, is the
one cause of no instruction with a mask (R331). -/
def causePc (w : Wave) (eng : Bool) (cause : Nat) (m : LaneMask) (f : Thread → DWord) : Nat :=
  if eng && cause != cWatchdog then 0 else pcOfMask w m f

/-- A wave stops in a halt and writes `TSKID` (R334, R335). -/
def Wave.stopSkid (w : Wave) (count : Nat) : Wave :=
  { w with halt := .stopped, tskid := BitVec.ofNat 64 (count * 2 ^ 60 + w.bpc.toNat % 2 ^ 56) }

/-- The halt reaches a wave (R334): an active wave or a lead thread may skid, a wave in the paddock stops at once. -/
def Wave.haltBy (w : Wave) : Wave := if w.active || w.isLead then { w with halt := .skid 0 } else w.stopSkid 0

/-- A halt of a team for one of its waves reaches another: a team that runs is halted now, and in one that is halted already the wave
stands still, the one that ran the handler too (R334, R343). -/
def Wave.haltIn (w : Wave) (halted : Bool) : Wave :=
  if !halted then w.haltBy else match w.halt with | .running => w.stopSkid 0 | _ => w

/-- The handler entry of R338 in the trapping wave: the bank of the next level, the run states, the PCs. A later return to the entry of
the kernel is exempt from its `TGT` check (R71). -/
def Wave.enter (w : Wave) (cause : Nat) (eng : Bool) (mask : LaneMask) (addr : Nat) : Wave :=
  let b : Bank := { cause := cause, eng := eng, addr := BitVec.ofNat 64 addr, mask := mask }
  let first := w.tlevel == 0
  let w := w.updThreads w.lanes (fun l t =>
    let t := if first then { t with tret1 := t.pc, saved1 := t.run } else { t with tret2 := t.pc, saved2 := t.run }
    { t with run := .ready, pc := w.handler, loop := [], seen := if mask.getLsbD l then [] else t.seen })
  let w := if first then { w with bank1 := b, fair1 := w.fair } else { w with bank2 := b, fair2 := w.fair }
  { w with tlevel := w.tlevel + 1, fair := 0, bpc := w.handler, firstFetch := true, entry := false, hold := none,
           tskid := 0, halt := .running }

/-- TAKING AN EXCEPTION in a wave (R334, R337, R338, R341): the team halts and the wave enters its handler; without a
handler, or beyond level 2, the context is killed. -/
def State.takeTrap (s : State) (wid : WaveId) (cause : Nat) (eng : Bool) (mask : LaneMask) (addr : Nat) : State :=
  match s.wave? wid with
  | none => s
  | some w =>
    let here : StatusRec :=
      { c1 := cause, c2 := 0, c3 := 0, a1 := addr, a2 := 0, a3 := 0,
        pc := causePc w eng cause mask Thread.pc, team := wid.team.team, wave := wid.wave,
        lseq := wid.team.grid.lseq }
    if w.tlevel ≥ 2 then
      s.killCtx (asidOf wid) cTrapOverflow
        { here with c1 := w.bank1.cause, c2 := w.bank2.cause, c3 := cause, a1 := w.bank1.addr.toNat,
                    a2 := w.bank2.addr.toNat, a3 := addr,
                    pc := causePc w w.bank1.eng w.bank1.cause w.bank1.mask Thread.tret1 }
    else if w.handler = 0 then s.killCtx (asidOf wid) cause here
    else
      let before := match s.team? wid.team with | some t => t.halted.isSome | none => false
      let s := if w.tlevel = 0 then
          { s.updTeam wid.team (fun t => { t with halted := some wid.wave }) with
            waves := s.waves.map (fun x => if x.id.team = wid.team ∧ x.id ≠ wid then x.haltIn before else x) }
        else s
      ({ s with waiting := s.waiting.filter (fun x => x.wave ≠ wid || x.nums.length ≥ 4) } : State).updWave wid (fun w =>
        w.enter cause eng mask addr)

/-- Raise a precise cause in the issuing group (R334, R335): a wave in its skid stops at the instruction instead and
raises nothing. -/
def State.raisePrecise (s : State) (wid : WaveId) (cause : Nat) (mask : LaneMask) (addr : Nat) : State :=
  match s.wave? wid with
  | none => s
  | some w =>
    match w.halt with
    | .skid n =>
      ({ s with waiting := s.waiting.filter (fun x => x.wave ≠ wid || x.nums.length ≥ 4) } : State).updWave wid (fun w =>
        { w.stopSkid n with hold := none })
    | _ => s.takeTrap wid cause false mask addr

/-- The wave a kind E or T cause goes to (R333): the one named while it lives, the lowest live wave, the lead thread. -/
def State.causeTarget (s : State) (t : TeamId) (named : Option Nat) : Option WaveId :=
  let live (k : Nat) : Bool := match s.wave? { team := t, wave := k } with | some w => !w.live.isEmpty | none => false
  let pick := match named with | some k => if live k then some k else none | none => none
  match pick with
  | some k => some { team := t, wave := k }
  | none => ((List.range 33).find? live).map (fun k => { team := t, wave := k })

/-- Deliver a team's next pending cause (R333, R343). With no wave left it goes to the status block and the grid ends by a
fault. -/
def State.deliverPending (s : State) (t : TeamId) : State :=
  match s.team? t with
  | none => s
  | some x =>
    match x.pending with
    | [] => s
    | p :: ps =>
      let s := s.updTeam t (fun x => { x with pending := ps })
      match s.causeTarget t p.wave with
      | some wid => s.takeTrap wid p.cause true p.mask p.addr
      | none =>
        (s.updGrid t.grid (fun g => { g with faulted := true })).writeStatus t.grid.asid
          { StatusRec.plain p.cause p.addr t.grid.lseq with team := t.team, wave := 0xFF } 1 0

/-- A kind E or T cause reaches a team: it joins the pending list and is delivered at the end of the core's clock, after the precise
causes of that clock, or after the halt (R333). The list holds 16 causes that wait, beside the one that a running team takes next, which
it has taken when more come; a further one kills the context. -/
def State.postCause (s : State) (t : TeamId) (named : Option Nat) (cause addr : Nat) (mask : LaneMask) : State :=
  let stands (x : Team) : Bool := x.halted.isSome || x.away
  let s := if (s.team? t).any (fun x => !stands x && x.pending.length ≥ 17) then s.deliverPending t else s
  match s.team? t, s.ctx? t.grid.asid with
  | some x, some c =>
    if c.killed then s
    else if x.pending.length ≥ (if stands x then 16 else 17) then
      s.killCtx t.grid.asid cTrapOverflow
        { StatusRec.plain cause addr t.grid.lseq with team := t.team, wave := named.getD 0xFF }
    else
      s.updTeam t (fun x => { x with pending := x.pending ++ [{ wave := named, cause := cause, addr := addr, mask := mask }] })
  | _, _ => s

/-- A write that an engine made once for both copies of a redundant team enters the other copy's write set too, whole or, where the area
cannot hold it, not at all (R295, R301, R313). -/
def State.mirror (s : State) (iss : Issuer) (va n : Nat) : State :=
  match iss with
  | .node _ _ => s
  | .wave w =>
    let twin : TeamId := { w.team with copy := 1 - w.team.copy }
    match s.team? w.team, s.team? twin with
    | some t, some _ =>
      let mine := (List.range n).filterMap (fun i => t.written (va + i))
      if !t.red || va == 0 || mine.length != n then s else
      match s.viewWrite (some twin) va [] mine with
      | some s => s
      | none => s.postCause twin (some w.wave) cNondeterministic va 0
    | _, _ => s

/-- A kind E or T cause of a team, which may have retired: then it goes to the status block and the grid ends by a fault
(R30, R333). -/
def State.teamCause (s : State) (t : TeamId) (cause addr : Nat) : State :=
  if (s.team? t).isSome then s.postCause t none cause addr 0 else
  (s.updGrid t.grid (fun g => { g with faulted := true })).writeStatus t.grid.asid
    { StatusRec.plain cause addr t.grid.lseq with team := t.team } 1 0

/-- RETURN FROM AN EXCEPTION (R343, R415): the wave goes back one level. A thread that ended in the handler stays ended,
and a parked thread whose miss resolved returns ready. At level 0 the next pending cause is delivered, or the halt ends. -/
def Wave.leave (w : Wave) : Wave :=
  let lvl2 := w.tlevel == 2
  let w := w.updThreads w.lanes (fun _ t =>
    let saved := if lvl2 then t.saved2 else t.saved1
    let back := match saved with | .parked _ _ .resolved => Run.ready | r => r
    let pc := if lvl2 then t.tret2 else t.tret1
    { t with pc := pc, run := if t.run = .ended then .ended else back, loop := [],
             seen := if lvl2 then t.seen else t.seen.filter (fun b => b.1 == pc) })
  { w with tlevel := w.tlevel - 1, fair := if lvl2 then w.fair2 else w.fair1, firstFetch := false,
           bpc := match w.live with | l :: _ => (w.thread l).pc | [] => w.bpc }

/-- The lanes of a wave that are parked on misses that are over. -/
def Wave.overdue (w : Wave) : List Nat :=
  w.lanes.filter (fun l => match (w.thread l).run with | .parked _ _ .waiting => false | .parked _ _ _ => true | _ => false)

/-- Parked threads of a team whose misses ended while it stood still are due to re-execute (R245, R336). -/
def State.wake (s : State) (t : TeamId) : State :=
  (s.wavesOf t).foldl (fun s w => w.overdue.foldl (fun s l => s.pushDue (.parkedThreadReexecute w.id l)) s) s

/-- Release the halt of a team: every stopped wave issues from its saved PCs (R343); one that has not issued its last skid instruction
stops with those it has (R334). -/
def State.releaseHalt (s : State) (t : TeamId) : State :=
  let go (w : Wave) : Wave := { (match w.halt with | .skid n => w.stopSkid n | _ => w) with halt := .running }
  ({ s.updTeam t (fun x => { x with halted := none }) with
    waves := s.waves.map (fun x => if x.id.team = t then go x else x) } : State).wake t

/-- R343 in the whole: the handler wave returns; at level 0 the next cause is delivered before any wave issues, or else
the halt is released. -/
def State.returnTrap (s : State) (wid : WaveId) : State :=
  let s := s.updWave wid Wave.leave
  match s.wave? wid, s.team? wid.team with
  | some w, some t =>
    if w.tlevel ≠ 0 then s
    else if t.pending.isEmpty then s.releaseHalt wid.team
    else s.deliverPending wid.team
  | _, _ => s


/-- Try again the status blocks held, oldest first, after the pages of a context changed (R236, R238). -/
def State.retryStatus (s : State) (asid : Nat) : State :=
  let mine := s.held.filter (fun h => h.asid == asid)
  mine.foldl State.putStatus { s with held := s.held.filter (fun h => h.asid != asid) }

end Sys2Proof.Machine
end

