-- ==== Sys2Proof/Machine/Launch.lean ====
section
/-!
DEFINITION. Launch records and their refusal (18_host_security_power.md R369; 10 R203, R204), the creation of grids (R29),
room on cores and the placement of teams and waves (13_scheduling.md R279 to R281), and the fills of procedural blocks
(11 R240 to R244).
-/
namespace Sys2Proof.Machine

/-- Teams of a grid (R26). -/
def LaunchRec.teams (l : LaunchRec) : Nat := l.gx * l.gy * l.gz

/-- Waves of a team. -/
def LaunchRec.waves (l : LaunchRec) : Nat := l.ncopy + 4 * l.nquad + l.nvec + l.ngen

/-- The role of the wave of an index (R27). -/
def LaunchRec.role (l : LaunchRec) (k : Nat) : Role :=
  if k < l.ncopy then .copy else if k < l.ncopy + 4 * l.nquad then .matrix
  else if k < l.ncopy + 4 * l.nquad + l.nvec then .vector else .general

/-- The bay of the wave of an index (R281). -/
def LaunchRec.bay (l : LaunchRec) (k : Nat) : Nat :=
  if k < l.ncopy then k % 4 else if k < l.ncopy + 4 * l.nquad then (k - l.ncopy) % 4 else (k - 4 * l.nquad) % 4

/-- How many waves of a role code of R369 a team has (R51). -/
def LaunchRec.countOf (l : LaunchRec) (role : Nat) : Nat :=
  match role with
  | 0 => l.ncopy
  | 1 => 4 * l.nquad
  | 2 => l.nvec
  | 3 => l.ngen
  | 4 => if l.lpc = 0 then 0 else 1
  | _ => 0

/-- Whether the first check of R69 rejects a PC: bits [5:3], or a slot of 5 to 7. -/
def pcShapeBad (pc : Nat) : Bool := nfield pc 5 3 != 0 || pc % 8 > 4

/-- Whether R69 rejects a PC. -/
def pcBad (pc : Nat) : Bool := pcShapeBad pc || pc ≥ 2 ^ 56

/-- The cores of a rectangle with its top-left corner at a core, by ascending index (R8); `none` outside the mesh. -/
def rectCores (corner w h : Nat) : Option (List Nat) :=
  if corner < 48 && corner % 8 + w ≤ 8 && corner / 8 + h ≤ 6 then
    some ((List.range h).flatMap (fun y => (List.range w).map (fun x => corner + 8 * y + x)))
  else none

/-- What a core has free for teams (R280): granules of every bay, the lead thread, the weight slots, wave places by bay. -/
structure Room where
  gran : Nat
  lead : Bool
  quads : Bool
  places : List Nat
  deriving DecidableEq, Repr

/-- An empty core. -/
def Room.whole : Room := { gran := 24, lead := true, quads := true, places := [48, 48, 48, 48] }

/-- Waves of a team in a bay. -/
def LaunchRec.inBay (l : LaunchRec) (b : Nat) : Nat := ((List.range l.waves).filter (fun k => l.bay k == b)).length

/-- Whether what a pre-emption frees of a team fits: granules, lead thread, weight slots (R12, R172, R204, R288). -/
def Room.fitsBack (r : Room) (l : LaunchRec) : Bool :=
  l.rf + l.scr + l.acc ≤ r.gran && (l.lpc == 0 || r.lead) && (l.nquad == 0 || r.quads)

/-- Whether a team fits (R204, R12, R172, R280). -/
def Room.fits (r : Room) (l : LaunchRec) : Bool :=
  r.fitsBack l && (List.range 4).all (fun b => l.inBay b ≤ r.places.getD b 0)

/-- What is left when a team is placed. -/
def Room.take (r : Room) (l : LaunchRec) : Room :=
  { gran := r.gran - (l.rf + l.scr + l.acc), lead := r.lead && l.lpc == 0, quads := r.quads && l.nquad == 0,
    places := (List.range 4).map (fun b => r.places.getD b 0 - l.inBay b) }

/-- What is left beside a saved team: its waves keep their places (R339). -/
def Room.takePlaces (r : Room) (l : LaunchRec) : Room :=
  { r with places := (List.range 4).map (fun b => r.places.getD b 0 - l.inBay b) }

/-- Whether a context is being stopped: not every unit has acknowledged (R349). -/
def State.stopping (s : State) (asid : Nat) : Bool :=
  match s.ctx? asid with | some c => c.stopped && !c.acks.isEmpty | none => false

/-- What a core has free now: every team resident on it counted out, a saved one once its stop is complete (R204, R288, R349). -/
def State.roomOn (s : State) (core : Nat) : Room :=
  s.teams.foldl (fun r t =>
    if t.core == core then
      match s.grid? t.id.grid with
      | some g => if t.away && !s.stopping t.id.grid.asid then r.takePlaces g.lrec else r.take g.lrec
      | none => r
    else r) Room.whole

/-- Whether `n` more teams of a kind fit on some rooms, each on the first that takes it; `two` asks two rooms for each. -/
def fitTeams (l : LaunchRec) : List Bool → List Room → Bool
  | [], _ => true
  | two :: ts, rs =>
    match (List.range rs.length).filter (fun i => (rs.getD i Room.whole).fits l) with
    | [] => false
    | i :: js =>
      if two then
        match js with
        | [] => false
        | j :: _ => fitTeams l ts ((rs.set i ((rs.getD i Room.whole).take l)).set j ((rs.getD j Room.whole).take l))
      else fitTeams l ts (rs.set i ((rs.getD i Room.whole).take l))

/-- Whether a team is flagged for redundant execution (R299). -/
def flagged (l : LaunchRec) (level team : Nat) : Bool := level == 3 && l.rfirst ≤ team && team ≤ l.rlast

/-- The flags of the teams of a grid, in order. A co-resident grid has at most 48 × 48 teams (R280), so no more are asked. -/
def LaunchRec.flags (l : LaunchRec) (level : Nat) : List Bool := (List.range (min l.teams 4608)).map (flagged l level)

/-- Whether a launch record is refused for a grid of a level (R369, and R31, R51, R204, R290, R294 and R299, which it
names). `useLevel` is false where the level field is not used (R441, R321). -/
def recRefused (r : Nat) (level : Nat) (useLevel : Bool) : Bool :=
  let l := parseRec r
  let badRing (c : RingCfg) (word : Nat) : Bool :=
    nfield word 31 23 != 0 || c.n > 16 ||
      c.p > l.countOf c.prod || c.c > l.countOf c.cons || (c.n > 0 && (c.prod == 3 || c.prod > 4 || c.cons == 3 || c.cons > 4))
  nfield r 1023 768 != 0 || nfield r 383 323 != 0 || nfield r 271 264 != 0
    || l.gx == 0 || l.gy == 0 || l.gz == 0 || l.teams ≥ 2 ^ 32
    || l.nregs == 0 || l.nregs > 320 || l.nquad > 8 || l.width == 0 || l.width > 8 || l.height == 0 || l.height > 6
    || l.waves == 0 || l.waves > 32
    || pcBad l.kpc.toNat || (l.lpc != 0 && pcBad l.lpc.toNat)
    || (List.range 8).any (fun i => badRing (l.rings.getD i (ringOfWord 0)) (nfield r (32 * i + 479) (32 * i + 448)))
    || l.rf + l.scr + l.acc > 24 || l.rf * 65536 < l.nregs * 128 || (l.nquad != 0 && l.acc == 0)
    || (useLevel && 4 ≤ l.dlvl && l.dlvl ≤ 6)
    || (l.twalk && !(l.cor && l.teams == l.width * l.height))
    || (level == 3 && l.rfirst ≤ l.rlast && (l.rlast ≥ l.teams || l.width * l.height == 1))
    || (l.cor && (l.teams > 2304 || !fitTeams l (l.flags level) (List.replicate (l.width * l.height) Room.whole)))

/-- Invalidate the instruction caches of some cores, with the loop buffers of their waves (R38, R209). -/
def State.dropCode (s : State) (cores : List Nat) : State :=
  let s := cores.foldl (fun s c => s.updCore c (fun k => { k with icache := [] })) s
  { s with waves := s.waves.map (fun w => if cores.contains w.core then w.updThreads w.lanes (fun _ t => { t with loop := [] }) else w) }

/-- The S registers at launch (R90, R241, R326, R369). -/
def startS (l : LaunchRec) (o : Origin) (procs : List (Nat × ProcRange)) : List (Nat × DWord) :=
  let vals : List Nat := match o with
    | .generator r b d =>
      let base := match procs.find? (fun p => p.1 == r) with
        | some p => p.2.base + b * (if p.2.big then 2 ^ 21 else 2 ^ 16)
        | none => 0
      [base, b, r, d]
    | .firing e n batch => [e, batch.length, n]
    | _ => [l.arg.toNat]
  cellSets 0 [] ((List.range vals.length).map (fun i => (i, BitVec.ofNat 64 (vals.getD i 0))))

/-- A wave as it starts (R26, R90, R122, R134, R215, R274, R291, R337): a lead thread is wave 32 with lane 0 alone. -/
def newWave (l : LaunchRec) (o : Origin) (procs : List (Nat × ProcRange)) (id : WaveId) (core bay place prio : Nat)
    (resident : Bool) : Wave :=
  let lead := id.wave == 32
  let pc := if lead then l.lpc else l.kpc
  let lanes := if lead then [0] else List.range 32
  { id := id, role := if lead then .lead else l.role id.wave, core := core, bay := bay, place := place,
    nregs := if lead then 0 else l.nregs, bpc := pc, fair := 0, fair1 := 0, fair2 := 0, s := startS l o procs, v := [],
    empties := [], failed := [], badRegs := [], threads := lanes.map (fun k => (k, { Thread.none with pc := pc, run := .ready, idle := 1 })),
    flags := 0, srkey := 0, wlrange := 0x444F800043B40000, dslack := 0x4000100002000100, prioGrid := prio,
    prioLevel := prio, prioUse := prio, handler := l.hpc.extractLsb' 0 56 |>.setWidth 64, tlevel := 0, tskid := 0, bank1 := Bank.zero, bank2 := Bank.zero, joins := [],
    ring := [], decPos := 0, active := false, age := 0, blockedFor := 0, yielded := 0, resident := resident,
    moves := [], saver := none, halt := .running, firstFetch := false, entry := true, hold := none, issued := false, others := 0 }

/-- The lowest wave place of a bay that no wave holds (R339). -/
def State.freePlace (s : State) (core bay : Nat) : Nat :=
  ((List.range 48).find? (fun p => !s.waves.any (fun w => w.core == core && w.bay == bay && !w.isLead && w.place == p))).getD 0

/-- How many waves' registers a team's granules of a bay hold (R281). -/
def LaunchRec.fitsRegs (l : LaunchRec) : Nat := if l.nregs == 0 then 32 else l.rf * 65536 / (l.nregs * 128)

/-- Place one copy of a team on a core (R27, R280, R281). -/
def State.placeTeam (s : State) (g : Grid) (team copy core : Nat) : State :=
  let l := g.lrec
  let tid : TeamId := { grid := g.id, team := team, copy := copy }
  let procs := match s.ctx? g.id.asid with | some c => c.procs | none => []
  let t : Team :=
    { id := tid, core := core, nwaves := l.waves, hasLead := l.lpc != 0, gone := 0, leadEnded := false, halted := none,
      pending := [], bars := [], rings := l.rings, ringSlots := [], decisions := [], decNext := 0, scratch := [], badPool := [], acc := [], wslots := [], staged := [],
      wset := [], wrep := [], updates := [],
      batch := match g.origin with | .firing _ _ b => b | _ => [],
      merged := [], meet := [], owed := 0, ended := false, red := flagged l g.level team, away := false }
  let s := (List.range l.waves).foldl (fun s k =>
    let bay := l.bay k
    let rank := ((List.range k).filter (fun j => l.bay j == bay)).length
    { s with waves := s.waves ++ [newWave l g.origin procs { team := tid, wave := k } core bay (s.freePlace core bay) g.prio
                                    (decide (rank < l.fitsRegs))] }) s
  let s := if l.lpc = 0 then s else
    { s with waves := s.waves ++ [newWave l g.origin procs { team := tid, wave := 32 } core 0 48 g.prio true] }
  { (s.updGrid g.id (fun g => { g with placed := g.placed ++ [(team, copy)] })) with teams := s.teams ++ [t] }

/-- Place a team by R280 in a rectangle: on the core of lowest index with room, its second copy on the next. `none` when
it fits nowhere. -/
def State.tryTeam (s : State) (g : Grid) (cores : List Nat) (team : Nat) : Option State :=
  match cores.filter (fun c => (s.roomOn c).fits g.lrec) with
  | [] => none
  | c :: cs =>
    if flagged g.lrec g.level team then
      match cs with
      | [] => none
      | d :: _ => some ((s.placeTeam g team 0 c).placeTeam g team 1 d)
    else some (s.placeTeam g team 0 c)

/-- Place several teams, all or none. -/
def State.tryTeams (s : State) (g : Grid) (cores : List Nat) : List Nat → Option State
  | [] => some s
  | t :: ts => match s.tryTeam g cores t with
    | none => none
    | some s' => s'.tryTeams g cores ts

/-- The teams of a grid that are still to be placed. -/
def Grid.unplaced (g : Grid) : Option Nat :=
  let n := (g.placed.filter (fun p => p.2 == 0)).length
  if n < g.lrec.teams then some n else none

/-- Place a grid's next teams: every team at once when co-resident, else the first (R279, R280). Choosing the rectangle
invalidates the instruction caches of its cores before the grid's first fetch (R209). -/
def State.placeGrid (s : State) (g : Grid) (next : Nat) : Option State :=
  let teams := if g.lrec.cor then (List.range g.lrec.teams).drop next else [next]
  match g.rect with
  | some r => match rectCores r g.lrec.width g.lrec.height with
    | some cores => s.tryTeams g cores teams
    | none => none
  | none =>
    (List.range 48).findSome? (fun corner =>
      match rectCores corner g.lrec.width g.lrec.height with
      | none => none
      | some cores => (s.tryTeams g cores teams).map (fun s' =>
          (s'.updGrid g.id (fun g => { g with rect := some corner })).dropCode cores))

/-- Whether the matrix FIFO of a core takes the saved entries of a team beside those of the teams that run (R176, R287). -/
def State.entriesFit (s : State) (t : Team) : Bool :=
  let es := (s.core t.core).fifo.filter (fun e => e.wave.team == t.id || (match s.team? e.wave.team with | some x => !x.away | none => false))
  es.length ≤ 64 && (List.range 4).all (fun b => (es.filter (fun e => e.bay == b)).length ≤ 40)

/-- Work that resumes takes its lines anew (R259). DEDUCED (log 112): behind the work that took lines meanwhile; its places in the order of acceptance follow
those given so far, in their own order. An entry that has started keeps its lines (R348). -/
def State.retake (s : State) (asid : Nat) (mine : Issuer → Bool) (conv : Demand → Bool) : State :=
  let fresh (e : Entry) : Bool := asidOf e.wave == asid && mine (.wave e.wave) && !e.started
  let xs := s.xfers.filter (fun t => t.asid == asid && mine t.issuer)
  let os := s.colls.filter (fun o => o.asid == asid && mine o.issuer)
  let ms := s.ctxs.flatMap (fun c => if c.asid == asid then c.demands.filter conv else [])
  let old := xs.map (·.order) ++ os.map (·.order) ++ (s.cores.flatMap (fun k => k.2.fifo.filter fresh)).map (·.order) ++ ms.map (·.order)
  let next (n : Nat) : Nat := s.nextId + (old.filter (· < n)).length
  { s with
    nextId := s.nextId + old.length
    xfers := s.xfers.map (fun t => if t.asid == asid && mine t.issuer then { t with order := next t.order } else t)
    colls := s.colls.map (fun o => if o.asid == asid && mine o.issuer then { o with order := next o.order } else o)
    cores := s.cores.map (fun k => (k.1, { k.2 with fifo := k.2.fifo.map (fun e => if fresh e then { e with order := next e.order } else e) }))
    ctxs := s.ctxs.map (fun c => if c.asid == asid then
      { c with demands := c.demands.map (fun m => if conv m then { m with order := next m.order } else m) } else c) }

/-- A team whose pre-empted context has resumed goes back to its core when there is room (R287, R288). -/
def State.returnTeam (s : State) (t : Team) : Option State :=
  match s.grid? t.id.grid with
  | none => none
  | some g =>
    if !(s.roomOn t.core).fitsBack g.lrec || !s.entriesFit t then none else
    let s := s.retake t.id.grid.asid (fun i => match i with | .wave w => w.team == t.id | .node _ _ => false) (fun _ => false)
    some ({ (s.updTeam t.id (fun t => { t with away := false })) with
      waves := s.waves.map (fun w => if w.id.team = t.id then { w with active := false, age := 0 } else w) } : State)

/-- Several saved teams go back, all or none. -/
def State.returnTeams (s : State) : List Team → Option State
  | [] => some s
  | t :: ts => match s.returnTeam t with
    | none => none
    | some s => s.returnTeams ts

/-- The saved teams that go back with one: all of a co-resident grid, else the two copies of a redundant team (R31, R280, R288, R299). -/
def State.backWith (s : State) (g : Grid) (t : Team) : List Team :=
  s.teams.filter (fun u => u.id.grid == g.id && u.away && (g.lrec.cor || u.id.team == t.id.team))

/-- What waits for placement (R280): a grid's next team, or a saved team. -/
inductive Seat where
  | next (g : Grid) (team : Nat)
  | back (g : Grid) (t : Team)

/-- Priority, launch order and team index of a waiting team. -/
def Seat.grid : Seat → Grid
  | .next g _ => g
  | .back g _ => g
def Seat.team : Seat → Nat
  | .next _ n => n
  | .back _ t => t.id.team

/-- Whether one waiting team is taken before another (R280). -/
def Seat.before (a b : Seat) : Bool :=
  a.grid.prio > b.grid.prio || (a.grid.prio == b.grid.prio &&
    (a.grid.order < b.grid.order || (a.grid.order == b.grid.order && a.team < b.team)))

/-- The waiting teams of contexts that run. -/
def State.seats (s : State) : List Seat :=
  (s.grids.filter (fun g => !s.idleGrid g.id)).flatMap (fun g =>
    (match g.unplaced with | some n => [Seat.next g n] | none => []) ++
    (s.teams.filter (fun t => t.id.grid == g.id && t.away)).map (fun t => Seat.back g t))

/-- The waiting team that placement takes. -/
def pickSeat : List Seat → Option Seat
  | [] => none
  | a :: l => match pickSeat l with
    | none => some a
    | some b => if b.before a then some b else some a


end Sys2Proof.Machine
end

