-- ==== Sys2Proof/Machine/Operands.lean ====
section
/-!
DEFINITION. Operand forms: the register fields each instruction names, the codes and classes its entry allows in them
(R87 to R89), which `FE` bit covers which source (R84), uniform instructions (R75), and roles (R49).
-/
namespace Sys2Proof.Machine

/-- A register field of an instruction as its entry gives it. `count` consecutive V registers from a multiple of `align`;
`v`, `s`, `z`, `x`, `n` allow a V register, an S register, `ZERO`, a special and 511; `fe` is the place of the `FE` bit
that covers it; `dst` a destination; `free` an S destination of an instruction that is not uniform (R88). -/
structure Opnd where
  code : Nat
  count : Nat
  align : Nat
  v : Bool
  s : Bool
  z : Bool
  x : Bool
  n : Bool
  fe : Option Nat
  dst : Bool
  free : Bool
  deriving DecidableEq, Repr

/-- A source of any class: V, S, `ZERO` or special. -/
def src (code : RegCode) (fe count : Nat) : Opnd :=
  { code := code.toNat, count := count, align := count, v := true, s := true, z := true, x := true, n := false,
    fe := some fe, dst := false, free := false }

/-- A source of V or S class (with `ZERO` and specials when `zx`), absent when `opt`. -/
def srcVS (code : RegCode) (fe count : Nat) (zx opt : Bool) : Opnd :=
  { src code fe count with z := zx, x := zx, n := opt }

/-- A source of V class only, from a multiple of `align`. -/
def srcV (code : RegCode) (fe count align : Nat) (opt : Bool) : Opnd :=
  { src code fe count with align := align, s := false, z := false, x := false, n := opt }

/-- A source that is no S register (R426). -/
def srcNoS (code : RegCode) (fe : Nat) : Opnd := { src code fe 1 with s := false }

/-- A source of S class, with `ZERO` when `z` and specials when `x`, absent when `opt`. -/
def srcS (code : RegCode) (fe : Nat) (z x opt : Bool) : Opnd :=
  { src code fe 1 with v := false, z := z, x := x, n := opt }

/-- A field that holds 511. -/
def unused (code : RegCode) (fe : Option Nat) : Opnd :=
  { code := code.toNat, count := 1, align := 1, v := false, s := false, z := false, x := false, n := true, fe := fe,
    dst := false, free := false }

/-- A destination of V class or, for a uniform instruction, S class; `ZERO` discards it. -/
def dst (code : RegCode) (count : Nat) : Opnd :=
  { code := code.toNat, count := count, align := count, v := true, s := true, z := true, x := false, n := false,
    fe := none, dst := true, free := false }

/-- A destination whose entry names V (from a multiple of `align`) and S classes, or 511. -/
def dstE (code : RegCode) (count align : Nat) (v s n free : Bool) : Opnd :=
  { code := code.toNat, count := count, align := align, v := v, s := s, z := false, x := false, n := n, fe := none,
    dst := true, free := free }

/-- V registers of one operand of an integer or float type: a pair for 64 bits (R88). -/
def words (t : Nat) : Nat := if tyWidth t == 64 then 2 else 1

/-- Format R with a destination and one, two or three typed sources. -/
def ops1 (f : FmtR) : List Opnd :=
  [dst f.d (words (tyD f.ty)), src f.a 0 (words (tyS f.ty)), unused f.b (some 1), unused f.c (some 2)]
def ops2 (f : FmtR) : List Opnd :=
  [dst f.d (words (tyD f.ty)), src f.a 0 (words (tyS f.ty)), src f.b 1 (words (tyS f.ty)), unused f.c (some 2)]
def ops3 (f : FmtR) : List Opnd :=
  [dst f.d (words (tyD f.ty)), src f.a 0 (words (tyS f.ty)), src f.b 1 (words (tyS f.ty)), src f.c 2 (words (tyS f.ty))]

/-- Format I with a destination and one typed source. -/
def opsI (f : FmtI) : List Opnd := [dst f.d (words (tyD f.ty)), src f.a 0 (words (tyS f.ty))]

/-- A comparison: its destination receives one V register, an S register, or none (R422, R435). -/
def cmpDst (code : RegCode) : Opnd := { dst code 1 with n := true, z := true }

/-- Format R with every field 511. -/
def opsNone (f : FmtR) : List Opnd := [unused f.d none, unused f.a (some 0), unused f.b (some 1), unused f.c (some 2)]

/-- A spectral packet as the V registers it names (R88). -/
def packet (p : BitVec 5) (fe : Option Nat) (count : Nat) (isDst : Bool) : Opnd :=
  { code := 8 * p.toNat, count := count, align := count, v := true, s := false, z := false, x := false, n := false,
    fe := fe, dst := isDst, free := false }

/-- The scalar source `VS` of format W. -/
def vsSrc (f : FmtW) (opt : Bool) : Opnd := srcVS f.vs 2 1 false opt

/-- Base and index of format M (R79): the base an even V of a pair, an S register or 511; the index V, S or 511. -/
def baseOp (f : FmtM) : Opnd := srcVS f.ab 0 2 false true
def indexOp (f : FmtM) : Opnd := srcVS f.ai 1 1 true true

/-- V registers of an access of width code `wd` (R80). -/
def accWords (wd : BitVec 4) : Nat := if wd.toNat ≤ 2 then 1 else 2 ^ (wd.toNat - 2)

/-- The S class is open to `LD` and `ST` only up to 8 bytes (R443, R486). -/
def dataOp (f : FmtM) (fe : Option Nat) (isDst : Bool) : Opnd :=
  { code := f.ds.toNat, count := accWords f.wd, align := accWords f.wd, v := true, s := f.wd.toNat ≤ 3, z := false,
    x := false, n := false, fe := fe, dst := isDst, free := false }

/-- The source of `ST` and `MCST`: an S register only where the address names no V register and not `LANE` (R75, R486). -/
def storeOp (f : FmtM) : Opnd :=
  { dataOp f (some 2) false with
    s := f.wd.toNat ≤ 3 && 320 ≤ f.ab.toNat && f.ab.toNat != 449 && 320 ≤ f.ai.toNat && f.ai.toNat != 449 }

/-- A uniform-required address in a V pair or an S register (R60). -/
def handle (code : RegCode) (fe : Nat) (opt : Bool) : Opnd := srcVS code fe 2 false opt

/-- The operands of `COPY`, `GATH` and `SCAT` (R398). -/
def copyOps (f : FmtX) : List Opnd :=
  [srcS f.d 9 false false false, handle f.a 0 false, handle f.b 1 false, srcS f.c 2 false false true]

/-- Whether a matrix type takes block scales (R114). -/
def scaledTy (t : Nat) : Bool := t == 11 || t == 12 || t == 13 || t == 14

/-- The scale operand of `MWL` (R174): present only for a type that takes scales, with the weights in scratch or in registers. DEDUCED
(log 102): the forms name it with `.SCR` only. -/
def scaleOp (f : FmtX) : Opnd :=
  if scaledTy (f.fn.toNat % 16) then srcVS f.c 2 1 true true else unused f.c (some 2)

/-- The register fields of each instruction, destinations first, then sources in the order of their `FE` bits. -/
def operandsOf (i : Instr) : List Opnd :=
  match i with
  | .nop f | .exit f | .yield f | .bkpt f | .gfin f | .gfail f | .merge f | .rtt f => opsNone f
  | .bra f => [srcVS f.a 0 1 true true]
  | .bru f => [srcS f.a 0 true true true]
  | .call f => [dstE f.a 2 2 true true false false]
  | .ret f | .jmpi f => [srcVS f.a 0 2 false false]
  | .rcvset f | .rcv f => [unused f.a (some 0)]
  | .launch f => [dstE f.d 2 2 true true true true, handle f.a 0 false, handle f.b 1 true, unused f.c (some 2)]
  | .agen f => [dstE f.ds 2 2 true true false false, baseOp f, indexOp f]
  | .andR f | .orR f | .xorR f | .iadd f | .isub f | .imul f | .imulh f | .imax f | .imin f | .idiv f | .irem f
  | .shl f | .shr f | .sra f | .rot f | .bfx f | .sel f => ops2 f
  | .fadd f | .fsub f | .fmul f | .fdiv f | .fmax f | .fmin f => ops2 f
  | .bfi f | .bsel f | .imad f | .ffma f => ops3 f
  | .brev f | .iabs f | .mov f | .clz f | .popc f => ops1 f
  | .frnd f | .fsqrt f | .frcp f | .frsq f | .fexp2 f | .flog2 f | .fsin f | .fcos f | .cvt f => ops1 f
  | .andImm f | .orImm f | .xorImm f | .iaddImm f | .isubImm f | .imulImm f | .imulhImm f | .imaxImm f | .iminImm f
  | .idivImm f | .iremImm f | .shlImm f | .shrImm f | .sraImm f | .rotImm f => opsI f
  | .faddImm f | .fsubImm f | .fmulImm f | .fdivImm f | .fmaxImm f | .fminImm f => opsI f
  | .icmp f | .fcmp f =>
    [cmpDst f.d, src f.a 0 (words (tyS f.ty)), src f.b 1 (words (tyS f.ty)), unused f.c (some 2)]
  | .icmpImm f | .fcmpImm f => [cmpDst f.d, src f.a 0 (words (tyS f.ty))]
  | .movFirst f =>
    [dstE f.d 1 1 false true false true, srcV f.a 0 (words (tyS f.ty)) (words (tyS f.ty)) false, unused f.b (some 1),
     unused f.c (some 2)]
  | .movi f => [dst f.d (words (tyD f.ty)), unused f.a (some 0)]
  | .moviHi f => [dstE f.d 2 2 true true false false, unused f.a (some 0)]
  | .ftsum f => [dst f.d 2, src f.a 0 1, src f.b 1 1, unused f.c (some 2)]
  | .pfma f => [dstE f.d 1 1 true false false false, srcNoS f.a 0, srcNoS f.b 1, srcNoS f.c 2]
  | .muel f => [packet f.wd none 32 true, packet f.wa (some 0) 32 false, vsSrc f false]
  | .wadd f | .wmul f => [packet f.wd none 8 true, packet f.wa (some 0) 8 false, packet f.wb (some 1) 8 false, unused f.vs (some 2)]
  | .wfma f =>
    [packet f.wd none 8 true, packet f.wa (some 0) 8 false, packet f.wb (some 1) 8 false, packet f.wc (some 2) 8 false]
  | .wscal f => [packet f.wd none 8 true, packet f.wa (some 0) 8 false, vsSrc f false]
  | .wexp f => [packet f.wd none 8 true, packet f.wa (some 0) 8 false, vsSrc f true]
  | .wspan f => [packet f.wd none 8 true, vsSrc f false]
  | .wsum f => [dstE f.vs 1 1 true false false false, packet f.wa (some 0) 8 false]
  | .wdot f => [dstE f.vs 1 1 true false false false, packet f.wa (some 0) 8 false, packet f.wb (some 1) 8 false]
  | .facc f => [unused f.d none, handle f.a 0 false, srcVS f.b 1 1 false false, unused f.c (some 2)]
  | .leafx f => [dstE f.d 4 4 true false false false, srcV f.a 0 8 8 false, srcV f.b 1 12 4 false, unused f.c (some 2)]
  | .tex f => [dstE f.d 8 8 true false false false, srcV f.a 0 4 4 false, srcV f.b 1 8 8 false, handle f.c 2 false]
  | .texq f | .texqRead f =>
    [dstE f.d 1 1 true (384 ≤ f.a.toNat && f.a.toNat < 448) false true, { srcVS f.a 0 1 false false with z := true },
     unused f.b (some 1), handle f.c 2 false]
  | .trace f => [dstE f.d 8 8 true false false false, srcV f.a 0 8 8 false, handle f.b 1 false, srcVS f.c 2 1 false true]
  | .ld f => [dataOp f none true, baseOp f, indexOp f]
  | .st f | .mcst f => [baseOp f, indexOp f, storeOp f]
  | .atom f =>
    [{ dst f.ds (accWords f.wd) with n := true }, baseOp f, srcVS f.ai 1 (accWords f.wd) false true]
  | .cas f =>
    [dst f.ds (accWords f.wd), baseOp f, srcVS f.ai 1 (accWords f.wd) false false,
     { srcVS f.ds 2 (accWords f.wd) false false with z := true }]
  | .fence f | .fenceWalk f => [unused f.ds (some 2), unused f.ab (some 0), unused f.ai (some 1)]
  | .cflush f | .pref f => [unused f.ds (some 2), baseOp f, indexOp f]
  | .ctest f => [dstE f.ds 2 2 true true false false, baseOp f, unused f.ai (some 1)]
  | .cwait f => [dstE f.ds 2 2 true true true false, baseOp f, srcVS f.ai 1 2 false true]
  | .pldConv f => [srcS f.d 9 false false false, srcVS f.a 0 1 true false, handle f.b 1 false, srcS f.c 2 false false false]
  | .pldRed f => [dstE f.d 1 1 true false false false, srcVS f.a 0 1 true false, handle f.b 1 false, unused f.c (some 2)]
  | .coll f => [unused f.d none, handle f.a 0 false, handle f.b 1 false, unused f.c (some 2)]
  | .copy f | .gath f | .scat f | .scatAdd f => copyOps f
  | .csig f => [srcS f.d 9 false false false, srcS f.a 0 true false true, unused f.b (some 1), unused f.c (some 2)]
  | .csigNode f => [unused f.d none, unused f.a (some 0), unused f.b (some 1), unused f.c (some 2)]
  | .node f => [unused f.d none, handle f.a 0 false, unused f.b (some 1), unused f.c (some 2)]
  | .placeSet f | .placeGet f => [unused f.d none, srcVS f.a 0 1 true false, handle f.b 1 false, unused f.c (some 2)]
  | .mwl f =>
    if f.fn.getLsbD 4 then
      [unused f.d none, srcVS f.a 0 1 true false, unused f.b (some 1),
       scaleOp f]
    else
      [unused f.d none, srcV f.a 0 64 8 false, unused f.b (some 1),
       scaleOp f]
  | .mmac f =>
    [unused f.d none, (if f.fn.getLsbD 4 then srcV f.a 0 1 1 false else srcV f.a 0 64 8 false), srcS f.b 1 true false false,
     { srcV f.c 2 1 1 true with v := scaledTy (f.fn.toNat % 16) }]
  | .mzero f => [unused f.d none, unused f.a (some 0), srcS f.b 1 true false false, unused f.c (some 2)]
  | .mdrn f => [dstE f.d 1 1 true false true false, srcVS f.a 0 2 true false, srcS f.b 1 true false false, srcS f.c 2 false false false]
  | .vxm f => [dstE f.d 1 1 true false false false, srcV f.a 0 1 1 false, handle f.b 1 false, srcS f.c 2 false false false]
  | .bar f | .barArv f => [unused f.d none, srcS f.a 0 true true true, srcS f.b 1 false false true, unused f.c (some 2)]
  | .decp f => [unused f.d none, srcS f.a 0 true true false, srcS f.b 1 false false true, unused f.c (some 2)]
  | .dect f => [dstE f.d 2 2 true true false true, unused f.a (some 0), unused f.b (some 1), unused f.c (some 2)]
  | .lred f =>
    [dstE f.d (words (tyS f.ty)) (words (tyS f.ty)) (!(384 ≤ f.a.toNat && f.a.toNat < 448)) (f.b.toNat == 511) false
       (f.b.toNat == 511),
     srcVS f.a 0 (words (tyS f.ty)) false false, srcVS f.b 1 1 true true, unused f.c (some 2)]
  | .matchR f =>
    [dstE f.d 1 1 true false false false, src f.a 0 (words (tyS f.ty)), unused f.b (some 1), unused f.c (some 2)]
  | .slane f =>
    [dstE f.d (words (tyS f.ty)) (words (tyS f.ty)) true false false false,
     srcV f.a 0 (words (tyS f.ty)) (words (tyS f.ty)) false, { srcVS f.b 1 1 false false with z := true },
     srcV f.c 2 1 1 true]
  | .vpoll f =>
    [dstE f.d 1 1 true true (f.fn.toNat / 8 != 0 && [0, 1, 3].contains (f.fn.toNat % 8)) (f.c.toNat == 511),
     srcV f.a 0 (words (tyS f.ty)) (words (tyS f.ty)) false, unused f.b (some 1), srcV f.c 2 1 1 true]
  | .qpush f => [unused f.d none, { srcVS f.a 0 2 false false with z := true }, unused f.b (some 1), unused f.c (some 2)]
  | .qpop f => [dstE f.d 2 2 true true false true, unused f.a (some 0), unused f.b (some 1), unused f.c (some 2)]
  | .racq f => [dstE f.d 1 1 false true false true, unused f.a (some 0), unused f.b (some 1), unused f.c (some 2)]
  | .rrel f => [unused f.d none, srcS f.a 0 true false false, unused f.b (some 1), unused f.c (some 2)]
  | .xenq f => [unused f.d none, { srcVS f.a 0 1 false false with z := true }, srcV f.b 1 4 4 false, unused f.c (some 2)]
  | .xdeq f => [dstE f.d 1 1 false true true true, srcS f.a 0 true false false, unused f.b (some 1), unused f.c (some 2)]
  | .xstatQuery f =>
    [dstE f.d 1 1 false true false true, srcS f.a 0 true false false, unused f.b (some 1), unused f.c (some 2)]
  | .xstatFlush f | .xstatReset f =>
    [unused f.d none, srcS f.a 0 true false false, unused f.b (some 1), unused f.c (some 2)]
  | .sreg f =>
    [dstE f.d (if f.ty == 0x77 then 2 else 1) (if f.ty == 0x77 then 2 else 1) true true false false, unused f.a (some 0)]
  | .swr f =>
    [unused f.d none, { srcVS f.a 0 (if f.ty == 0x77 then 2 else 1) false false with z := true }]
  | .trap f => [unused f.d none, unused f.a (some 0)]
  | _ => []

/-- The three `FE` bits of an instruction a slot holds (R73). -/
def feOf (i : Instr) : BitVec 3 := match hdrOf i with | some h => h.fe | none => 0
where
  /-- The header of an instruction a slot holds. -/
  hdrOf (i : Instr) : Option Hdr :=
    match i with
    | .nop f | .exit f | .yield f | .launch f | .andR f | .bfi f | .bfx f | .brev f | .bsel f | .clz f | .iabs f
    | .iadd f | .isub f | .imul f | .imulh f | .imad f | .imax f | .imin f | .idiv f | .irem f | .icmp f | .mov f
    | .movFirst f | .orR f | .popc f | .rot f | .sel f | .shl f | .shr f | .sra f | .xorR f | .cvt f | .fadd f
    | .fsub f | .fmul f | .fdiv f | .ffma f | .fmax f | .fmin f | .fcmp f | .frnd f | .fsqrt f | .frcp f | .frsq f
    | .fexp2 f | .flog2 f | .fsin f | .fcos f | .ftsum f | .pfma f | .leafx f | .bar f | .barArv f | .decp f
    | .dect f | .lred f | .matchR f | .slane f | .vpoll f | .qpush f | .qpop f | .racq f | .rrel f | .xenq f
    | .xdeq f | .xstatQuery f | .xstatFlush f | .xstatReset f | .bkpt f | .gfin f | .gfail f | .merge f
    | .rtt f => some f.h
    | .andImm f | .iaddImm f | .isubImm f | .imulImm f | .imulhImm f | .imaxImm f | .iminImm f | .idivImm f
    | .iremImm f | .icmpImm f | .movi f | .moviHi f | .orImm f | .rotImm f | .shlImm f | .shrImm f | .sraImm f
    | .xorImm f | .faddImm f | .fsubImm f | .fmulImm f | .fdivImm f | .fmaxImm f | .fminImm f | .fcmpImm f
    | .sreg f | .swr f | .trap f => some f.h
    | .agen f | .ld f | .st f | .atom f | .cas f | .fence f | .fenceWalk f | .cflush f | .pref f | .mcst f
    | .ctest f | .cwait f => some f.h
    | .facc f | .tex f | .texq f | .texqRead f | .trace f | .pldConv f | .pldRed f | .coll f | .copy f | .gath f
    | .scat f | .scatAdd f | .csig f | .csigNode f | .node f | .placeSet f | .placeGet f | .mwl f | .mmac f
    | .mzero f | .mdrn f | .vxm f => some f.h
    | .bra f | .bru f | .call f | .ret f | .jmpi f | .rcvset f | .rcv f => some f.h
    | .muel f | .wadd f | .wmul f | .wfma f | .wscal f | .wexp f | .wspan f | .wsum f | .wdot f => some f.h
    | _ => none

/-- The header of an instruction a slot holds (R73). -/
def hdrOf (i : Instr) : Option Hdr := feOf.hdrOf i

/-- Whether a field names a V register. -/
def Opnd.isV (o : Opnd) : Bool := o.code < 320

/-- Whether an instruction is uniform (R75): every register operand it names is an S register, `ZERO` or a special other
than `LANE`. -/
def isUniform (i : Instr) : Bool := (operandsOf i).all (fun o => !o.isV && o.code != 449)

/-- Whether a register field breaks R87 to R89, for a wave that declares `nregs` V registers (none for a lead thread). -/
def Opnd.bad (o : Opnd) (nregs : Nat) (uni : Bool) : Bool :=
  if o.code < 320 then !(o.v && o.code % o.align == 0 && o.code + o.count ≤ nregs)
  else if 384 ≤ o.code && o.code < 448 then !(o.s && (!o.dst || uni || o.free))
  else if o.code == 448 then !o.z
  else if 449 ≤ o.code && o.code ≤ 453 then !(o.x && !o.dst)
  else if o.code == 511 then !o.n
  else true

/-- The code in the field of an `FE` bit set over no V register (R84). DESIGN CHOICE (log 26): 0 where the instruction has no source there,
whether the format has no such field or the field is a destination alone. -/
def feBad (i : Instr) : Option Nat :=
  let fe := feOf i
  let bad (k : Nat) : Bool := fe.getLsbD k && !(operandsOf i).any (fun o => o.fe == some k && o.isV)
  match (List.range 3).find? bad with
  | none => none
  | some k => some (match (operandsOf i).find? (fun o => o.fe == some k) with | some o => o.code | none => 0)

/-- The special registers of R482, those that an `SWR` may write, and those with a thread instance. -/
def specials : List Nat :=
  [0x000, 0x001, 0x002, 0x003, 0x004, 0x005, 0x006, 0x007, 0x008, 0x009, 0x00A, 0x00B, 0x010, 0x011, 0x012, 0x013, 0x014,
   0x018, 0x019, 0x01A, 0x01B, 0x01C, 0x020, 0x021, 0x022, 0x023, 0x024, 0x030, 0x031, 0x032, 0x033, 0x034, 0x035]
def specialsWritable : List Nat := [0x000, 0x001, 0x002, 0x003, 0x004, 0x005, 0x006, 0x009, 0x011, 0x019, 0x021, 0x030]
def specialsThread : List Nat := [0x000, 0x003, 0x011, 0x019, 0x021]

/-- The operand checks of an entry beside those of registers: a join barrier in lead code (R54), a special register that is
not listed, not writable or written from a V register without a thread instance (R482, R484). The value `TADDR` receives. -/
def entryFault (i : Instr) (w : Wave) : Option Nat :=
  match i with
  | .rcvset f | .rcv f => if w.isLead then some f.j.toNat else none
  | .sreg f => if specials.contains f.imm.toNat then none else some f.imm.toNat
  | .swr f =>
    if !specialsWritable.contains f.imm.toNat then some f.imm.toNat
    else if f.a.toNat < 320 && !specialsThread.contains f.imm.toNat then some f.a.toNat else none
  | _ => none

/-- K and N of the dimension word of `VXM` (R186); its other bits are ignored, which is the model's choice (log 94). -/
def vxmK (w : Nat) : Nat := nfield w 12 0
def vxmN (w : Nat) : Nat := nfield w 28 16
def vxmDim (v : Nat) : Bool := v % 32 == 0 && 32 ≤ v && v ≤ 4096

/-- The register field of `VXM` that names more registers than the wave declares, for a dimension word that R186 takes (R186, R187). -/
def countFault (i : Instr) (w : Wave) : Option Nat :=
  match i with
  | .vxm f =>
    let c := w.readReg 0 f.c.toNat 1
    if !vxmDim (vxmK c) || !vxmDim (vxmN c) then none
    else if f.d.toNat + vxmN c / 32 > w.nregs then some f.d.toNat
    else if f.a.toNat + vxmK c / 32 > w.nregs then some f.a.toNat
    else none
  | _ => none

/-- The first operand that breaks R54, R84 or R87 to R89: the value `TADDR` receives (R331). -/
def operandFault (i : Instr) (w : Wave) : Option Nat :=
  let uni := isUniform i
  match entryFault i w with
  | some j => some j
  | none =>
  match (operandsOf i).find? (fun o => o.bad (if w.isLead then 0 else w.nregs) uni) with
  | some o => some o.code
  | none => (feBad i).orElse (fun _ => countFault i w)

/-- The roles that R49 permits an instruction to; ring sides and the team leader are checked where they stand. -/
def roleOk (i : Instr) (r : Role) : Bool :=
  match i with
  | .copy _ | .gath _ | .scat _ | .scatAdd _ | .coll _ | .placeSet _ | .placeGet _ | .node _ =>
    r == .copy || r == .general || r == .lead
  | .mwl _ => r == .matrix
  | .mmac _ | .mdrn _ | .mzero _ | .vxm _ => r == .matrix || r == .general
  | .tex _ | .texq _ | .texqRead _ | .trace _ | .facc _ => r == .vector || r == .general
  | .racq _ | .rrel _ => r != .general
  | .decp _ => r == .lead
  | .dect _ => r != .lead
  | _ => true

end Sys2Proof.Machine
end

