-- ==== Sys2Proof/Machine/Issue.lean ====
section
/-!
DEFINITION. The issue of one instruction by a group of threads: the checks of R92 and R332 through the sources, guards
(R74), uniform execution (R75), full and empty registers (R90, R91), and what becomes of the group when the instruction
completes, waits, parks or raises a cause. Every instruction that a slot holds is `issue` of its own effect.
-/
namespace Sys2Proof.Machine

/-- What an instruction's effect is given: the issuing wave, the group, its PC, the lanes with a true guard, and the lanes
that execute, which is the representative alone for a uniform instruction (R75). -/
structure Iss where
  wid : WaveId
  w : Wave
  group : List Nat
  pc : DWord
  act : List Nat
  uni : Bool
  lanes : List Nat
  deriving DecidableEq, Repr

/-- How an instruction's effect ends. -/
inductive Res where
  /-- It takes effect; the group goes to the next PC, but for the lanes that stay. -/
  | go (s : State) (stay : List Nat)
  /-- It takes effect and has set the PCs itself. -/
  | jump (s : State)
  /-- It has no effect and raises a cause. -/
  | trap (cause : Nat) (mask : LaneMask) (addr : Nat)
  /-- It finds uncorrectable errors at some PAs, which are logged: `MACHINE_CHECK`. It writes nothing, and the V registers of `es`,
  each a lane, a first register and a count, stay empty (R223). -/
  | check (pas : List Nat) (mask : LaneMask) (addr : Nat) (es : List (Nat × Nat × Nat))
  /-- Its active threads wait at it. -/
  | wait (on : Wait)
  /-- Its wave waits at issue, on a piece of work or by itself; the state may have gained that piece of work. -/
  | hold (s : State) (work : Option Nat) (on : Option Wait)

/-- Whether a guard is true in a lane (R74). -/
def guardTrue (h : Hdr) (w : Wave) (l : Nat) : Bool := w.pred l h.g.toNat != h.gn

/-- The register fields with the counts that the operands decide: `VXM` names K ÷ 32 sources and ⌈N ÷ 32⌉ destinations
(R186). -/
def spansOf (i : Instr) (w : Wave) : List Opnd :=
  match i with
  | .vxm f =>
    let c := w.readReg 0 f.c.toNat 1
    (operandsOf i).map (fun o =>
      if o.dst then { o with count := ceilDiv (vxmN c) 32 } else if o.fe == some 0 then { o with count := vxmK c / 32 } else o)
  | _ => operandsOf i

/-- The lanes in which an instruction of some lanes reads a source: the register form of `MWL` reads its quarter in every lane (R174;
log 95). -/
def readIn (i : Instr) (ls : List Nat) (o : Opnd) : List Nat :=
  match i with
  | .mwl _ => if o.count == 64 then List.range 32 else ls
  | _ => ls

/-- Whether a lane is blocked at an instruction (R90, R91): an empty source whose `FE` bit is 0, or a destination with a write pending. -/
def blockedAt (i : Instr) (w : Wave) (l : Nat) : Bool :=
  (spansOf i w).any (fun o => o.isV &&
    if o.dst then w.anyPending l o.code o.count
    else (readIn i [l] o).any (fun k => w.anyEmpty k o.code o.count) && match o.fe with | some k => !(feOf i).getLsbD k | none => true)

/-- The lanes in which the source `o` of an instruction of some lanes is empty under a set `FE` bit. -/
def emptyLanes (i : Instr) (w : Wave) (ls : List Nat) (o : Opnd) : List Nat :=
  (readIn i ls o).filter (fun l => o.isV && !o.dst && w.anyEmpty l o.code o.count &&
    (match o.fe with | some k => (feOf i).getLsbD k | none => false))

/-- The opcode that `TADDR` holds for `ROLE` (R331). -/
def opcOfInstr (i : Instr) : Nat := match encode i with | some w => opcOf w | none => 0

/-- The threads of some lanes go to the PC after `pc`, ready, and the wave holds its issue no longer (R70); what entries held of the
instruction's reads is used (R320). -/
def Wave.goOn (w : Wave) (ls : List Nat) (pc : DWord) : Wave :=
  { (w.updThreads ls (fun _ t => { t with pc := nextPc pc, run := if t.run = .ended then .ended else .ready, seen := t.seen.filter (fun b => b.1 != pc) })) with hold := none }

/-- Set the threads of some lanes to the next PC, ready (R70). -/
def advance (s : State) (wid : WaveId) (ls : List Nat) (pc : DWord) : State := s.updWave wid (fun w => w.goOn ls pc)

/-- Leave V registers empty that no request will fill (R223). -/
def State.leaveEmpty (s : State) (w : WaveId) (es : List (Nat × Nat × Nat)) : State :=
  s.updWave w (fun w => es.foldl (fun w e => w.markEmpty e.1 e.2.1 e.2.2 0) w)

/-- An uncorrectable error that an instruction finds is logged and raised, unless the wave skids (R223, R334). -/
def State.raiseCheck (s : State) (w : WaveId) (pas : List Nat) (mask : LaneMask) (addr : Nat) (es : List (Nat × Nat × Nat)) : State :=
  let s := pas.foldl State.logBad s
  let skids := match s.wave? w with | some x => (match x.halt with | .skid _ => true | _ => false) | none => false
  (if skids then s else s.leaveEmpty w es).raisePrecise w cMachineCheck mask addr

/-- The end of an issue (R34, R332): what becomes of the group for each way the effect ends. -/
def finish (x : Iss) (s : State) (r : Res) : State :=
  match r with
  | .go s' stay => advance s' x.wid (x.group.filter (fun l => !stay.contains l)) x.pc
  | .jump s' => s'.updWave x.wid (fun w => { w with hold := none })
  | .trap cause mask addr => s.raisePrecise x.wid cause mask addr
  | .check pas mask addr es => s.raiseCheck x.wid pas mask addr es
  | .wait on =>
    (advance s x.wid (x.group.filter (fun l => !x.act.contains l)) x.pc).updWave x.wid (fun w =>
      w.updThreads x.act (fun _ t => { t with run := .blocked on }))
  | .hold s' work on =>
    s'.updWave x.wid (fun w => { w with hold := some { lanes := maskOf x.group, pc := x.pc, work := work, on := on } })

/-- The code of a role in a launch record (R369). -/
def Role.code : Role → Nat
  | .copy => 0
  | .matrix => 1
  | .vector => 2
  | .general => 3
  | .lead => 4

/-- Whether an instruction raises `ROLE` in a wave: by R49, by R28 for `LAUNCH`, by R51 for a configured ring. -/
def State.roleRefused (s : State) (i : Instr) (w : Wave) : Bool :=
  !roleOk i w.role ||
  match s.team? w.id.team, i with
  | some t, .launch _ => if t.hasLead then !w.isLead else w.id.wave != 0
  | some t, .racq f | some t, .rrel f =>
    let c := t.rings.getD (f.fn.toNat % 8) (ringOfWord 0)
    c.n > 0 && (if f.fn.toNat / 8 % 2 == 0 then c.prod else c.cons) != w.role.code
  | _, _ => false

/-- The first register of a source that a lane cannot read for an uncorrectable error (R223). -/
def badSource (w : Wave) (l : Nat) (o : Opnd) : Option Nat :=
  if o.dst then none
  else if o.isV then ((List.range o.count).map (o.code + ·)).find? (fun r => w.badRegs.contains (l, r))
  else if w.badRegs.contains (0, o.code) then some o.code else none

/-- The first source register, in the order of R84, that an instruction of some lanes cannot read, with the lanes that it reads it in
(R223). -/
def badSources (i : Instr) (w : Wave) (ls : List Nat) : Option (LaneMask × Nat) :=
  (spansOf i w).findSome? (fun o => ((readIn i ls o).findSome? (fun l => badSource w l o)).map (fun r => (maskOf (readIn i ls o), r)))

/-- Whether a cause stands at step 16 of R332, where the `QUEUE` of a failed pair stands too (R412). -/
def lateCause (cause : Nat) : Bool :=
  [cBranchTarget, cSidingSpill, cIndexBounds, cLaunchDepth, cQueue, cSoftware, cBreakpoint].contains cause || (0x20 ≤ cause && cause < 0x28)

/-- How an effect ends that reads a register pair marked failed in some lanes: `QUEUE`, after every cause of an earlier step (R332, R412). -/
def Res.orQueue (failed : List Nat) (r : Res) : Res :=
  match failed, r with
  | [], r => r
  | ls, .trap cause mask addr => if lateCause cause then .trap cQueue (maskOf ls) 0x40 else .trap cause mask addr
  | _, .check pas mask addr es => .check pas mask addr es
  | ls, _ => .trap cQueue (maskOf ls) 0x40

/-- An error found in the pool, its register files included, is logged (R222, R223). -/
def State.logPool (s : State) (core : Nat) : State :=
  { s with errLog := s.errLog ++ [{ kind := 2, unit := 0, die := dieOf core, chan := 0, pa := 0, count := 1 }] }

/-- The checks from the operands to the sources (R92 steps 3 to 6), then the effect. DESIGN CHOICE (log 114): where lanes find different
sources empty, `EMPTY_READ` names the first of them in `TADDR` and the lanes of all of them in `TMASK`. -/
def issueAt (i : Instr) (h : Hdr) (body : Iss → State → Res) (c : Cur) (w : Wave) (s : State) : State :=
  let group := lanesOf c.lanes
  let x : Iss := { wid := c.wid, w := w, group := group, pc := c.pc, act := [], uni := false, lanes := [] }
  match operandFault i w with
  | some code => s.raisePrecise c.wid cIllegalOperand c.lanes code
  | none =>
    let act := group.filter (guardTrue h w)
    if act.isEmpty then finish x s (.go s [])
    else if s.roleRefused i w then s.raisePrecise c.wid cRole (maskOf act) (opcOfInstr i)
    else
      let stuck := act.filter (blockedAt i w)
      let group := group.filter (fun l => !stuck.contains l)
      let act := act.filter (fun l => !stuck.contains l)
      let failed := ((spansOf i w).filter (fun o => o.isV && !o.dst)).flatMap (fun o =>
        (readIn i act o).filter (fun l => w.anyFailed l o.code o.count))
      if act.isEmpty then finish { x with group := group } s (.go s [])
      else match (spansOf i w).find? (fun o => !(emptyLanes i w act o).isEmpty) with
        | some o =>
          s.raisePrecise c.wid cEmptyRead
            (maskOf ((spansOf i w).flatMap (emptyLanes i w act))) o.code
        | none => match badSources i w act with
          | some (m, r) => (s.logPool w.core).raiseCheck c.wid [] m r []
          | none =>
            let uni := isUniform i
            let x := { x with group := group, act := act, uni := uni, lanes := if uni then act.take 1 else act }
            finish x s ((body x s).orQueue failed)

/-- One instruction of a slot: the fault `noIssuingGroup` where the state names no issuing group, else a next state. -/
def issue (i : Instr) (h : Hdr) (body : Iss → State → Res) (s : State) : Host.Outcome State Fault Refusal :=
  match s.cur with
  | none => .fault .noIssuingGroup
  | some c =>
    match s.wave? c.wid with
    | none => .fault .noIssuingGroup
    | some w => commit s (issueAt i h body c w s)

/-- What one lane of an arithmetic instruction produces: its register results with the number of V registers each takes,
its predicate results, the exceptions E of R129, and the Philox draws (R121). -/
structure LaneOut where
  writes : List (Nat × Nat × Nat)
  preds : List (Nat × Bool)
  exc : BitVec 6
  draws : Nat
  deriving DecidableEq, Repr

/-- A lane's one result to a destination of `n` V registers, with its exceptions. -/
def LaneOut.one (code n x : Nat) (e : BitVec 6) : LaneOut :=
  { writes := [(code, n, x)], preds := [], exc := e, draws := 0 }

/-- Write a lane's results. A predicate of a uniform instruction is written in every thread of its group (R422). -/
def Wave.writeOut (w : Wave) (group : List Nat) (uni : Bool) (l : Nat) (o : LaneOut) : Wave :=
  let w := o.writes.foldl (fun w p => w.writeReg l p.1 p.2.1 p.2.2) w
  let w := o.preds.foldl (fun w p => (if uni then group else [l]).foldl (fun w k => w.setPred k p.1 p.2) w) w
  if o.draws = 0 then w else w.updThread l (fun t => { t with srcnt := t.srcnt + BitVec.ofNat 64 o.draws })

/-- The smallest exception bit of a set (R129). -/
def lowestExc (e : BitVec 6) : Nat := ((List.range 6).find? (fun b => e.getLsbD b)).getD 0

/-- The ending of R129: the trap of the lowest enabled exception, or every result written and the flags set. DEDUCED (log 101): `TMASK`
of a uniform instruction names its representative alone. -/
def arith (x : Iss) (s : State) (f : Nat → LaneOut) : Res :=
  let outs := x.lanes.map (fun l => (l, f l))
  let traps := outs.filter (fun p => p.2.exc &&& (x.w.thread p.1).fen != 0)
  if traps.isEmpty then
    .go (s.updWave x.wid (fun w =>
      let w := outs.foldl (fun w p => w.writeOut x.group x.uni p.1 p.2) w
      { w with flags := outs.foldl (fun e p => e ||| p.2.exc) w.flags })) []
  else
    let b := lowestExc (traps.foldl (fun e p => e ||| (p.2.exc &&& (x.w.thread p.1).fen)) 0)
    .trap (0x20 + b) (maskOf ((traps.filter (fun p => (p.2.exc &&& (x.w.thread p.1).fen).getLsbD b)).map (·.1))) 0

/-- The value of a register operand in a lane as `n` V registers read it (R88). -/
def Iss.rd (x : Iss) (l : Nat) (code : RegCode) (n : Nat) : Nat := x.w.readReg l code.toNat n

/-- The mask of the active lanes. -/
def Iss.actMask (x : Iss) : LaneMask := maskOf x.act

/-- The check of a uniform-required operand (R60): the dissenting lanes' mask and the lowest lane's value. -/
def Iss.uniformFault (x : Iss) (code : RegCode) (n : Nat) : Option (LaneMask × Nat) :=
  match x.act with
  | [] => none
  | l :: _ =>
    let v := x.rd l code n
    let bad := x.act.filter (fun k => x.rd k code n != v)
    if bad.isEmpty then none else some (maskOf bad, v)

/-- Several uniform-required operands, in order. -/
def Iss.uniformFaults (x : Iss) : List (RegCode × Nat) → Option (LaneMask × Nat)
  | [] => none
  | (c, n) :: cs => match x.uniformFault c n with | some r => some r | none => x.uniformFaults cs

/-- The lowest active lane. -/
def Iss.first (x : Iss) : Nat := x.act.headD 0

/-- A uniform-required operand's value. -/
def Iss.uval (x : Iss) (code : RegCode) (n : Nat) : Nat := x.rd x.first code n

end Sys2Proof.Machine
end

