-- ==== Sys2Proof/Machine/Space.lean ====
section
/-!
DEFINITION. The accesses of a wave's lanes: effective addresses (03 R80), alignment, translation and its ranking among
lanes (11 R227), parking (R44), scratch and accumulator bounds (10 R206), and the read and the write of bytes in each space.
-/
namespace Sys2Proof.Machine

/-- An access of one lane: the lane, its address and its length. -/
structure LaneAcc where
  lane : Nat
  va : Nat
  n : Nat
  deriving DecidableEq, Repr

/-- The effective address of R80 with an index scaled by the width. -/
def effAddr (x : Iss) (l : Nat) (f : FmtM) : Nat :=
  let base := if f.ab.toNat == 511 then 0 else x.rd l f.ab 2
  let index : Int := if f.ai.toNat == 511 then 0 else sext 32 (x.rd l f.ai 1)
  wrapN 64 ((base : Int) + index * (2 ^ f.wd.toNat : Nat) + f.off.toInt)

/-- Base, and the offset where it counts (R382, R403). -/
def baseAddr (x : Iss) (l : Nat) (f : FmtM) (off : Bool) : Nat :=
  let base := if f.ab.toNat == 511 then 0 else x.rd l f.ab 2
  wrapN 64 ((base : Int) + if off then f.off.toInt else 0)

/-- The lanes on which a cause found in some executing lanes falls: all active lanes of a uniform instruction. -/
def Iss.fallsOn (x : Iss) (ls : List Nat) : LaneMask := if x.uni then x.actMask else maskOf ls

/-- The first lanes whose address is not a multiple of `m` (R61, R444). -/
def Iss.misaligned (x : Iss) (m : Nat) (as : List LaneAcc) : Option (LaneMask × Nat) :=
  match as.filter (fun a => a.va % m != 0) with
  | [] => none
  | a :: bs => some (x.fallsOn ((a :: bs).map (·.lane)), a.va)

/-- How the accesses of several lanes translate (R227). -/
inductive LanesX where
  | stop (r : Res)
  | ok (done : List (LaneAcc × List (Nat × Nat))) (miss : List (LaneAcc × List MissOn))

/-- The least of some numbers. -/
def leastOf (d : Nat) (l : List Nat) : Nat := l.foldl min d

/-- Translate accesses of several lanes, each a read or a write: the fault of the earliest step, or which complete and which miss (R227). -/
def State.xlateEach (s : State) (x : Iss) (as : List (LaneAcc × Acc)) : LanesX :=
  match s.ctx? (asidOf x.wid) with
  | none => .ok [] []
  | some c =>
    let own := s.ownBlock x.wid.team.grid
    let rs := as.map (fun a => (a.1, s.xlateAll c own a.1.va a.1.n a.2))
    let faults := rs.filterMap (fun r => match r.2 with | .fault st cause va => some (r.1, st, cause, va) | _ => none)
    let st := leastOf 9 (faults.map (fun f => f.2.1))
    match faults.filter (fun f => f.2.1 == st) with
    | f :: fs =>
      let same := (f :: fs).filter (fun g => g.2.2.1 == f.2.2.1)
      let mask := x.fallsOn (same.map (fun g => g.1.lane))
      .stop (if f.2.2.1 == cMachineCheck then .check (s.walkBad c f.2.2.2).toList mask f.1.va [] else .trap f.2.2.1 mask f.2.2.2)
    | [] =>
      .ok (rs.filterMap (fun r => match r.2 with | .ok pas => some (r.1, pas) | _ => none))
        (rs.filterMap (fun r => match r.2 with | .wait on => some (r.1, on) | _ => none))

/-- Those of accesses of one kind. -/
def State.xlateLanes (s : State) (x : Iss) (as : List LaneAcc) (acc : Acc) : LanesX := s.xlateEach x (as.map (fun a => (a, acc)))

/-- The lanes that park when an executing lane's access misses: all active lanes of a uniform instruction. -/
def Iss.parkAs (x : Iss) (miss : List (LaneAcc × List MissOn)) : List (Nat × Nat × List MissOn) :=
  if x.uni then (match miss with | [] => [] | m :: _ => x.act.map (fun l => (l, m.1.va, m.2)))
  else miss.map (fun m => (m.1.lane, m.1.va, m.2))

/-- The state in which the missing lanes are parked, and those lanes. -/
def State.parkMisses (s : State) (x : Iss) (write : Bool) (miss : List (LaneAcc × List MissOn)) : State × List Nat :=
  let ps := x.parkAs miss
  (s.park x.wid write ps, ps.map (·.1))

/-- The launch record of a wave's grid. -/
def State.recOf (s : State) (w : WaveId) : LaunchRec :=
  match s.grid? w.team.grid with | some g => g.lrec | none => parseRec 0

/-- The bytes of scratch and of accumulator space that a team has (R205). -/
def State.scratchSize (s : State) (w : WaveId) : Nat := 4 * (s.recOf w).scr * 65536
def State.tiles (s : State) (w : WaveId) : Nat := 4 * (s.recOf w).acc

/-- The first lanes whose access reaches beyond an extent (R206): `TADDR` is the first byte beyond it. -/
def Iss.beyond (x : Iss) (extent : Nat) (as : List LaneAcc) : Option (LaneMask × Nat) :=
  match as.filter (fun a => a.va + a.n > extent) with
  | [] => none
  | a :: bs => some (x.fallsOn ((a :: bs).map (·.lane)), max a.va extent)

/-- The first byte of some reads of a space of the pool in which an uncorrectable error stands (R223). -/
def Team.badByte (t : Team) (space : Nat) (as : List LaneAcc) : Option Nat :=
  as.findSome? (fun a => ((List.range a.n).map (a.va + ·)).find? (fun b => t.badPool.contains (space, b)))

/-- The check of a read of the pool by the executing lanes (R223): space as in `badPool`, the lanes that read and the first address that
fails. -/
def poolCheck (x : Iss) (t : Team) (space : Nat) (as : List LaneAcc) : Option (LaneMask × Nat) :=
  (t.badByte space as).map (fun b => (x.fallsOn (as.map (·.lane)), b))

/-- Bytes of a team's scratch (R205). -/
def Team.scratchBytes (t : Team) (a n : Nat) : List Byte := (List.range n).map (fun i => cellGet 0 t.scratch (a + i))

/-- Write scratch. -/
def Team.setScratch (t : Team) (a : Nat) (bs : List Byte) : Team :=
  { t with scratch := cellSets 0 t.scratch ((List.range bs.length).map (fun i => (a + i, bs.getD i 0)))
           badPool := t.badPool.filter (fun p => !(p.1 == 1 && a ≤ p.2 && p.2 < a + bs.length)) }

/-- The key of an accumulator word: tile n of a bay, word i of its 4,096 (R178). -/
def accKey (tiles bay n i : Nat) : Nat := (bay * tiles + n) * 4096 + i

/-- A word of a tile. -/
def Team.accWord (t : Team) (tiles bay n r c : Nat) : Word := cellGet 0 t.acc (accKey tiles bay n (128 * r + c))

/-- Bytes of the accumulator space of a bay (R178). -/
def Team.accBytes (t : Team) (tiles bay a n : Nat) : List Byte :=
  (List.range n).map (fun i =>
    let b := a + i
    BitVec.ofNat 8 ((cellGet 0 t.acc (accKey tiles bay (b / 16384) (b % 16384 / 4))).toNat / 2 ^ (8 * (b % 4))))

/-- Write one byte of accumulator space. -/
def Team.setAccByte (t : Team) (tiles bay b : Nat) (v : Byte) : Team :=
  let k := accKey tiles bay (b / 16384) (b % 16384 / 4)
  let old := (cellGet 0 t.acc k).toNat
  let sh := 2 ^ (8 * (b % 4))
  { t with acc := cellSet 0 t.acc k (BitVec.ofNat 32 (old - old / sh % 256 * sh + v.toNat * sh))
           badPool := t.badPool.filter (· != (2 + bay, b)) }

/-- Write bytes of accumulator space. -/
def Team.setAcc (t : Team) (tiles bay a : Nat) (bs : List Byte) : Team :=
  (List.range bs.length).foldl (fun t i => t.setAccByte tiles bay (a + i) (bs.getD i 0)) t

/-- Whether some entry of a bay that names a tile, accepted before the request `before`, is unfinished (R178). -/
def State.tileBusy (s : State) (team : TeamId) (core bay tile before : Nat) : Bool :=
  (s.core core).fifo.any (fun e => e.wave.team == team && e.bay == bay && e.id < before && e.scal.head? == some tile &&
    match e.instr with | .vxm _ => false | _ => true)

/-- Which requests an accumulator access of a thread waits for: those before it began to wait (R178). -/
def tileBefore (s : State) (w : Wave) (l n : Nat) : Nat :=
  match (w.thread l).run with
  | .blocked (.tile m b) => if m == n then b else s.nextId
  | _ => s.nextId

/-- Whether a wave's team has itself written every byte of a range in its view (R295), so that none is read from memory. -/
def State.allOwn (s : State) (w : WaveId) (va n : Nat) : Bool :=
  s.ownBytes (s.viewOf w) va n

/-- The bytes of a VA that has translated, as a number in a team's view, or the first that cannot be read. -/
def State.viewNum (s : State) (c : Ctx) (own : Option (Nat × Nat)) (view : Option TeamId) (va n : Nat) : Nat :=
  match s.xlateAll c own va n .read with
  | .ok pas => ofBytes (s.viewBytes view va pas)
  | _ => 0
def State.unreadable (s : State) (c : Ctx) (own : Option (Nat × Nat)) (view : Option TeamId) (va n : Nat) : Option (Nat × Nat) :=
  if s.ownBytes view va n then none else
  match s.xlateAll c own va n .read with
  | .ok pas => s.badVa va pas
  | _ => none

end Sys2Proof.Machine
end

