-- ==== Sys2Proof/Machine/Reach.lean ====
section
/-!
DEFINITION. The accesses that engines make (09 R199, R202; 10 R223, R224; 15 R317, R320): whether one can be made, its reads and its writes,
and where the accesses that a converting entry held go.
-/
namespace Sys2Proof.Machine

/-- How an engine's access stands: it can be made, it is held, or it ends the work (R199, R202). -/
inductive Eng where
  | ok
  | wait (on : List (MissOn × Nat))
  | fault (cause va : Nat)
  deriving DecidableEq, Repr

/-- One access of an engine (R199, R223, R317, R320): translated, protected, checked against placement, and readable. -/
def State.engOne (s : State) (c : Ctx) (own : Option (Nat × Nat)) (view : Option TeamId) (acc : Acc) (a : Int) (n : Nat) : Eng :=
  let va := wrapN 64 a
  if a < 0 || a ≥ 2 ^ 56 then .fault cTranslation va else
  match s.xlateAll c own va n acc with
    | .fault _ cause v => .fault cause v
    | .wait on => .wait (on.map (fun m => (m, va)))
    | .ok _ =>
      if acc == .write && c.needsMcst va n then .fault cPlacement va
      else if (c.converting va n).isSome then .wait []
      else if acc == .write then .ok
      else match s.unreadable c own view va n with
        | some (v, _) => .fault cMachineCheck v
        | none => .ok

/-- What an access that is held waits for. -/
def Eng.waits : Eng → List (MissOn × Nat)
  | .wait on => on
  | _ => []

/-- Accesses together: the first that fails, else what they wait for. -/
def engJoin : Eng → Eng → Eng
  | .fault c v, _ => .fault c v
  | _, .fault c v => .fault c v
  | .wait a, .wait b => .wait (a ++ b)
  | .wait a, .ok => .wait a
  | .ok, r => r

/-- Several accesses of an engine. -/
def State.engAll (s : State) (c : Ctx) (own : Option (Nat × Nat)) (view : Option TeamId) (acc : Acc) (as : List (Int × Nat)) : Eng :=
  as.foldr (fun a r => engJoin (s.engOne c own view acc a.1 a.2) r) .ok

/-- Put a byte into a rising list. -/
def cellPut (l : List (Nat × Byte)) (a : Nat) (b : Byte) : List (Nat × Byte) := cellInsert a b (cellErase l a)

/-- Rising bytes as runs of consecutive addresses. -/
def runsOf : List (Nat × Byte) → List (Nat × List Byte)
  | [] => []
  | (a, b) :: l => match runsOf l with
    | (a', bs) :: rs => if a' == a + 1 then (a, b :: bs) :: rs else (a, [b]) :: (a', bs) :: rs
    | [] => [(a, [b])]

/-- Write bytes for an engine, run by run, into memory or a write set (R295, R400): the first byte of a partial write of a
retired block ends it (R223, R224). -/
def State.engWrite (s : State) (c : Ctx) (iss : Issuer) : List (Nat × List Byte) → Except Nat State
  | [] => .ok s
  | (va, bs) :: rs =>
    match s.xlateAll c (s.ownOf iss) va bs.length .write with
    | .ok pas =>
      let view := s.viewIss iss
      match (if view.isNone then s.partVa va pas else none) with
      | some a => .error a
      | none =>
        let s' := match s.viewWrite view va pas bs with
          | some s' => s'.updCtx c.asid (fun c => c.markWritten (s.ownOf iss) va bs.length)
          | none => match iss with
            | .wave w => s.postCause w.team (some w.wave) cNondeterministic va 0
            | .node _ _ => s
        s'.engWrite c iss rs
    | _ => s.engWrite c iss rs

/-- An engine's read of bytes as a number. -/
def State.engRead (s : State) (c : Ctx) (iss : Issuer) (a : Int) (n : Nat) : Nat :=
  s.viewNum c (s.ownOf iss) (s.viewIss iss) (wrapN 64 a) n

/-- The end of an engine's work that is told (R202, R223, R306): an uncorrectable error at a VA is logged. -/
def State.logCause (s : State) (asid cause va : Nat) : State := if cause == cMachineCheck then s.logVa asid va else s

/-- The accesses of a part of some work as they stand now (R320), and the read and the runs of bytes that follow them. -/
def Places.accs (p : Places) (as : List (Int × Nat)) : List (Int × Nat) :=
  if p.isEmpty then as else as.flatMap (fun a =>
    if p.meets (wrapN 64 a.1) a.2 then (p.spread (wrapN 64 a.1) a.2).map (fun q => ((q.1 : Int), q.2)) else [a])
def Places.read (p : Places) (rd : Int → Nat → Nat) (a : Int) (n : Nat) : Nat :=
  if p.meets (wrapN 64 a) n then ofBytes ((p.spread (wrapN 64 a) n).map (fun q => BitVec.ofNat 8 (rd (q.1 : Int) 1))) else rd a n
def Places.runs (p : Places) (runs : List (Nat × List Byte)) : List (Nat × List Byte) :=
  if p.isEmpty then runs else
  runsOf (runs.foldl (fun ov r => (List.range r.2.length).foldl (fun ov i => match p.of (r.1 + i) with
    | some a => cellPut ov a (r.2.getD i 0)
    | none => ov) ov) [])

/-- Several accesses of a part of some work, where they stand now (R320): those that an entry has released are held no more, and all wait
for what it released that had arrived before. -/
def State.engVia (s : State) (c : Ctx) (own : Option (Nat × Nat)) (view : Option TeamId) (acc : Acc) (work : Nat × Nat) (part : Nat)
    (as : List (Int × Nat)) : Eng :=
  let p := s.placesOf work part
  match (if p.isEmpty then none else as.findSome? (fun a => p.lost (wrapN 64 a.1) a.2)) with
  | some va => .fault cPlacement va
  | none =>
    let r := (p.accs as).foldr (fun a r => engJoin (s.engOne (s.viaCtx c work part (wrapN 64 a.1)) own view acc a.1 a.2) r) .ok
    if (p.accs as).any (fun a => s.behind work part c.asid (wrapN 64 a.1) a.2) then engJoin (.wait []) r else r

/-- A part of some work is held: an entry that converts keeps its accesses (R320). -/
def State.holdVia (s : State) (c : Ctx) (work : Nat × Nat) (part : Nat) (as : List (Int × Nat)) : State :=
  s.holdBytes c work part (as.map (fun a => (wrapN 64 a.1, a.2)))

end Sys2Proof.Machine
end

