-- ==== Sys2Proof/Machine/Place.lean ====
section
/-!
DEFINITION. Threads that block, accesses that a converting entry holds (15_fabric_placement.md R320), request slots (10 R207), the first
part of every global access of a wave (11 R226, R227; 12 R258; 15 R317), and uniform loads.
-/
namespace Sys2Proof.Machine

/-- Block threads of a wave at the instruction they stand at (R33). -/
def State.block (s : State) (w : WaveId) (ls : List Nat) (on : Wait) : State :=
  s.updWave w (fun w => w.updThreads ls (fun _ t => { t with run := .blocked on }))

/-- Whether a held access writes. -/
def heldWrites (i : Instr) : Bool :=
  match i with | .st _ | .mcst _ | .placeGet _ | .atom _ | .cas _ | .facc _ | .tex _ | .texq _ => true | _ => false

/-- An access held by a converting entry (R320): performed when the conversion ends, in order of arrival. `nums` holds the
entry, the VA, the length, the request it answers, and the bytes or operands it carries; a write marks its procedural block when it arrives
(R240). Without a request it keeps its request slots itself (R207). -/
def State.holdAccess (s : State) (core : Nat) (w : WaveId) (pc : DWord) (i : Instr) (ls : List Nat) (idx : Nat) (a : LaneAcc) (req : Nat)
    (data : List Nat) (slots : List SlotTok) : State :=
  let own := s.ownBlock w.team.grid
  let pas := match (s.ctx? (asidOf w)).map (fun c => s.xlateAll c own a.va a.n (if heldWrites i then .write else .read)) with
    | some (.ok ps) => ps.flatMap (fun p => (List.range p.2).map (p.1 + ·))
    | _ => []
  let s : State := { s with
    nextId := s.nextId + 1
    waiting := s.waiting ++ [{ id := s.nextId, wave := w, lanes := maskOf ls, pc := pc, instr := i, core := core,
                               nums := [idx, a.va, a.n, req] ++ data, since := 0, slots := slots,
                               spots := (List.range a.n).map (a.va + ·), pas := pas, freed := false }] }
  if heldWrites i then s.updCtx (asidOf w) (fun c => c.markWritten own a.va a.n) else s

/-- The aligned 512-byte ranges of VA that accesses touch, and the request slots they take, one for each (R207). -/
def slotRanges (as : List LaneAcc) : List Nat :=
  (as.flatMap (fun a => (List.range ((a.va % 512 + a.n + 511) / 512)).map (a.va / 512 + ·))).eraseDups
def slotsOf (as : List LaneAcc) : Nat := (slotRanges as).length

/-- The request slots of a core for accesses of the instruction that issues in a state (R207). -/
def State.toks (s : State) (core : Nat) (as : List LaneAcc) : List SlotTok := (slotRanges as).map (fun r => (core, s.nextId, r))

/-- The request slots of a core that are taken (R207): by requests, by accesses that are not acknowledged, and by those that an entry
which converts holds. -/
def State.slotsUsed (s : State) (core : Nat) : Nat :=
  ((s.reqs.flatMap (·.slots) ++ (s.core core).acks.flatMap (·.slots) ++ s.waiting.flatMap (·.slots)).filter (fun t => t.1 == core)).eraseDups.length

/-- The core and the bay of a wave. -/
def State.coreOf (s : State) (w : WaveId) : Nat := match s.wave? w with | some x => x.core | none => 0
def State.bayOf (s : State) (w : WaveId) : Nat := match s.wave? w with | some x => (if x.isLead then 0 else x.bay) | none => 0

/-- An access that a converting entry holds and whose threads wait for its value (R320), with the request slots it takes. -/
def State.holdValue (s : State) (x : Iss) (i : Instr) (h : LaneAcc × Nat) (slots : List SlotTok) (operands : List Nat) : State :=
  let (id, s) := s.newId
  (({ s with reqs := s.reqs ++ [{ id := id, wave := x.wid, core := x.w.core, bay := x.w.bay, slots := slots, carry := s.carryOf x.wid 1,
                                          kind := .value, fills := [] }] } :
    State).holdAccess x.w.core x.wid x.pc i [h.1.lane] h.2 h.1 id operands []).block x.wid (if x.uni then x.act else [h.1.lane]) (.reply id x.uni)

/-- The executing lanes whose held accesses have been performed (R320), each with its value; `none` where it raised a cause. -/
def Iss.answers (x : Iss) (s : State) : List (Nat × Option Nat) :=
  x.lanes.filterMap (fun l => match (x.w.thread l).run with
    | .blocked (.reply id _) => some (l, (s.reqs.find? (fun r => r.id == id)).bind (fun r => r.fills.head?.map (·.val.toNat)))
    | _ => none)

/-- Those lanes' requests are over. -/
def State.endAnswers (s : State) (x : Iss) : State :=
  { s with reqs := s.reqs.filter (fun r => !x.lanes.any (fun l => match (x.w.thread l).run with
      | .blocked (.reply id _) => id == r.id
      | _ => false)) }

/-- What the first part of a global access yields: the state with parked and blocked lanes, the lanes that stay at the
instruction, the lanes that access with their PAs, and those that a converting entry holds. -/
structure Phase where
  s : State
  stay : List Nat
  go : List (LaneAcc × List (Nat × Nat))
  held : List (LaneAcc × Nat)

/-- Whether requests of the wave's load that is to be performed wait at the pseudo-channels: a load whose value returns in the step that
performs it waits at issue for them, so that their misses are counted first (R217). -/
def Iss.atChannel (x : Iss) (s : State) : Bool := s.atChannel (.scalar x.wid)

/-- The steps from translation to placement, ownership, conversion and request slots, for the lanes of a global access (R207, R226,
R227, R258, R317, R320): a cause, or what each lane does. With too few free slots the wave waits at issue (R207; log 80). -/
def State.phase (s : State) (x : Iss) (as : List LaneAcc) (acc : Acc) (place : Ctx → LaneAcc → Bool) : Except Res Phase :=
  match s.ctx? (asidOf x.wid), s.xlateLanes x as acc with
  | none, _ => .error (.go s x.act)
  | _, .stop r => .error r
  | some c, .ok done miss =>
    match (done.map (·.1)).filter (place c) with
    | a :: bs => .error (.trap cPlacement (x.fallsOn ((a :: bs).map (·.lane))) a.va)
    | [] =>
      let (s1, stay) := s.parkMisses x (acc == .write) miss
      let own := done.filter (fun d => s.owned c.asid d.1.va d.1.n)
      let free := done.filter (fun d => !s.owned c.asid d.1.va d.1.n)
      let s2 := match own with
        | [] => s1
        | o :: _ => s1.block x.wid (if x.uni then x.act else own.map (·.1.lane)) (.owned o.1.va o.1.n)
      let stay := stay ++ (if own.isEmpty then [] else if x.uni then x.act else own.map (·.1.lane))
      if s.slotsUsed x.w.core + slotsOf (free.map (·.1)) > 768 then .error (.hold s none (some (.slots (slotsOf (free.map (·.1)))))) else
      .ok { s := s2, stay := stay, go := free.filter (fun d => (c.converting d.1.va d.1.n).isNone),
            held := free.filterMap (fun d => (c.converting d.1.va d.1.n).map (fun i => (d.1, i))) }

/-- A uniform load of a wave: a descriptor, block or record read at issue (R139, R184, R190, R369). -/
inductive ULoad where
  | ok (v : Nat)
  | res (r : Res)

/-- The bytes of a lane's reads that an entry held at the group's instruction and that have been read since (R320), by VA. -/
def Iss.seen (x : Iss) (l : Nat) : List (Nat × Option Byte) := ((x.w.thread l).seen.filter (fun b => b.1 == x.pc)).map (·.2)

/-- Whether such a byte raised a cause, for which the instruction has no effect; the parts of a range that are still to be read; and its
bytes, those still to be read as `rest` gives them. -/
def seenLost (seen : List (Nat × Option Byte)) (va n : Nat) : Bool := seen.any (fun b => va ≤ b.1 && b.1 < va + n && b.2.isNone)
def seenRest (seen : List (Nat × Option Byte)) (va n : Nat) : List (Nat × Nat) :=
  if !seen.any (fun b => va ≤ b.1 && b.1 < va + n) then [(va, n)]
  else ((List.range n).filter (fun i => !seen.any (fun b => b.1 == va + i))).map (fun i => (va + i, 1))
def seenBytes (seen : List (Nat × Option Byte)) (va n : Nat) (rest : Nat → Nat → List Byte) : List Byte :=
  if !seen.any (fun b => va ≤ b.1 && b.1 < va + n) then rest va n
  else (List.range n).flatMap (fun i => match seen.find? (fun b => b.1 == va + i) with
    | some (_, some b) => [b]
    | _ => rest (va + i) 1)

/-- An access that an instruction makes at issue is held by an entry that converts (R320): it is made when the conversion has ended, and its
threads wait for that. -/
def State.holdStay (s : State) (x : Iss) (i : Instr) (ls : List Nat) (a : LaneAcc) (idx : Nat) (data : List Nat) (slots : List SlotTok) : State :=
  let s := s.holdAccess x.w.core x.wid x.pc i ls idx a 0 data slots
  ls.foldl (fun s l => s.block x.wid [l] (.convert l)) s

/-- A read of that kind; it stands under the event that makes it. -/
def State.holdRead (s : State) (x : Iss) (ls : List Nat) (a : LaneAcc) (idx : Nat) : State :=
  s.holdStay x (.conversionEnd (asidOf x.wid) idx) ls a idx [] []

/-- Whether the threads of a held access stand at its instruction until it is made. -/
def heldStays (i : Instr) : Bool := match i with | .conversionEnd _ _ | .placeGet _ => true | _ => false

/-- Read `n` bytes at a uniform VA like a load of the wave, in the team's view: the group parks on a miss, and waits for an engine that
owns a line or for an entry that converts (R226, R258, R320). DEDUCED (log 81): `TMASK` of a fault of it names every active
lane, as of a uniform instruction. -/
def State.uload (s : State) (x : Iss) (va n : Nat) : ULoad :=
  let seen := x.seen x.first
  match seenLost seen va n, s.xlateLanes { x with uni := true } ((seenRest seen va n).map (fun p => { lane := x.first, va := p.1, n := p.2 })) .read,
      s.ctx? (asidOf x.wid) with
  | true, _, _ => .res (.go s [])
  | false, .stop r, _ => .res r
  | false, .ok _ ((a, on) :: _), _ => .res (.go (s.park x.wid false (x.act.map (fun l => (l, a.va, on)))) x.act)
  | false, .ok ds [], some c =>
    if x.atChannel s then .res (.hold s none (some .channel))
    else if ds.any (fun d => s.owned c.asid d.1.va d.1.n) then .res (.go (s.block x.wid x.act (.owned va n)) x.act)
    else match ds.filterMap (fun d => (c.converting d.1.va d.1.n).map (fun k => (d.1, k))) with
      | h :: hs => .res (.go ((h :: hs).foldl (fun s h => s.holdRead x x.act h.1 h.2) s) x.act)
      | [] => match ds.findSome? (fun d => if s.allOwn x.wid d.1.va d.1.n then none else s.badVa d.1.va d.2) with
        | some (bad, pa) => .res (.check [pa] x.actMask bad [])
        | none => .ok (ofBytes (seenBytes seen va n (fun a k => match ds.find? (fun d => d.1.va == a && d.1.n == k) with
            | some d => s.viewBytes (s.viewOf x.wid) a d.2
            | none => [])))
  | _, _, _ => .res (.go s x.act)

end Sys2Proof.Machine
end

