-- ==== Sys2Proof/Machine/Fetch.lean ====
section
/-!
DEFINITION. Instruction lines (03_instruction_formats.md R65 to R71): the fetch of a line with its checks, and the `TGT` check of
a transfer.
-/
namespace Sys2Proof.Machine

/-- A slot of a line (R65). -/
def lineSlot (line : BitVec 512) (i : Nat) : Slot := line.extractLsb' (96 * i) 96

/-- The line word (R66). -/
def lineWord (line : BitVec 512) : Nat := field line 511 480

/-- Whether both parity fields agree with the line (R67). -/
def lineParityOk (line : BitVec 512) : Bool :=
  let w := lineWord line
  oddParity 31 w == w.testBit 31 &&
    (List.range 5).all (fun i => oddParity 96 (lineSlot line i).toNat == w.testBit (26 + i))

/-- Whether the line-word fields pass (R68). -/
def lineFieldsOk (line : BitVec 512) : Bool :=
  let w := lineWord line
  nfield w 25 9 == 0 && !((w.testBit 5 && w.testBit 6) || (w.testBit 6 && w.testBit 7) || (w.testBit 7 && w.testBit 8))

/-- How the fetch of a line ends: the line, a cause, or misses. -/
inductive LineRes where
  | ok (line : BitVec 512) (s : State)
  | bad (cause : Nat) (s : State)
  | miss (on : List MissOn)

/-- The line of a line number that a core's instruction cache holds (R208). -/
def Core.line? (c : Core) (asid n : Nat) : Option (BitVec 512) := (c.icache.find? (fun e => e.1 == asid && e.2.1 == n)).map (·.2.2)

/-- The lines of an instruction cache, 128 KiB (R1), and the cache with one more; which one a full cache gives up is free (log 5). -/
def icacheLines : Nat := 2048
def Core.keepLine (c : Core) (e : Nat × Nat × BitVec 512) (victim : Nat) : Core :=
  { c with icache := (if c.icache.length < icacheLines then c.icache else c.icache.eraseIdx (victim % c.icache.length)) ++ [e] }

/-- Fetch a line: from the instruction cache, or through translation and the checks of R68. The second fetch that a parity
failure takes reads the same bytes. -/
def State.fetchLine (s : State) (core asid n : Nat) : LineRes :=
  match (s.core core).line? asid n with
  | some l => .ok l s
  | none =>
    match s.ctx? asid with
    | none => .bad cTranslation s
    | some c =>
      match s.xlateAll c none (64 * n) 64 .fetch with
      | .fault _ cause va => .bad cause (if cause == cMachineCheck then s.logVa asid va else s)
      | .wait on => .miss on
      | .ok pas =>
        match s.badPas pas with
        | some pa => .bad cMachineCheck (s.logBad pa)
        | none =>
          let line : BitVec 512 := BitVec.ofNat 512 (ofBytes (s.readPas pas))
          if !lineParityOk line then .bad cLineParity s
          else if !lineFieldsOk line then .bad cIllegalLine s
          else .ok line { s.updCore core (fun k => k.keepLine (asid, n, line) (Config.freeNat s.fresh)) with fresh := s.fresh + 1 }

/-- How the `TGT` check of a transfer ends (R71). -/
inductive TgtRes where
  | ok (s : State)
  | clear
  | bad (cause addr : Nat) (s : State)
  | miss (on : List MissOn)

/-- The `TGT` check of one target; a PC that R69 rejects is not fetched. -/
def State.checkTgt (s : State) (core asid pc : Nat) : TgtRes :=
  if pcBad pc then .ok s else
  match s.fetchLine core asid (pc / 64) with
  | .ok line s => if (lineWord line).testBit (pc % 8) then .ok s else .clear
  | .bad cause s => .bad cause (pc / 64 * 64) s
  | .miss on => .miss on

/-- The check over several lanes with their targets: what fails first in lane order, the lanes with a clear bit, and the
lanes that miss. -/
structure Targets where
  s : State
  bad : Option (Nat × Nat)
  clear : List (Nat × Nat)
  miss : List (Nat × List MissOn)

def State.checkTgts (s : State) (core asid : Nat) : List (Nat × Nat) → Targets
  | [] => { s := s, bad := none, clear := [], miss := [] }
  | (l, pc) :: ls =>
    match s.checkTgt core asid pc with
    | .ok s => s.checkTgts core asid ls
    | .clear => let r := s.checkTgts core asid ls; { r with clear := (l, pc) :: r.clear }
    | .bad cause addr s => let r := s.checkTgts core asid ls; { r with bad := some (cause, addr) }
    | .miss on => let r := s.checkTgts core asid ls; { r with miss := (l, on) :: r.miss }

/-- The PA at which the fetch of a line meets an uncorrectable error (R223): of a table entry, or of the line. -/
def State.lineBad (s : State) (asid n : Nat) : List Nat :=
  match s.ctx? asid with
  | none => []
  | some c => match s.xlateAll c none (64 * n) 64 .fetch with
    | .fault _ _ va => (s.walkBad c va).toList
    | .ok pas => (s.badPas pas).toList
    | .wait _ => []

/-- Whether a wave's fetch of a line is a request that waits at a pseudo-channel: its misses are counted before its reply (R217). -/
def State.lineWaits (s : State) (core : Nat) (w : WaveId) (n : Nat) : Bool :=
  s.atChannel (.fetch w) && ((s.core core).line? (asidOf w) n).isNone

/-- Transfer lanes to their targets (R393, R438): the checks of R71, then the effect. DESIGN CHOICE (log 119): where lanes name several
lines, the first failure in lane order is raised, on all lanes that would transfer, and a failed fetch comes before a clear `TGT` bit and
that before a miss. -/
def transfer (x : Iss) (s : State) (targets : List (Nat × Nat)) (go : State → Res) : Res :=
  if targets.any (fun p => !pcBad p.2 && s.lineWaits x.w.core x.wid (p.2 / 64)) then .hold s none (some .channel) else
  let t := s.checkTgts x.w.core (asidOf x.wid) targets
  let all := maskOf (targets.map (·.1))
  match t.bad with
  | some (cause, addr) => if cause == cMachineCheck then .check (s.lineBad (asidOf x.wid) (addr / 64)) all addr [] else .trap cause all addr
  | none =>
    match t.clear with
    | c :: cs => .trap cBranchTarget (maskOf ((c :: cs).map (·.1))) c.2
    | [] =>
      match t.miss with
      | [] => go t.s
      | m :: _ =>
        .go (t.s.park x.wid false (targets.map (fun p => (p.1, p.2 / 64 * 64, m.2)))) (targets.map (·.1))

end Sys2Proof.Machine
end

