-- ==== Sys2Proof/Machine/Barriers.lean ====
section
/-!
DEFINITION. Join barriers (02 R39 to R42), team barriers (19 R387 to R389), the merge point (14 R296), the end of threads and
waves (02 R30; 20 R415), and the rule that an effect of a redundant team is performed once (14 R301).
-/
namespace Sys2Proof.Machine

/-- End some waits of a thread, wherever its run state stands: live, or saved by an entry at level 1 or 2 (R338). A thread
whose wait ends goes to the next PC. -/
def Thread.passWait (t : Thread) (lvl : Nat) (hit : Wait → Bool) : Thread :=
  let hits (r : Run) : Bool := match r with | .blocked w => hit w | _ => false
  let t := if hits t.run then { t with run := .ready, pc := nextPc t.pc } else t
  let t := if lvl ≥ 1 && hits t.saved1 then { t with saved1 := .ready, tret1 := nextPc t.tret1 } else t
  if lvl ≥ 2 && hits t.saved2 then { t with saved2 := .ready, tret2 := nextPc t.tret2 } else t

/-- A thread's wait for the other copy at an instruction ends, live or saved: past the instruction, or ready to issue it anew (R301). -/
def Thread.endCopy (t : Thread) (lvl : Nat) (pc : DWord) (past : Bool) : Thread :=
  let hits (r : Run) (p : DWord) : Bool := r == .blocked .copy && p == pc
  let next := if past then nextPc pc else pc
  let t := if hits t.run t.pc then { t with run := .ready, pc := next } else t
  let t := if lvl ≥ 1 && hits t.saved1 t.tret1 then { t with saved1 := .ready, tret1 := next } else t
  if lvl ≥ 2 && hits t.saved2 t.tret2 then { t with saved2 := .ready, tret2 := next } else t

/-- Change the waits of a thread in place. -/
def Thread.mapWait (t : Thread) (lvl : Nat) (f : Wait → Wait) : Thread :=
  let g (r : Run) : Run := match r with | .blocked w => .blocked (f w) | r => r
  { t with run := g t.run, saved1 := if lvl ≥ 1 then g t.saved1 else t.saved1, saved2 := if lvl ≥ 2 then g t.saved2 else t.saved2 }

/-- Whether a thread waits so, live or saved. -/
def Thread.waits (t : Thread) (lvl : Nat) (hit : Wait → Bool) : Bool :=
  let hits (r : Run) : Bool := match r with | .blocked w => hit w | _ => false
  hits t.run || (lvl ≥ 1 && hits t.saved1) || (lvl ≥ 2 && hits t.saved2)

/-- A join barrier of a wave. -/
def Wave.join (w : Wave) (j : Nat) : Join := cellGet Join.none w.joins j
def Wave.setJoin (w : Wave) (j : Nat) (b : Join) : Wave := { w with joins := cellSet Join.none w.joins j b }

/-- The run states of a thread, live and saved. -/
def Thread.runs (t : Thread) (lvl : Nat) : List Run :=
  t.run :: ((if lvl ≥ 1 then [t.saved1] else []) ++ (if lvl ≥ 2 then [t.saved2] else []))

/-- The waiting threads of a join barrier proceed, their predicates set or cleared (R41). -/
def Wave.joinGo (w : Wave) (j : Nat) (value : Bool) : Wave :=
  let hit (x : Wait) : Bool := match x with | .rcv k _ => k == j | _ => false
  let ps := w.lanes.flatMap (fun l => ((w.thread l).runs w.tlevel).filterMap (fun r => match r with
    | .blocked (.rcv k p) => if k == j then some (l, p) else none
    | _ => none))
  let w := ps.foldl (fun w p => w.setPred p.1 p.2 value) w
  w.updThreads w.lanes (fun _ t => t.passWait w.tlevel hit)

/-- The release check of R41 for one barrier. -/
def Wave.joinRelease (w : Wave) (j : Nat) : Wave :=
  let b := w.join j
  if (b.arr ||| b.ext) != 0 && (b.arr ||| b.ext) &&& b.exp == b.exp && !w.someParked then
    (w.joinGo j false).setJoin j { b with arr := 0, ext := 0, bnd := 0, cnt := 0, wdc := 0, young := false }
  else w

/-- The release check of every join barrier. -/
def Wave.joinReleases (w : Wave) : Wave := (List.range 16).foldl (fun w j => w.joinRelease j) w

/-- The team's barriers. -/
def Team.bar (t : Team) (n : Nat) : TeamBar := cellGet TeamBar.none t.bars n
def Team.setBar (t : Team) (n : Nat) (b : TeamBar) : Team := { t with bars := cellSet TeamBar.none t.bars n b }

/-- The bits of waves that have retired, and of a lead thread that has executed `EXIT` (R389). -/
def Team.goneBits (t : Team) : BitVec 33 := (t.gone.setWidth 33) ||| (if t.leadEnded then 1#33 <<< 32 else 0)

/-- Every participant of a team: its waves, and its lead thread if it holds one (R387). -/
def Team.everyone (t : Team) : BitVec 33 :=
  BitVec.ofNat 33 (2 ^ t.nwaves - 1 + (if t.hasLead then 2 ^ 32 else 0))

/-- The threads of a wave that wait in `BAR` on a barrier and whose arrival is not counted. -/
def Wave.waitBar (w : Wave) (n : Nat) (arrived : Bool) : List Nat :=
  w.lanes.filter (fun l => (w.thread l).run == .blocked (.bar n arrived))

/-- Release a team barrier where R389 allows it: the counted threads of every wave proceed. The second value says whether
it did. -/
def State.barRelease (s : State) (tid : TeamId) (n : Nat) : Bool × State :=
  match s.team? tid with
  | none => (false, s)
  | some t =>
    let b := t.bar n
    match b.mask with
    | none => (false, s)
    | some m =>
      if (b.arr &&& m) == m && b.eng ≥ b.xs then
        let s := s.updTeam tid (fun t => t.setBar n { b with mask := none, arr := 0, xs := 0, eng := (b.eng - b.xs) % 2 ^ 64 })
        (true, { s with waves := s.waves.map (fun w => if w.id.team = tid then
          w.updThreads w.lanes (fun _ t => t.passWait w.tlevel (· == .bar n true)) else w) })
      else (false, s)

/-- Whether a wave's arrival on a barrier is complete (R47, R389): every thread that has not ended has executed `BAR` or
`.ARV` in the phase, and none is parked. -/
def arrivalDone (t : Team) (w : Wave) (n : Nat) : Bool :=
  let arv := match (t.bar n).arvs.find? (fun p => p.1 == w.id.wave) with | some p => p.2 | none => 0
  (t.bar n).ops.any (fun p => p.1 == w.id.wave) && !w.someParked && !w.live.isEmpty &&
    w.live.all (fun l => (w.thread l).run == .blocked (.bar n false) || arv.getLsbD l)

/-- The arrival of a wave, when it is complete and not yet counted in the phase (R389): recorded, or refused with a cause. -/
def State.barArrive (s : State) (wid : WaveId) (n : Nat) : State :=
  match s.team? wid.team, s.wave? wid with
  | some t, some w =>
    let b := t.bar n
    if w.tlevel ≥ 1 || b.arr.getLsbD wid.wave || !arrivalDone t w n then s else
    match b.ops.find? (fun p => p.1 == wid.wave) with
    | none => s
    | some (_, m, a) =>
      let mask : BitVec 33 := BitVec.ofNat 33 m &&& ~~~t.goneBits
      let drop (b : TeamBar) : TeamBar :=
        { b with ops := b.ops.filter (fun p => p.1 != wid.wave), arvs := b.arvs.filter (fun p => p.1 != wid.wave) }
      if !mask.getLsbD wid.wave || (match b.mask with | some k => k != mask | none => false) then
        if t.halted.isSome then s else
        let ls := w.waitBar n false
        let s := s.updTeam wid.team (fun t => t.setBar n (drop b))
        (s.updWave wid (fun w => w.updThreads ls (fun _ t => { t with run := .ready }))).raisePrecise wid cIllegalOperand (maskOf ls) mask.toNat
      else
        let s := s.updTeam wid.team (fun t =>
          t.setBar n (drop { b with mask := some mask, arr := b.arr ||| (1#33 <<< wid.wave), xs := (b.xs + a) % 2 ^ 64 }))
        s.updWave wid (fun w => w.updThreads w.lanes (fun _ t => t.mapWait w.tlevel (fun x => if x = .bar n false then .bar n true else x)))
  | _, _ => s

/-- Arrivals of a team's waves on a barrier, one at a time and each followed by the release check, after that of what went before (R389),
until none is left to make; `fuel` bounds the rounds. -/
def State.barSettle (s : State) (tid : TeamId) (n : Nat) : Nat → State
  | 0 => s
  | fuel + 1 =>
    let (go, s) := (s.wavesOf tid).foldl (fun (r : Bool × State) w =>
      let (more, s) := (r.2.barArrive w.id n).barRelease tid n
      (r.1 || more, s)) (s.barRelease tid n)
    if go then s.barSettle tid n fuel else s

/-- After any event of a team: all its barriers. -/
def State.bars (s : State) (tid : TeamId) : State := (List.range 16).foldl (fun s n => s.barSettle tid n 34) s

/-- An engine arrival on a team barrier (R389). -/
def State.engineArrive (s : State) (tid : TeamId) (n : Nat) : State :=
  (s.updTeam tid (fun t => t.setBar n { t.bar n with eng := ((t.bar n).eng + 1) % 2 ^ 64 })).barSettle tid n 34

/-- Whether a wave has arrived at the merge point: every thread that has not ended has executed `MERGE`, none parked (R455). -/
def Wave.atMerge (w : Wave) : Bool := !w.live.isEmpty && !w.someParked && w.live.all (fun l => (w.thread l).run == .blocked .merge)

/-- Whether a team has arrived (R296): every wave that has not ended, and its lead thread. -/
def State.teamMerged (s : State) (t : Team) : Bool :=
  (s.wavesOf t.id).all (fun w => w.live.isEmpty || w.atMerge)

/-- Whether every team of a grid has arrived, some of them waiting, and every access that an entry holds is made: what it defers belongs to
the episode in which it issued (R162, R320). -/
def State.gridMerged (s : State) (g : GridId) : Bool :=
  let ts := s.teams.filter (fun t => t.id.grid == g)
  ts.all (fun t => s.teamMerged t) && s.waves.any (fun w => w.id.team.grid == g && w.atMerge) &&
    s.waiting.all (fun r => r.wave.team.grid != g || r.nums.length < 4) &&
    match s.grid? g with | some x => x.unplaced.isNone | none => false

/-- Make the merge due when every team has arrived. -/
def State.mergeDue (s : State) (g : GridId) : State :=
  if s.gridMerged g && !s.due.contains (.mergePerform g) then s.pushDue (.mergePerform g) else s

/-- The other copy of a redundant team (R299). -/
def TeamId.twin (t : TeamId) : TeamId := { t with copy := 1 - t.copy }
def twinOf (w : WaveId) : WaveId := { w with team := TeamId.twin w.team }

/-- Whether a team is the copy of a redundant team on the higher core, whose decision queue is that of its twin (R301, R413; log 25). -/
def State.secondCopy (s : State) (t : Team) : Bool :=
  t.red && (s.team? (TeamId.twin t.id)).any (fun b => b.core < t.core)

/-- Whether a team's claims wait for values of its twin's lead thread (R413). -/
def State.fedByTwin (s : State) (tid : TeamId) : Bool :=
  (s.team? tid).any s.secondCopy && (s.team? (TeamId.twin tid)).any (fun b => !b.leadEnded)

/-- Whether an S-form claim of the decision queue holds its entry until the wave issues again: a fill of code 512. -/
def Req.hasDecision (r : Req) : Bool := r.fills.head?.map (fun f => f.code) == some 512

/-- Claims of the decision queue that the lead thread's end leaves without an entry: their pairs stay empty and are marked
failed (R412). The claims of a redundant team have one queue, whose lead thread is that of the copy on the lower core (R413). -/
def State.failClaims (s : State) (tid : TeamId) : State :=
  if s.fedByTwin tid then s else
  let mine := s.reqs.filter (fun r => r.wave.team == tid && match r.kind with | .decision _ => !r.hasDecision | _ => false)
  let lost := s.reqs.filter (fun r => mine.any (fun q => q.id == r.id))
  let s := lost.foldl (fun s r => s.updWave r.wave (fun w =>
    let ks := (w.empties.filter (fun p => p.2 == r.id)).map (·.1)
    { w with empties := w.empties.filter (fun p => p.2 != r.id), failed := w.failed ++ ks })) s
  { s with reqs := s.reqs.filter (fun r => !lost.any (fun q => q.id == r.id)) }

/-- Free the decision-queue entries that no wave has still to claim (R55). -/
def Team.sweep (t : Team) : Team :=
  { t with decisions := (t.decisions.map (fun d => { d with mask := d.mask &&& ~~~t.gone })).filter (fun d => d.mask != 0) }

/-- A wave retires, or a lead thread ends (R30, R389, R412, R415): it leaves every barrier and decision entry. -/
def State.waveEnds (s : State) (wid : WaveId) : State :=
  let bit : BitVec 33 := 1#33 <<< wid.wave
  let s := s.updTeam wid.team (fun t =>
    let t := if wid.wave = 32 then { t with leadEnded := true } else { t with gone := t.gone ||| (1#32 <<< wid.wave) }
    let t := (List.range 16).foldl (fun t n => t.setBar n { t.bar n with
      mask := (t.bar n).mask.map (fun m => m &&& ~~~bit)
      ops := (t.bar n).ops.filter (fun p => p.1 != wid.wave)
      arvs := (t.bar n).arvs.filter (fun p => p.1 != wid.wave) }) t
    t.sweep)
  let s := if wid.wave = 32 then s.failClaims wid.team else s
  ((s.bars wid.team).mergeDue wid.team.grid).pushDue (.teamRetirement wid.team)

/-- After a thread of a wave has ended, waited or come back: releases of its join barriers, of its team's barriers and the
merge. -/
def State.settle (s : State) (wid : WaveId) : State :=
  ((s.updWave wid Wave.joinReleases).bars wid.team).mergeDue wid.team.grid

/-- After threads of a wave have ended or come back (R30, R344, R415): with one left its waits are settled; with none left the wave
retires, or a handler wave ends its team. -/
def State.afterEnd (s : State) (wid : WaveId) : State :=
  match s.wave? wid, s.team? wid.team with
  | some w, some t =>
    if !w.live.isEmpty then s.settle wid
    else if w.tlevel ≥ 1 then
      let stop (w : Wave) : Wave :=
        { (w.updThreads w.lanes (fun _ t => { t with run := .ended, saved1 := .ended, saved2 := .ended })) with
          hold := none
          halt := .running
          tlevel := 0
          empties := [] }
      let s := s.dropReqs (fun r => r.wave.team == t.id)
      let s := { s.updTeam t.id (fun t => { t with ended := true, pending := [], halted := none }) with
        waves := s.waves.map (fun (w : Wave) => if w.id.team = t.id then stop w else w)
        waiting := s.waiting.filter (fun (x : Waiting) => x.wave.team != t.id || x.nums.length ≥ 4) }
      let s := s.updTeam t.id (fun t => { t with gone := BitVec.ofNat 32 (2 ^ t.nwaves - 1), leadEnded := t.hasLead })
      let s := if t.red && (s.team? (TeamId.twin t.id)).any (·.leadEnded) then s.failClaims (TeamId.twin t.id) else s
      let b := if w.tlevel == 2 then w.bank2 else w.bank1
      let s := s.updGrid t.id.grid (fun g => { g with endedBy := g.endedBy.or (some (b.cause, b.addr.toNat, t.id.team, wid.wave)) })
      (s.mergeDue t.id.grid).pushDue (.teamRetirement t.id)
    else s.waveEnds wid
  | _, _ => s

/-- End threads of a wave (R415, R416): pending values of theirs are dropped. -/
def State.endThreads (s : State) (wid : WaveId) (ls : List Nat) : State :=
  let m := maskOf ls
  (s.updWave wid (fun w =>
    let w := w.updThreads ls (fun _ t => { t with run := .ended, loop := [] })
    let w := { w with empties := w.empties.filter (fun p => !ls.contains (vkeyLane p.1)) }
    (List.range 16).foldl (fun w j =>
      let b := w.join j
      w.setJoin j { b with ext := b.ext ||| (b.exp &&& m) }) w)).afterEnd wid

/-- Copy the destination registers of an instruction from one wave to its twin, with the requests that will fill them. -/
def State.copyDst (s : State) (a b : WaveId) (i : Instr) (ls : List Nat) (reqs : List Req) : State :=
  match s.wave? a with
  | none => s
  | some wa =>
    let ds := (operandsOf i).filter (·.dst)
    let s := s.updWave b (fun w => ds.foldl (fun w o =>
      if o.isV then ls.foldl (fun w l => (List.range o.count).foldl (fun w k =>
          let key := vkey l (o.code + k)
          let w := w.setV l (o.code + k) (wa.vreg l (o.code + k))
          { w with empties := w.empties ++ wa.empties.filter (fun p => p.1 == key) }) w) w
      else w.writeReg 0 o.code 2 (wa.readReg 0 o.code 2)) w)
    { s with reqs := s.reqs ++ (reqs.filter (fun r => r.wave == a)).map (fun r => { r with wave := b }) }

/-- A group of a wave as the copies of a redundant team tell of it: its wave, its PC and its active lanes, and the operands. -/
def Iss.meeting (x : Iss) (operands : List Nat) : Nat × List Nat := (x.wid.wave, x.pc.toNat :: x.actMask.toNat :: operands)

/-- Whether such a record is of the group's wave, at its PC, and has a lane of it: the same effect of the same threads. -/
def Iss.meets (x : Iss) (p : Nat × List Nat) : Bool :=
  p.1 == x.wid.wave && p.2.headD 0 == x.pc.toNat && BitVec.ofNat 32 (p.2.getD 1 0) &&& x.actMask != 0

/-- Forget that a group of a wave of a redundant team and its twin have met at an instruction (R301). -/
def State.unmeet (s : State) (x : Iss) : State :=
  let drop (t : Team) : Team := { t with meet := t.meet.filter (fun p => !x.meets p) }
  (s.updTeam x.wid.team drop).updTeam (TeamId.twin x.wid.team) drop

/-- The copies of a redundant team go on past the instruction that one of them has performed (R301): its results are copied
to the other, and the one that waited for its twin proceeds. -/
def State.twinGo (s : State) (x : Iss) (i : Instr) (before : Nat) : State :=
  match s.team? x.wid.team with
  | none => s
  | some t =>
    if !t.red then s else
    let s := (s.copyDst x.wid (twinOf x.wid) i x.act (s.reqs.filter (fun r => r.id ≥ before))).unmeet x
    let go (w : Wave) : Wave := w.updThreads x.act (fun _ t => t.endCopy w.tlevel x.pc true)
    (s.updWave x.wid go).updWave (twinOf x.wid) go

/-- The twin of a copy stands at the instruction no longer waiting for it, its threads ready to issue it (R301). -/
def State.freeTwin (s : State) (x : Iss) : State :=
  (s.unmeet x).updWave (twinOf x.wid) (fun w => w.updThreads x.act (fun _ t => t.endCopy w.tlevel x.pc false))

/-- The group as the copy that performs a shared effect issues it: that on the lower core (R301). -/
def State.performer (s : State) (x : Iss) : Iss :=
  match s.team? x.wid.team, s.wave? (twinOf x.wid) with
  | some t, some wb => if !t.red || t.core ≤ wb.core then x else { x with wid := wb.id, w := wb, group := x.act }
  | _, _ => x

/-- A precise cause of an effect that both copies share is raised on both (R301), on the twin where its wave has not stopped. -/
def State.raiseBoth (s : State) (x : Iss) (raise : WaveId → State → State) : State :=
  let s := raise x.wid (s.freeTwin x)
  match s.wave? (twinOf x.wid) with
  | some b => if b.halt == .stopped then s else raise b.id s
  | none => s

/-- An effect that a redundant team performs once, by the copy on the lower core, after both copies have reached it with
equal operands (R301): its results, its causes and its waits are both copies'. Unequal operands raise `REDUNDANCY_MISMATCH` on both; DESIGN
CHOICE (log 117): its `TADDR` is 0, the active lanes count among the operands, and both copies then stand at the instruction and issue it
anew. -/
def together (i : Instr) (operands : List Nat) (act : Iss → State → Res) (x : Iss) (s : State) : Res :=
  match s.team? x.wid.team, s.wave? (twinOf x.wid) with
  | some t, some wb =>
    if !t.red then act x s else
    match (s.team? wb.id.team).bind (fun u => u.meet.find? x.meets) with
    | none =>
      let s := s.updTeam t.id (fun t => { t with meet := (t.meet.filter (fun p => !x.meets p)) ++ [x.meeting operands] })
      .go (s.block x.wid x.act .copy) x.act
    | some theirs =>
      if theirs != x.meeting operands then
        .go (((s.freeTwin x).postCause t.id (some x.wid.wave) cRedundancy 0 0).postCause wb.id.team (some x.wid.wave) cRedundancy 0 0) x.act
      else
        let y := s.performer x
        match act y s with
        | .go s' stay => if stay.isEmpty then .go (s'.twinGo y i s.nextId) stay else .go s' stay
        | .trap cause m a => .jump (s.raiseBoth x (fun w s => s.raisePrecise w cause m a))
        | .check pas m a es => .jump ((pas.foldl State.logBad s).raiseBoth x (fun w s => s.raiseCheck w [] m a es))
        | .jump s' => if y.wid = x.wid then .jump s' else .go (s'.block x.wid x.act .copy) x.act
        | r => r
  | _, _ => act x s

end Sys2Proof.Machine
end

