-- ==== Sys2Proof/Machine/Integer.lean ====
section
/-!
DEFINITION. The integer and logic instructions (19 R379 to R381, 20 R433 to R436, 21 R456, 22 R477): each the shared
operation of its entry over the operand forms of format R or I, its results and exceptions handled by R129.
-/
namespace Sys2Proof.Machine

/-- The immediate of format I as a 64-bit pattern: sign-extended for I types, zero-extended otherwise (R78). -/
def immVal (t : Nat) (imm : BitVec 32) : Nat := if t < 4 then wrapN 64 imm.toInt else imm.toNat

/-- An integer operation of two typed operands, format R. -/
def int2 (f : FmtR) (g : Nat → Int → Int → Int × BitVec 6) (x : Iss) (s : State) : Res :=
  let t := tyS f.ty
  arith x s (fun l =>
    let r := g t (intVal t (x.rd l f.a (words t))) (intVal t (x.rd l f.b (words t)))
    LaneOut.one f.d.toNat (words t) (extendTo 64 t r.1) r.2)

/-- The same with an immediate second operand, format I. -/
def int2i (f : FmtI) (g : Nat → Int → Int → Int × BitVec 6) (x : Iss) (s : State) : Res :=
  let t := tyS f.ty
  arith x s (fun l =>
    let r := g t (intVal t (x.rd l f.a (words t))) (intVal t (immVal t f.imm))
    LaneOut.one f.d.toNat (words t) (extendTo 64 t r.1) r.2)

/-- An integer operation of three typed operands, format R. -/
def int3 (f : FmtR) (g : Nat → Int → Int → Int → Int × BitVec 6) (x : Iss) (s : State) : Res :=
  let t := tyS f.ty
  arith x s (fun l =>
    let r := g t (intVal t (x.rd l f.a (words t))) (intVal t (x.rd l f.b (words t))) (intVal t (x.rd l f.c (words t)))
    LaneOut.one f.d.toNat (words t) (extendTo 64 t r.1) r.2)

/-- An operation of one operand on its bit pattern, with a result of the destination type. -/
def bits1 (f : FmtR) (g : Nat → Nat → Nat) (x : Iss) (s : State) : Res :=
  let w := tyWidth (tyS f.ty)
  arith x s (fun l =>
    LaneOut.one f.d.toNat (words (tyD f.ty))
      (extendTo 64 (tyD f.ty) (g w (x.rd l f.a (words (tyS f.ty)) % 2 ^ w) : Nat)) 0)

/-- An operation of two operands on their bit patterns, with the lane's own second operand in full. -/
def bits2 (f : FmtR) (g : Nat → Nat → Nat → Nat) (x : Iss) (s : State) : Res :=
  let t := tyS f.ty
  let w := tyWidth t
  arith x s (fun l =>
    LaneOut.one f.d.toNat (words t)
      (extendTo 64 t (g w (x.rd l f.a (words t) % 2 ^ w) (x.rd l f.b (words t)) : Nat)) 0)

/-- The same with an immediate. -/
def bits2i (f : FmtI) (g : Nat → Nat → Nat → Nat) (x : Iss) (s : State) : Res :=
  let t := tyS f.ty
  let w := tyWidth t
  arith x s (fun l =>
    LaneOut.one f.d.toNat (words t)
      (extendTo 64 t (g w (x.rd l f.a (words t) % 2 ^ w) (immVal t f.imm) : Nat)) 0)

/-- An operation of three operands on their bit patterns. -/
def bits3 (f : FmtR) (g : Nat → Nat → Nat → Nat → Nat) (x : Iss) (s : State) : Res :=
  let t := tyS f.ty
  let w := tyWidth t
  arith x s (fun l =>
    LaneOut.one f.d.toNat (words t)
      (extendTo 64 t (g w (x.rd l f.a (words t) % 2 ^ w) (x.rd l f.b (words t)) (x.rd l f.c (words t)) : Nat)) 0)

/-- Position and length of a field word in width w (R380). -/
def fieldPos (fw : Nat) : Nat := fw % 256
def fieldLen (w fw : Nat) : Nat := if fieldPos fw ≥ w then 0 else min (fw / 256 % 256) (w - fieldPos fw)

/-- `BFI` (R380). -/
def bfiBits (w a y fw : Nat) : Nat :=
  let p := fieldPos fw
  let m := (2 ^ fieldLen w fw - 1) * 2 ^ p
  (a &&& (2 ^ w - 1 - m % 2 ^ w)) ||| (y * 2 ^ p % 2 ^ w &&& m)

/-- `BFX` (R380). -/
def bfxInt (t a fw : Nat) : Int :=
  let w := tyWidth t
  let p := fieldPos fw
  let n := fieldLen w fw
  let v := a % 2 ^ w / 2 ^ p % 2 ^ n
  if tySigned t && n > 0 && v / 2 ^ (n - 1) % 2 == 1 then (v : Int) - 2 ^ n else v

/-- The bits of a width-w word in reverse (R379). -/
def revBits (w a : Nat) : Nat :=
  (List.range w).foldl (fun r i => r + (if a.testBit i then 2 ^ (w - 1 - i) else 0)) 0

/-- Zero bits above the highest set bit within w (R379). -/
def clzBits (w a : Nat) : Nat := if a == 0 then w else w - 1 - a.log2

/-- Set bits (R456). -/
def popBits (w a : Nat) : Nat := ((List.range w).filter (fun i => a.testBit i)).length

/-- Shifts and rotation with the count in the low 32 bits of the operand (R116, R477). -/
def shlBits (w a c : Nat) : Nat := if c % 2 ^ 32 ≥ w then 0 else a * 2 ^ (c % 2 ^ 32) % 2 ^ w
def shrBits (w a c : Nat) : Nat := if c % 2 ^ 32 ≥ w then 0 else a / 2 ^ (c % 2 ^ 32)
def sraBits (w a c : Nat) : Nat :=
  let v := sext w a
  wrapN w (if c % 2 ^ 32 ≥ w then (if v < 0 then -1 else 0) else v / (2 ^ (c % 2 ^ 32) : Nat))
def rotBits (w a c : Nat) : Nat :=
  let k := c % 2 ^ 32 % w
  (a * 2 ^ k % 2 ^ w) ||| (a / 2 ^ (w - k))

/-- The upper w bits of the exact product (R116). -/
def mulHigh (t : Nat) (a b : Int) : Int := a * b / (2 ^ tyWidth t : Nat)

/-- Whether `MOD` selects `.SAT` (R86). -/
def satOf (m : BitVec 4) : Bool := m.getLsbD 2

/-- A comparison's results: predicate `FN`[5:3] and the optional register (R422, R435). -/
def cmpOut (d : RegCode) (fn : BitVec 6) (b : Bool) (e : BitVec 6) : LaneOut :=
  { writes := [(d.toNat, 1, if b then 2 ^ 64 - 1 else 0)], preds := [(fn.toNat / 8, b)], exc := e, draws := 0 }

/-- `IADD` (R434): a + b, wrapped or clamped. -/
def execIadd (f : FmtR) (s : State) : Host.Outcome State Fault Refusal :=
  issue (.iadd f) f.h (int2 f (fun t a b => intResult t (satOf f.mode) (a + b))) s

/-- `IADD` (R434): a + b, wrapped or clamped with an immediate (R103). -/
def execIaddImm (f : FmtI) (s : State) : Host.Outcome State Fault Refusal :=
  issue (.iaddImm f) f.h (int2i f (fun t a b => intResult t (satOf f.mode) (a + b))) s

/-- `ISUB` (R434): a − b. -/
def execIsub (f : FmtR) (s : State) : Host.Outcome State Fault Refusal :=
  issue (.isub f) f.h (int2 f (fun t a b => intResult t (satOf f.mode) (a - b))) s

/-- `ISUB` (R434): a − b with an immediate (R103). -/
def execIsubImm (f : FmtI) (s : State) : Host.Outcome State Fault Refusal :=
  issue (.isubImm f) f.h (int2i f (fun t a b => intResult t (satOf f.mode) (a - b))) s

/-- `IMUL` (R434): a × b. -/
def execImul (f : FmtR) (s : State) : Host.Outcome State Fault Refusal :=
  issue (.imul f) f.h (int2 f (fun t a b => intResult t (satOf f.mode) (a * b))) s

/-- `IMUL` (R434): a × b with an immediate (R103). -/
def execImulImm (f : FmtI) (s : State) : Host.Outcome State Fault Refusal :=
  issue (.imulImm f) f.h (int2i f (fun t a b => intResult t (satOf f.mode) (a * b))) s

/-- `IMAD` (R434): a × b + c, reduced once. -/
def execImad (f : FmtR) (s : State) : Host.Outcome State Fault Refusal :=
  issue (.imad f) f.h (int3 f (fun t a b c => intResult t (satOf f.mode) (a * b + c))) s

/-- `IMULH` (R434): the upper half of the exact product. -/
def execImulh (f : FmtR) (s : State) : Host.Outcome State Fault Refusal :=
  issue (.imulh f) f.h (int2 f (fun t a b => (mulHigh t a b, 0))) s

/-- `IMULH` (R434): the upper half of the exact product, with an immediate (R103). -/
def execImulhImm (f : FmtI) (s : State) : Host.Outcome State Fault Refusal :=
  issue (.imulhImm f) f.h (int2i f (fun t a b => (mulHigh t a b, 0))) s

/-- `IMAX` (R434): the larger. -/
def execImax (f : FmtR) (s : State) : Host.Outcome State Fault Refusal :=
  issue (.imax f) f.h (int2 f (fun _ a b => (if a < b then b else a, 0))) s

/-- `IMAX` (R434): the larger, with an immediate (R103). -/
def execImaxImm (f : FmtI) (s : State) : Host.Outcome State Fault Refusal :=
  issue (.imaxImm f) f.h (int2i f (fun _ a b => (if a < b then b else a, 0))) s

/-- `IMIN` (R434): the smaller. -/
def execImin (f : FmtR) (s : State) : Host.Outcome State Fault Refusal :=
  issue (.imin f) f.h (int2 f (fun _ a b => (if a < b then a else b, 0))) s

/-- `IMIN` (R434): the smaller, with an immediate (R103). -/
def execIminImm (f : FmtI) (s : State) : Host.Outcome State Fault Refusal :=
  issue (.iminImm f) f.h (int2i f (fun _ a b => (if a < b then a else b, 0))) s

/-- `IDIV` (R116, R434): the quotient rounded towards zero. -/
def execIdiv (f : FmtR) (s : State) : Host.Outcome State Fault Refusal :=
  issue (.idiv f) f.h (int2 f (fun _ a b => ((intDiv a b).1, (intDiv a b).2.2))) s

/-- `IDIV` (R116, R434): the quotient rounded towards zero, with an immediate (R103). -/
def execIdivImm (f : FmtI) (s : State) : Host.Outcome State Fault Refusal :=
  issue (.idivImm f) f.h (int2i f (fun _ a b => ((intDiv a b).1, (intDiv a b).2.2))) s

/-- `IREM` (R116, R434): the remainder. -/
def execIrem (f : FmtR) (s : State) : Host.Outcome State Fault Refusal :=
  issue (.irem f) f.h (int2 f (fun _ a b => ((intDiv a b).2.1, (intDiv a b).2.2))) s

/-- `IREM` (R116, R434): the remainder, with an immediate (R103). -/
def execIremImm (f : FmtI) (s : State) : Host.Outcome State Fault Refusal :=
  issue (.iremImm f) f.h (int2i f (fun _ a b => ((intDiv a b).2.1, (intDiv a b).2.2))) s

/-- `IABS` (R116, R434): the absolute value, wrapped or clamped. -/
def execIabs (f : FmtR) (s : State) : Host.Outcome State Fault Refusal :=
  issue (.iabs f) f.h (fun x s => arith x s (fun l =>
    let t := tyS f.ty
    let a := intVal t (x.rd l f.a (words t))
    let r := intResult t (satOf f.mode) (if a < 0 then -a else a)
    LaneOut.one f.d.toNat (words t) (extendTo 64 t r.1) r.2)) s

/-- `ICMP` (R435): a comparison into a predicate and an optional register. -/
def execIcmp (f : FmtR) (s : State) : Host.Outcome State Fault Refusal :=
  issue (.icmp f) f.h (fun x s => arith x s (fun l =>
    let t := tyS f.ty
    cmpOut f.d f.fn (iCmp (f.fn.toNat % 8) (intVal t (x.rd l f.a (words t))) (intVal t (x.rd l f.b (words t)))) 0)) s

/-- `ICMP` with an immediate (R103, R435). -/
def execIcmpImm (f : FmtI) (s : State) : Host.Outcome State Fault Refusal :=
  issue (.icmpImm f) f.h (fun x s => arith x s (fun l =>
    let t := tyS f.ty
    cmpOut f.d f.fn (iCmp (f.fn.toNat % 8) (intVal t (x.rd l f.a (words t))) (intVal t (immVal t f.imm))) 0)) s

/-- `AND` (R379): bitwise. -/
def execAnd (f : FmtR) (s : State) : Host.Outcome State Fault Refusal :=
  issue (.andR f) f.h (bits2 f (fun w a b => a &&& (b % 2 ^ w))) s

/-- `AND` (R379) with an immediate (R103). -/
def execAndImm (f : FmtI) (s : State) : Host.Outcome State Fault Refusal :=
  issue (.andImm f) f.h (bits2i f (fun w a b => a &&& (b % 2 ^ w))) s

/-- `OR` (R456): bitwise. -/
def execOr (f : FmtR) (s : State) : Host.Outcome State Fault Refusal :=
  issue (.orR f) f.h (bits2 f (fun w a b => a ||| (b % 2 ^ w))) s

/-- `OR` (R456) with an immediate (R103). -/
def execOrImm (f : FmtI) (s : State) : Host.Outcome State Fault Refusal :=
  issue (.orImm f) f.h (bits2i f (fun w a b => a ||| (b % 2 ^ w))) s

/-- `XOR` (R477): bitwise. -/
def execXor (f : FmtR) (s : State) : Host.Outcome State Fault Refusal :=
  issue (.xorR f) f.h (bits2 f (fun w a b => a ^^^ (b % 2 ^ w))) s

/-- `XOR` (R477) with an immediate (R103). -/
def execXorImm (f : FmtI) (s : State) : Host.Outcome State Fault Refusal :=
  issue (.xorImm f) f.h (bits2i f (fun w a b => a ^^^ (b % 2 ^ w))) s

/-- `SHL` (R116, R477). -/
def execShl (f : FmtR) (s : State) : Host.Outcome State Fault Refusal :=
  issue (.shl f) f.h (bits2 f shlBits) s

/-- `SHL` (R116, R477) by an immediate count (R103). -/
def execShlImm (f : FmtI) (s : State) : Host.Outcome State Fault Refusal :=
  issue (.shlImm f) f.h (bits2i f shlBits) s

/-- `SHR` (R116, R477). -/
def execShr (f : FmtR) (s : State) : Host.Outcome State Fault Refusal :=
  issue (.shr f) f.h (bits2 f shrBits) s

/-- `SHR` (R116, R477) by an immediate count (R103). -/
def execShrImm (f : FmtI) (s : State) : Host.Outcome State Fault Refusal :=
  issue (.shrImm f) f.h (bits2i f shrBits) s

/-- `SRA` (R116, R477). -/
def execSra (f : FmtR) (s : State) : Host.Outcome State Fault Refusal :=
  issue (.sra f) f.h (bits2 f sraBits) s

/-- `SRA` (R116, R477) by an immediate count (R103). -/
def execSraImm (f : FmtI) (s : State) : Host.Outcome State Fault Refusal :=
  issue (.sraImm f) f.h (bits2i f sraBits) s

/-- `ROT` (R116, R456). -/
def execRot (f : FmtR) (s : State) : Host.Outcome State Fault Refusal :=
  issue (.rot f) f.h (bits2 f rotBits) s

/-- `ROT` (R116, R456) by an immediate count (R103). -/
def execRotImm (f : FmtI) (s : State) : Host.Outcome State Fault Refusal :=
  issue (.rotImm f) f.h (bits2i f rotBits) s

/-- `BFI` (R380): a bit field inserted. -/
def execBfi (f : FmtR) (s : State) : Host.Outcome State Fault Refusal :=
  issue (.bfi f) f.h (bits3 f bfiBits) s

/-- `BFX` (R380): a bit field extracted. -/
def execBfx (f : FmtR) (s : State) : Host.Outcome State Fault Refusal :=
  issue (.bfx f) f.h (fun x s => arith x s (fun l =>
    let t := tyS f.ty
    LaneOut.one f.d.toNat (words t) (extendTo 64 t (bfxInt t (x.rd l f.a (words t)) (x.rd l f.b (words t)))) 0)) s

/-- `BREV` (R379): the bits reversed. -/
def execBrev (f : FmtR) (s : State) : Host.Outcome State Fault Refusal :=
  issue (.brev f) f.h (bits1 f revBits) s

/-- `BSEL` (R379): bits of x where the mask is set, of y elsewhere. -/
def execBsel (f : FmtR) (s : State) : Host.Outcome State Fault Refusal :=
  issue (.bsel f) f.h (bits3 f (fun w a b m => (a &&& m) ||| (b % 2 ^ w &&& (2 ^ w - 1 - m % 2 ^ w)))) s

/-- `CLZ` (R379). -/
def execClz (f : FmtR) (s : State) : Host.Outcome State Fault Refusal :=
  issue (.clz f) f.h (bits1 f clzBits) s

/-- `POPC` (R456). -/
def execPopc (f : FmtR) (s : State) : Host.Outcome State Fault Refusal :=
  issue (.popc f) f.h (bits1 f popBits) s

/-- `MOV` (R456): a copy, from a special too. -/
def execMov (f : FmtR) (s : State) : Host.Outcome State Fault Refusal :=
  issue (.mov f) f.h (fun x s => arith x s (fun l =>
    let t := tyS f.ty
    LaneOut.one f.d.toNat (words t) (extendTo 64 t (intVal t (x.rd l f.a (words t)))) 0)) s

/-- `MOV.FIRST` (R456): the lowest active lane's value into an S register. -/
def execMovFirst (f : FmtR) (s : State) : Host.Outcome State Fault Refusal :=
  issue (.movFirst f) f.h (fun x s => .go (s.updWave x.wid (fun w =>
    w.writeReg x.first f.d.toNat 1 (x.rd x.first f.a (words (tyS f.ty)) % 2 ^ tyWidth (tyS f.ty)))) []) s

/-- `MOVI` (R456): the immediate. -/
def execMovi (f : FmtI) (s : State) : Host.Outcome State Fault Refusal :=
  issue (.movi f) f.h (fun x s => arith x s (fun _ =>
    let t := tyS f.ty
    LaneOut.one f.d.toNat (words t) (extendTo 64 t (intVal t (immVal t f.imm))) 0)) s

/-- `MOVI.HI` (R456): bits [63:32] from the immediate, the others unchanged. -/
def execMoviHi (f : FmtI) (s : State) : Host.Outcome State Fault Refusal :=
  issue (.moviHi f) f.h (fun x s => arith x s (fun l =>
    LaneOut.one f.d.toNat 2 (x.rd l f.d 2 % 2 ^ 32 + f.imm.toNat * 2 ^ 32) 0)) s

/-- `SEL` (R477): a or b by a predicate. -/
def execSel (f : FmtR) (s : State) : Host.Outcome State Fault Refusal :=
  issue (.sel f) f.h (fun x s => arith x s (fun l =>
    let t := tyS f.ty
    let p := x.w.pred l (f.fn.toNat % 8) != f.fn.getLsbD 3
    LaneOut.one f.d.toNat (words t) (extendTo 64 t (intVal t (x.rd l (if p then f.a else f.b) (words t)))) 0)) s

end Sys2Proof.Machine
end

