-- ==== Sys2Proof/Machine/Trans.lean ====
section
/-!
DEFINITION. The special functions of R423 and `WEXP` (R498): correctly rounded square roots, and powers, logarithms,
sines, cosines and exponentials enclosed to 800 fractional bits and rounded once. Where the enclosure does not decide the
rounding, a free constant does (log 11).
-/
namespace Sys2Proof.Machine

/-- The fractional bits of a fixed-point number. -/
def fixBits : Nat := 800

/-- A rational as fixed point, rounded down. -/
def toFix (x : Rat) : Int := (x * ((2 ^ fixBits : Nat) : Rat)).floor

/-- A fixed-point number as a rational. -/
def ofFix (k : Int) : Rat := (k : Rat) / ((2 ^ fixBits : Nat) : Rat)

/-- Product of fixed-point numbers. -/
def fixMul (a b : Int) : Int := (a * b) / (2 ^ fixBits : Nat)

/-- Integer square root by bits: the largest s with s² ≤ n, s < 2^k. -/
def isqrt : Nat → Nat → Nat → Nat
  | 0, _, s => s
  | k + 1, n, s =>
    let s' := s + 2 ^ k
    isqrt k n (if s' * s' ≤ n then s' else s)

/-- The sum of y^n/n! from the term given, for `fuel` terms. -/
def expSeries : Nat → Int → Int → Nat → Int
  | 0, _, _, _ => 0
  | fuel + 1, y, term, n => term + expSeries fuel y (fixMul term y / (n : Int)) (n + 1)

/-- Σ z^(2k+1)/(2k+1), with alternating signs when `alt`: atanh z or atan z. -/
def atanSeries : Nat → Bool → Int → Int → Nat → Int
  | 0, _, _, _, _ => 0
  | fuel + 1, alt, z2, p, k =>
    p / (k : Int) + (if alt then - atanSeries fuel alt z2 (fixMul p z2) (k + 2)
      else atanSeries fuel alt z2 (fixMul p z2) (k + 2))

/-- Σ (−1)^k y^(2k+i)/(2k+i)! from the term given: cosine from i = 0, sine from i = 1. -/
def trigSeries : Nat → Int → Int → Nat → Int
  | 0, _, _, _ => 0
  | fuel + 1, y2, term, n => term - trigSeries fuel y2 (fixMul term y2 / ((n * (n + 1) : Nat) : Int)) (n + 2)

/-- atanh or atan of 1/m. -/
def atanInv (alt : Bool) (m : Nat) : Int :=
  let z : Int := (2 ^ fixBits : Nat) / (m : Int)
  atanSeries 420 alt (z / (m : Int)) z 1

/-- ln 2 = 2 atanh(1/3), and π = 16 atan(1/5) − 4 atan(1/239). -/
def ln2Fix : Int := 2 * atanInv false 3
def piFix : Int := 16 * atanInv true 5 - 4 * atanInv true 239

/-- Round a real known to lie strictly between two rationals. -/
def roundBetween (t : Nat) (r : Rnd) (lo hi : Rat) : Nat × BitVec 6 :=
  let a := roundReal t r false lo false
  let b := roundReal t r false hi false
  if a = b then (a.1, a.2 ||| nxBit)
  else if Config.tieBreak a.1 then (a.1, a.2 ||| nxBit) else (b.1, b.2 ||| nxBit)

/-- A fixed-point value times 2^e, with the error of its computation (2^160 units), rounded. -/
def roundFix (t : Nat) (r : Rnd) (k : Int) (e : Int) : Nat × BitVec 6 :=
  roundBetween t r (ofFix (k - (2 ^ 160 : Nat)) * pow2 e) (ofFix (k + (2 ^ 160 : Nat)) * pow2 e)

/-- The square root of x > 0, rounded once. -/
def sqrtRound (t : Nat) (r : Rnd) (x : Rat) : Nat × BitVec 6 :=
  -- x = n / d; √x = √(n·d·4^k) / (d·2^k)
  let n := x.num.toNat * x.den * 4 ^ 200
  let s := isqrt ((n.log2 + 2) / 2 + 1) n 0
  let q : Rat := ((x.den * 2 ^ 200 : Nat) : Rat)
  if s * s = n then roundReal t r false ((s : Rat) / q) false
  else roundBetween t r ((s : Rat) / q) (((s + 1 : Nat) : Rat) / q)

/-- e^y for a fixed-point y with 0 ≤ y < 1. -/
def expFix (y : Int) : Int := expSeries 260 y (2 ^ fixBits : Nat) 1

/-- 2^x for a rational x that is no integer; far outside the exponent range only the range matters. -/
def exp2Round (t : Nat) (r : Rnd) (x : Rat) : Nat × BitVec 6 :=
  let i := x.floor
  if i > 2000 then roundReal t r false (pow2 2000) false
  else if i < -2000 then roundReal t r false (pow2 (-2000)) false
  else roundFix t r (expFix (fixMul (toFix (x - (i : Rat))) ln2Fix)) i

/-- e^y for a rational y ≠ 0. -/
def expRound (t : Nat) (r : Rnd) (y : Rat) : Nat × BitVec 6 :=
  if y > 2000 then roundReal t r false (pow2 2000) false
  else if y < -2000 then roundReal t r false (pow2 (-2000)) false
  else
    let f := toFix y
    let i := f / ln2Fix
    roundFix t r (expFix (f - i * ln2Fix)) i

/-- log2 x for x > 0 that is no power of two. -/
def log2Round (t : Nat) (r : Rnd) (x : Rat) : Nat × BitVec 6 :=
  let e := ilog2 x
  let m := x * pow2 (-e)
  let z := toFix ((m - 1) / (m + 1))
  let l := 2 * atanSeries 420 false (fixMul z z) z 1
  roundFix t r (e * (2 ^ fixBits : Nat) + l * (2 ^ fixBits : Nat) / ln2Fix) 0

/-- sin x, or cos x when `cos`, for a rational x ≠ 0: the argument is reduced modulo π/2. -/
def trigRound (t : Nat) (r : Rnd) (cos : Bool) (x : Rat) : Nat × BitVec 6 :=
  let h := piFix / 2
  let a := toFix x
  let n := a / h
  let y := a - n * h
  let q := ((n + (if cos then 1 else 0)) % 4).toNat
  let y2 := fixMul y y
  let v := if q % 2 == 1 then trigSeries 180 y2 (2 ^ fixBits : Nat) 1 else trigSeries 180 y2 y 2
  roundFix t r (if q ≥ 2 then -v else v) 0

/-- The functions of R423: 0 √a, 1 1/a, 2 1/√a, 3 2^a, 4 log2 a, 5 sin a, 6 cos a. -/
def fUnary (op t : Nat) (r : Rnd) (a : Val) : Nat × BitVec 6 :=
  let bad : Nat × BitVec 6 := (canonNaN t, nvBit)
  let one := roundReal t r false 1 false
  match a with
  | .nan s => (canonNaN t, if s then nvBit else 0)
  | .inf n =>
    match op with
    | 0 => if n then bad else (infOf t false, 0)
    | 1 => (zeroOf t n, 0)
    | 2 => if n then bad else (zeroOf t false, 0)
    | 3 => if n then (zeroOf t false, 0) else (infOf t false, 0)
    | 4 => if n then bad else (infOf t false, 0)
    | _ => bad
  | .fin n m =>
    if m = 0 then
      match op with
      | 0 => (zeroOf t n, 0)
      | 1 => (infOf t n, dzBit)
      | 2 => (infOf t n, dzBit)
      | 3 => one
      | 4 => (infOf t true, dzBit)
      | 5 => (zeroOf t n, 0)
      | _ => one
    else
      let x := if n then -m else m
      match op with
      | 0 => if n then bad else sqrtRound t r m
      | 1 => roundReal t r false (1 / x) n
      | 2 => if n then bad else sqrtRound t r (1 / m)
      | 3 => if x.den = 1 then roundReal t r false (pow2 (if x.num > 2000 then 2000 else if x.num < -2000 then -2000 else x.num)) false
          else exp2Round t r x
      | 4 => if n then bad else if pow2 (ilog2 m) = m then roundReal t r false ((ilog2 m : Int) : Rat) false
          else log2Round t r m
      | 5 => trigRound t r false x
      | _ => trigRound t r true x

/-- `WEXP` (R498): exp(−a·s) of the exact product, rounded once. -/
def fExpNeg (r : Rnd) (a s : Val) : Nat × BitVec 6 :=
  let (p, e) := mulExact a s
  match p with
  | .nan _ => (canonNaN 10, e)
  | .inf n => (if n then infOf 10 false else zeroOf 10 false, e)
  | .fin n m => if m = 0 then roundReal 10 r false 1 false else expRound 10 r (if n then m else -m)

end Sys2Proof.Machine
end

