-- ==== Sys2Proof/Machine/FloatOps.lean ====
section
/-!
DEFINITION. The float instructions and conversions (20 R419 to R427, 19 R406, R407), stochastic rounding (05 R121), and the
spectral packet operations (22 R496 to R499): each the shared arithmetic of Machine/Flags.lean and Machine/Trans.lean over
its operand forms, its exceptions handled by R129.
-/
namespace Sys2Proof.Machine

/-- One round of Philox4x32 (log 10). -/
def philoxRound (k0 k1 : Nat) (c : Nat × Nat × Nat × Nat) : Nat × Nat × Nat × Nat :=
  let p0 := 0xD2511F53 * c.1
  let p1 := 0xCD9E8D57 * c.2.2.1
  ((p1 / 2 ^ 32) ^^^ c.2.1 ^^^ k0, p1 % 2 ^ 32, (p0 / 2 ^ 32) ^^^ c.2.2.2 ^^^ k1, p0 % 2 ^ 32)

/-- Rounds with the key raised after each. -/
def philoxRounds : Nat → Nat → Nat → Nat × Nat × Nat × Nat → Nat × Nat × Nat × Nat
  | 0, _, _, c => c
  | n + 1, k0, k1, c =>
    philoxRounds n ((k0 + 0x9E3779B9) % 2 ^ 32) ((k1 + 0xBB67AE85) % 2 ^ 32) (philoxRound k0 k1 c)

/-- The first output word of Philox4x32-10 (R121). -/
def philox (key : DWord) (c0 c1 c2 c3 : Nat) : Nat :=
  (philoxRounds 10 (key.toNat % 2 ^ 32) (key.toNat / 2 ^ 32) (c0, c1, c2, c3)).1

/-- The draw of a lane at a count (R121): in the lead thread `WAVE` × 32 + `LANE` is 1,024. -/
def drawOf (w : Wave) (l : Nat) (cnt : Nat) : Nat :=
  philox w.srkey (cnt % 2 ^ 32) (cnt / 2 ^ 32 % 2 ^ 32) (w.id.team.team % 2 ^ 32) (if w.isLead then 1024 else w.id.wave * 32 + l)

/-- The low bits of a float operand (R419). -/
def flow (t w : Nat) : Nat := w % 2 ^ tyWidth t

/-- A float operation of two operands, format R. -/
def float2 (f : FmtR) (g : Nat → Rnd → Val → Val → Nat × BitVec 6) (x : Iss) (s : State) : Res :=
  let t := tyS f.ty
  arith x s (fun l =>
    let r := g t (rndOf f.mode.toNat) (decVal t (flow t (x.rd l f.a 1))) (decVal t (flow t (x.rd l f.b 1)))
    LaneOut.one f.d.toNat 1 r.1 r.2)

/-- The same with an immediate, format I. -/
def float2i (f : FmtI) (g : Nat → Rnd → Val → Val → Nat × BitVec 6) (x : Iss) (s : State) : Res :=
  let t := tyS f.ty
  arith x s (fun l =>
    let r := g t (rndOf f.mode.toNat) (decVal t (flow t (x.rd l f.a 1))) (decVal t (flow t f.imm.toNat))
    LaneOut.one f.d.toNat 1 r.1 r.2)

/-- A float operation of one operand. -/
def float1 (f : FmtR) (g : Nat → Rnd → Val → Nat × BitVec 6) (x : Iss) (s : State) : Res :=
  let t := tyS f.ty
  arith x s (fun l =>
    let r := g t (rndOf f.mode.toNat) (decVal t (flow t (x.rd l f.a 1)))
    LaneOut.one f.d.toNat 1 r.1 r.2)

/-- `FMAX` and `FMIN` on bit patterns (R421). -/
def minMax (f : FmtR) (wantMax : Bool) (x : Iss) (s : State) : Res :=
  let t := tyS f.ty
  arith x s (fun l =>
    let r := fMinMax t wantMax (flow t (x.rd l f.a 1)) (flow t (x.rd l f.b 1))
    LaneOut.one f.d.toNat 1 r.1 r.2)
def minMaxi (f : FmtI) (wantMax : Bool) (x : Iss) (s : State) : Res :=
  let t := tyS f.ty
  arith x s (fun l =>
    let r := fMinMax t wantMax (flow t (x.rd l f.a 1)) (flow t f.imm.toNat)
    LaneOut.one f.d.toNat 1 r.1 r.2)

/-- A word of a packet read by a lane. -/
def pk (x : Iss) (l : Nat) (p : BitVec 5) (j : Nat) : Nat := (x.w.vreg l (8 * p.toNat + j)).toNat

/-- A packet result of eight words with the union of their exceptions (R499). -/
def packOut (p : BitVec 5) (rs : List (Nat × BitVec 6)) : LaneOut :=
  { writes := (List.range rs.length).map (fun j => (8 * p.toNat + j, 1, (rs.getD j (0, 0)).1)), preds := [],
    exc := rs.foldl (fun e r => e ||| r.2) 0, draws := 0 }

/-- An elementwise operation on packets: g at each of the eight elements (R133, R496). -/
def elementwise (f : FmtW) (g : Nat → Nat → Nat × BitVec 6) (x : Iss) (s : State) : Res :=
  arith x s (fun l => packOut f.wd ((List.range 8).map (g l)))

/-- The fixed tree of R133 over eight values: ((0 + 1) + (2 + 3)) + ((4 + 5) + (6 + 7)). -/
def fixedTree (r : Rnd) (v : List (Nat × BitVec 6)) : Nat × BitVec 6 :=
  let add (a b : Nat × BitVec 6) : Nat × BitVec 6 :=
    let c := fAdd 10 r (decVal 10 a.1) (decVal 10 b.1)
    (c.1, a.2 ||| b.2 ||| c.2)
  let g (i : Nat) := v.getD i (0, 0)
  add (add (add (g 0) (g 1)) (add (g 2) (g 3))) (add (add (g 4) (g 5)) (add (g 6) (g 7)))

/-- `FADD` (R420, R421): a + b, rounded once. -/
def execFadd (f : FmtR) (s : State) : Host.Outcome State Fault Refusal :=
  issue (.fadd f) f.h (float2 f fAdd) s

/-- `FADD` with an immediate (R103). -/
def execFaddImm (f : FmtI) (s : State) : Host.Outcome State Fault Refusal :=
  issue (.faddImm f) f.h (float2i f fAdd) s

/-- `FSUB` (R420, R421): a − b, rounded once. -/
def execFsub (f : FmtR) (s : State) : Host.Outcome State Fault Refusal :=
  issue (.fsub f) f.h (float2 f fSub) s

/-- `FSUB` with an immediate (R103). -/
def execFsubImm (f : FmtI) (s : State) : Host.Outcome State Fault Refusal :=
  issue (.fsubImm f) f.h (float2i f fSub) s

/-- `FMUL` (R420, R421): a × b, rounded once. -/
def execFmul (f : FmtR) (s : State) : Host.Outcome State Fault Refusal :=
  issue (.fmul f) f.h (float2 f fMul) s

/-- `FMUL` with an immediate (R103). -/
def execFmulImm (f : FmtI) (s : State) : Host.Outcome State Fault Refusal :=
  issue (.fmulImm f) f.h (float2i f fMul) s

/-- `FDIV` (R420, R421): a ÷ b, rounded once. -/
def execFdiv (f : FmtR) (s : State) : Host.Outcome State Fault Refusal :=
  issue (.fdiv f) f.h (float2 f fDiv) s

/-- `FDIV` with an immediate (R103). -/
def execFdivImm (f : FmtI) (s : State) : Host.Outcome State Fault Refusal :=
  issue (.fdivImm f) f.h (float2i f fDiv) s

/-- `FFMA` (R420, R421): a × b + c, rounded once. -/
def execFfma (f : FmtR) (s : State) : Host.Outcome State Fault Refusal :=
  issue (.ffma f) f.h (fun x s => arith x s (fun l =>
    let t := tyS f.ty
    let r := fFma t (rndOf f.mode.toNat) (decVal t (flow t (x.rd l f.a 1))) (decVal t (flow t (x.rd l f.b 1))) (decVal t (flow t (x.rd l f.c 1)))
    LaneOut.one f.d.toNat 1 r.1 r.2)) s

/-- `FMAX` (R421). -/
def execFmax (f : FmtR) (s : State) : Host.Outcome State Fault Refusal :=
  issue (.fmax f) f.h (minMax f true) s

/-- `FMAX` with an immediate (R103). -/
def execFmaxImm (f : FmtI) (s : State) : Host.Outcome State Fault Refusal :=
  issue (.fmaxImm f) f.h (minMaxi f true) s

/-- `FMIN` (R421). -/
def execFmin (f : FmtR) (s : State) : Host.Outcome State Fault Refusal :=
  issue (.fmin f) f.h (minMax f false) s

/-- `FMIN` with an immediate (R103). -/
def execFminImm (f : FmtI) (s : State) : Host.Outcome State Fault Refusal :=
  issue (.fminImm f) f.h (minMaxi f false) s

/-- `FCMP` (R422). -/
def execFcmp (f : FmtR) (s : State) : Host.Outcome State Fault Refusal :=
  issue (.fcmp f) f.h (fun x s => arith x s (fun l =>
    let t := tyS f.ty
    let r := fCmp (f.fn.toNat % 8) (decVal t (flow t (x.rd l f.a 1))) (decVal t (flow t (x.rd l f.b 1)))
    cmpOut f.d f.fn r.1 r.2)) s

/-- `FCMP` with an immediate (R103). -/
def execFcmpImm (f : FmtI) (s : State) : Host.Outcome State Fault Refusal :=
  issue (.fcmpImm f) f.h (fun x s => arith x s (fun l =>
    let t := tyS f.ty
    let r := fCmp (f.fn.toNat % 8) (decVal t (flow t (x.rd l f.a 1))) (decVal t (flow t f.imm.toNat))
    cmpOut f.d f.fn r.1 r.2)) s

/-- `FRND` (R424): rounded to an integral value. -/
def execFrnd (f : FmtR) (s : State) : Host.Outcome State Fault Refusal :=
  issue (.frnd f) f.h (float1 f fRnd) s

/-- `FSQRT` (R423): √a, correctly rounded. -/
def execFsqrt (f : FmtR) (s : State) : Host.Outcome State Fault Refusal :=
  issue (.fsqrt f) f.h (float1 f (fUnary 0)) s

/-- `FRCP` (R423): 1/a, correctly rounded. -/
def execFrcp (f : FmtR) (s : State) : Host.Outcome State Fault Refusal :=
  issue (.frcp f) f.h (float1 f (fUnary 1)) s

/-- `FRSQ` (R423): 1/√a, correctly rounded. -/
def execFrsq (f : FmtR) (s : State) : Host.Outcome State Fault Refusal :=
  issue (.frsq f) f.h (float1 f (fUnary 2)) s

/-- `FEXP2` (R423): 2^a, correctly rounded. -/
def execFexp2 (f : FmtR) (s : State) : Host.Outcome State Fault Refusal :=
  issue (.fexp2 f) f.h (float1 f (fUnary 3)) s

/-- `FLOG2` (R423): log2 a, correctly rounded. -/
def execFlog2 (f : FmtR) (s : State) : Host.Outcome State Fault Refusal :=
  issue (.flog2 f) f.h (float1 f (fUnary 4)) s

/-- `FSIN` (R423): sin a, correctly rounded. -/
def execFsin (f : FmtR) (s : State) : Host.Outcome State Fault Refusal :=
  issue (.fsin f) f.h (float1 f (fUnary 5)) s

/-- `FCOS` (R423): cos a, correctly rounded. -/
def execFcos (f : FmtR) (s : State) : Host.Outcome State Fault Refusal :=
  issue (.fcos f) f.h (float1 f (fUnary 6)) s

/-- `FTSUM` (R425): the rounded sum and its exact error. -/
def execFtsum (f : FmtR) (s : State) : Host.Outcome State Fault Refusal :=
  issue (.ftsum f) f.h (fun x s => arith x s (fun l =>
    let r := fTwoSum (decVal 10 (flow 10 (x.rd l f.a 1))) (decVal 10 (flow 10 (x.rd l f.b 1)))
    LaneOut.one f.d.toNat 2 (r.1 + r.2.1 * 2 ^ 32) r.2.2)) s

/-- `PFMA` (R426): two packed multiply-adds. -/
def execPfma (f : FmtR) (s : State) : Host.Outcome State Fault Refusal :=
  issue (.pfma f) f.h (fun x s => arith x s (fun l =>
    let t := tyS f.ty
    let el (i : Nat) := fFma t (rndOf f.mode.toNat) (decVal t (x.rd l f.a 1 / 2 ^ (16 * i) % 2 ^ 16))
      (decVal t (x.rd l f.b 1 / 2 ^ (16 * i) % 2 ^ 16)) (decVal t (x.rd l f.c 1 / 2 ^ (16 * i) % 2 ^ 16))
    LaneOut.one f.d.toNat 1 ((el 0).1 + (el 1).1 * 2 ^ 16) ((el 0).2 ||| (el 1).2))) s

/-- `CVT` (R407): a conversion of R123, stochastic when `MOD`[3] is set. -/
def execCvt (f : FmtR) (s : State) : Host.Outcome State Fault Refusal :=
  issue (.cvt f) f.h (fun x s => arith x s (fun l =>
    let st := tyS f.ty
    let dt := tyD f.ty
    let sr := f.mode.getLsbD 3
    let cnt := (x.w.thread l).srcnt.toNat
    let r := convert st dt (if sr then .sr (drawOf x.w l cnt) else rndOf f.mode.toNat) (satOf f.mode)
      (x.rd l f.a (words st) % 2 ^ tyWidth st)
    { LaneOut.one f.d.toNat (words dt) (if dt < 8 then extendTo 64 dt r.1 else r.1.toNat) r.2 with draws := if sr then 1 else 0 })) s

/-- `WADD` (R496). -/
def execWadd (f : FmtW) (s : State) : Host.Outcome State Fault Refusal :=
  issue (.wadd f) f.h (fun x s => elementwise f (fun l j => fAdd 10 (rndOf f.mode.toNat) (decVal 10 (pk x l f.wa j)) (decVal 10 (pk x l f.wb j))) x s) s

/-- `WMUL` (R496). -/
def execWmul (f : FmtW) (s : State) : Host.Outcome State Fault Refusal :=
  issue (.wmul f) f.h (fun x s => elementwise f (fun l j => fMul 10 (rndOf f.mode.toNat) (decVal 10 (pk x l f.wa j)) (decVal 10 (pk x l f.wb j))) x s) s

/-- `WFMA` (R496). -/
def execWfma (f : FmtW) (s : State) : Host.Outcome State Fault Refusal :=
  issue (.wfma f) f.h (fun x s => elementwise f (fun l j =>
    fFma 10 (rndOf f.mode.toNat) (decVal 10 (pk x l f.wa j)) (decVal 10 (pk x l f.wb j)) (decVal 10 (pk x l f.wc j))) x s) s

/-- `WSCAL` (R496). -/
def execWscal (f : FmtW) (s : State) : Host.Outcome State Fault Refusal :=
  issue (.wscal f) f.h (fun x s => elementwise f (fun l j =>
    fMul 10 (rndOf f.mode.toNat) (decVal 10 (pk x l f.wa j)) (decVal 10 (flow 10 (x.rd l f.vs 1)))) x s) s

/-- `WEXP` (R498): exp(−a·s), correctly rounded. -/
def execWexp (f : FmtW) (s : State) : Host.Outcome State Fault Refusal :=
  issue (.wexp f) f.h (fun x s => elementwise f (fun l j =>
    fExpNeg (rndOf f.mode.toNat) (decVal 10 (pk x l f.wa j)) (if f.vs.toNat == 511 then .fin false 1 else decVal 10 (flow 10 (x.rd l f.vs 1)))) x s) s

/-- `WSUM` (R133, R497): the fixed tree over a packet. -/
def execWsum (f : FmtW) (s : State) : Host.Outcome State Fault Refusal :=
  issue (.wsum f) f.h (fun x s => arith x s (fun l =>
    let r := fixedTree (rndOf f.mode.toNat) ((List.range 8).map (fun j => (pk x l f.wa j, 0)))
    LaneOut.one f.vs.toNat 1 r.1 r.2)) s

/-- `WDOT` (R133, R497): the fixed tree over the products. -/
def execWdot (f : FmtW) (s : State) : Host.Outcome State Fault Refusal :=
  issue (.wdot f) f.h (fun x s => arith x s (fun l =>
    let r := fixedTree (rndOf f.mode.toNat) ((List.range 8).map (fun j => fMul 10 (rndOf f.mode.toNat) (decVal 10 (pk x l f.wa j)) (decVal 10 (pk x l f.wb j))))
    LaneOut.one f.vs.toNat 1 r.1 r.2)) s

end Sys2Proof.Machine
end

