-- ==== Sys2Proof/Machine/LoadStore.lean ====
section
/-!
DEFINITION. Memory instructions (19 R378, R382 to R386, R395, R403 to R405; 20 R417, R418, R428, R429; 21 R443 to R446,
R452, R453; 22 R486 to R488), atomic arithmetic (12 R262), film accumulation (07 R160), deferred updates (12 R265 to
R268), and the events that end them: the replies of loads and atomics, and the arrival of a deferred update.
-/
namespace Sys2Proof.Machine

/-- Words of bytes, low first; a last short word is zero-extended. -/
def wordsOf : Nat → List Byte → List Word
  | 0, _ => []
  | _, [] => []
  | k + 1, bs => BitVec.ofNat 32 (ofBytes (bs.take 4)) :: wordsOf k (bs.drop 4)

/-- The fills of a lane's registers from the bytes of its access (R444). -/
def fillsOf (l code : Nat) (bs : List Byte) : List Fill :=
  let ws := wordsOf bs.length bs
  (List.range ws.length).map (fun i => { lane := l, code := code + i, val := (ws.getD i 0).setWidth 64 })

/-- Send a request to a core's unit that will fill V registers: they are empty until its reply (R24, R90), and the request keeps its
slots as long (R207). -/
def State.requestOn (s : State) (core bay : Nat) (w : WaveId) (kind : ReqKind) (code n : Nat) (fills : List Fill) (lanes : List Nat)
    (slots : List SlotTok := []) : State :=
  let (id, s) := s.newId
  let s := s.updWave w (fun w => (lanes.foldl (fun w l => w.markEmpty l code n id) w))
  if lanes.isEmpty then s else
    { s with reqs := s.reqs ++ [{ id := id, wave := w, core := core, bay := bay, slots := slots, carry := s.carryOf w 1, kind := kind, fills := fills }] }

/-- The same of the wave's own core. -/
def State.request (s : State) (w : WaveId) (kind : ReqKind) (code n : Nat) (fills : List Fill) (lanes : List Nat)
    (slots : List SlotTok := []) : State := s.requestOn (s.coreOf w) (s.bayOf w) w kind code n fills lanes slots

/-- Accesses that no request stands for any longer keep their request slots until they are acknowledged (R207). -/
def State.keepSlots (s : State) (core : Nat) (w : WaveId) (slots : List SlotTok) : State :=
  if slots.isEmpty then s else
    { s.updCore core (fun k => { k with acks := k.acks ++ [{ id := s.nextId, slots := slots, carry := s.carryOf w 1 }] }) with
      nextId := s.nextId + 1 }

/-- The acknowledgement of an access, or of a sector of the copy engine, frees its request slots (R207), once no request of it waits at a
pseudo-channel. -/
def State.acknowledge (s : State) (core id : Nat) : State :=
  if s.atChannel (.access core id) then s else
  s.updCore core (fun k => { k with acks := k.acks.filter (fun a => a.id != id), sectors := k.sectors.filter (· != id) })

/-- Deliver a value per lane from a core's unit (R24): to V registers by a request, to an S register at once, to `ZERO` or an absent field
not at all; the request slots are kept until the reply or the acknowledgement (R207). -/
def State.deliverOn (s : State) (core bay : Nat) (w : WaveId) (kind : ReqKind) (code : Nat) (vals : List (Nat × List Byte))
    (slots : List SlotTok := []) : State :=
  if code < 320 then
    let n := match vals with | v :: _ => (v.2.length + 3) / 4 | [] => 1
    s.requestOn core bay w kind code n (vals.flatMap (fun v => fillsOf v.1 code v.2)) (vals.map (·.1)) slots
  else (vals.foldl (fun s v => s.updWave w (fun w => w.writeReg v.1 code 2 (ofBytes v.2))) s).keepSlots core w slots

/-- The same from the wave's own core. -/
def State.deliver (s : State) (w : WaveId) (kind : ReqKind) (code : Nat) (vals : List (Nat × List Byte))
    (slots : List SlotTok := []) : State :=
  s.deliverOn (s.coreOf w) (s.bayOf w) w kind code vals slots

/-- An uncorrectable error that a unit finds in the data of some lanes after issue (R223): a cause delivered to the team,
with those lanes and the first failing VA; logged. -/
def State.dataError (s : State) (w : WaveId) (bad : List (Nat × Nat × Nat)) : State :=
  match bad with
  | [] => s
  | b :: _ =>
    (bad.foldl (fun s p => s.logBad p.2.2) s).postCause w.team (some w.wave) cMachineCheck b.2.1 (maskOf (bad.map (·.1)))

/-- How an access ends whose translation could not be read: its destination registers stay empty in the lanes that failed (R223). -/
def Res.emptying (x : Iss) (code n : Nat) (r : Res) : Res :=
  match r with
  | .check pas m a [] => .check pas m a (if code < 320 then ((lanesOf m).filter x.lanes.contains).map (fun l => (l, code, n)) else [])
  | r => r

/-- The lanes of a phase whose data cannot be read, with the first failing VA and PA. At D2 and D3 bytes of the team's own
write set are not read from memory. -/
def badLanes (s : State) (w : WaveId) (go : List (LaneAcc × List (Nat × Nat))) : List (Nat × Nat × Nat) :=
  go.filterMap (fun d =>
    if s.allOwn w d.1.va d.1.n then none
    else (s.badVa d.1.va d.2).map (fun b => (d.1.lane, b.1, b.2)))

/-- Uncorrectable errors found in the data that an access reads: it writes nothing, and the `n` V registers from `code` that it would
fill stay empty in the lanes that failed (R223, R331; log 17). -/
def dataCheckTo (x : Iss) (code n : Nat) (bad : List (Nat × Nat × Nat)) : Option Res :=
  match bad with
  | [] => none
  | b :: _ => some (.check (bad.map (fun p => p.2.2)) (x.fallsOn (bad.map (·.1))) b.2.1
      (if code < 320 then bad.map (fun p => (p.1, code, n)) else []))

/-- The same where no V register is to be filled. -/
def dataCheck (x : Iss) (bad : List (Nat × Nat × Nat)) : Option Res := dataCheckTo x 511 0 bad

/-- The bytes that the source register of a store holds in a lane (R487). -/
def storeData (x : Iss) (l : Nat) (code : RegCode) (n : Nat) : List Byte :=
  if code.toNat < 320 then (List.range (max 1 (n / 4))).flatMap (fun i => toBytes (min n 4) (x.w.vreg l (code.toNat + i)).toNat)
  else toBytes n (x.rd l code 2)

/-- A global write of one lane: into memory or the team's write set, marking a procedural block written (R240, R295). A
write that the merge area cannot hold is discarded, and its cause raised. -/
def State.laneWrite (s : State) (w : WaveId) (va : Nat) (pas : List (Nat × Nat)) (bs : List Byte) : State :=
  match s.viewWrite (s.viewOf w) va pas bs with
  | some s => s.updCtx (asidOf w) (fun c => c.markWritten (s.ownBlock w.team.grid) va bs.length)
  | none => s.postCause w.team (some w.wave) cNondeterministic va 0

/-- `AGEN` (R378): the effective address. -/
def execAgen (f : FmtM) (s : State) : Host.Outcome State Fault Refusal :=
  issue (.agen f) f.h (fun x s =>
    .go (s.updWave x.wid (fun w => x.lanes.foldl (fun w l => w.writeReg l f.ds.toNat 2 (effAddr x l f)) w)) []) s

/-- The lanes of a list that must wait for a tile, with the tile of the first (R178). -/
def tileWaits (x : Iss) (s : State) (as : List LaneAcc) : List (Nat × Nat) :=
  as.filterMap (fun a =>
    let n := a.va / 16384
    if s.tileBusy x.wid.team x.w.core x.w.bay n (tileBefore s x.w a.lane n) then some (a.lane, n) else none)

/-- Block the lanes that wait for tiles; the lanes that stay. -/
def blockTiles (x : Iss) (s : State) (ws : List (Nat × Nat)) : State × List Nat :=
  let ls := if x.uni && !ws.isEmpty then x.act.map (fun l => (l, (ws.headD (0, 0)).2)) else ws
  (ls.foldl (fun s p => s.block x.wid [p.1] (.tile p.2 (tileBefore s x.w p.1 p.2))) s, ls.map (·.1))

/-- A value-returning access that a converting entry holds (R320): a request fills its V registers, its threads wait for an S
register, and `ZERO` or an absent field takes nothing. -/
def State.holdLane (s : State) (x : Iss) (i : Instr) (kind : ReqKind) (code n : Nat) (h : LaneAcc × Nat) (slots : List SlotTok)
    (operands : List Nat) : State :=
  let a := h.1
  if code < 320 then
    let id := s.nextId
    (s.requestOn x.w.core (if x.w.isLead then 0 else x.w.bay) x.wid kind code n [] [a.lane] slots).holdAccess x.w.core x.wid x.pc i [a.lane] h.2 a id
      operands []
  else if 384 ≤ code && code < 448 then s.holdValue x i h slots operands
  else s.holdAccess x.w.core x.wid x.pc i [a.lane] h.2 a 0 operands slots

/-- The accesses of a phase that a converting entry holds, each with its request slots and what it carries (R207, R320). -/
def Phase.holdAll (p : Phase) (s : State) (x : Iss) (i : Instr) (kind : ReqKind) (code n : Nat) (operands : Nat → List Nat) : State :=
  p.held.foldl (fun s h => s.holdLane x i kind code n h (p.s.toks x.w.core [h.1]) (operands h.1.lane)) s

/-- Those of a phase that return no value. -/
def Phase.holdPlain (p : Phase) (s : State) (x : Iss) (i : Instr) (data : LaneAcc → List Nat) : State :=
  p.held.foldl (fun s h => s.holdAccess x.w.core x.wid x.pc i [h.1.lane] h.2 h.1 0 (data h.1) (p.s.toks x.w.core [h.1])) s

/-- The request slots of the accesses of a phase that are performed at once (R207). -/
def Phase.slots (p : Phase) (core : Nat) : List SlotTok := p.s.toks core (p.go.map (·.1))

/-- The lanes that wait for such a value. -/
def Iss.awaits (x : Iss) (code : Nat) (held : List (LaneAcc × Nat)) : List Nat :=
  if held.isEmpty || code < 384 || 448 ≤ code then [] else x.act

/-- An instruction whose held access has been performed writes its value (R320); `go` is what any other does, once the requests of a load
into an S register are past the pseudo-channels (R217). -/
def Iss.orAnswer (x : Iss) (code : Nat) (s : State) (go : Res) : Res :=
  match x.answers s with
  | [] => if 384 ≤ code && code < 448 && x.atChannel s then .hold s none (some .channel) else go
  | vs => .go ((s.endAnswers x).updWave x.wid (fun w => vs.foldl (fun w v => match v.2 with
      | some v' => w.writeReg v.1 code 2 v'
      | none => w) w)) []

/-- `LD` (R443 to R445). -/
def semLd (f : FmtM) (x : Iss) (s : State) : Res :=
  let n := 2 ^ f.wd.toNat
  let as := x.lanes.map (fun l => { lane := l, va := effAddr x l f, n := n : LaneAcc })
  x.orAnswer f.ds.toNat s <| match x.misaligned n as with
  | some (m, a) => .trap cAlign m a
  | none =>
    match f.sp.toNat with
    | 1 => match x.beyond (s.scratchSize x.wid) as with
      | some (m, a) => .trap cProtection m a
      | none => match s.team? x.wid.team with
        | none => .go s []
        | some t => match poolCheck x t 1 as with
          | some (m, a) => .check [] m a []
          | none => .go (s.deliver x.wid .load f.ds.toNat (as.map (fun a => (a.lane, t.scratchBytes a.va n)))) []
    | 2 => match x.beyond (s.tiles x.wid * 16384) as with
      | some (m, a) => .trap cProtection m a
      | none => match s.team? x.wid.team with
        | none => .go s []
        | some t =>
          let ws := tileWaits x s as
          let free := as.filter (fun a => !ws.any (fun p => p.1 == a.lane))
          match poolCheck x t (2 + x.w.bay) free with
          | some (m, a) => .check [] m a []
          | none =>
            let (s, stay) := blockTiles x s ws
            .go (s.deliver x.wid .load f.ds.toNat (free.map (fun a => (a.lane, t.accBytes (s.tiles x.wid) x.w.bay a.va n)))) stay
    | _ => match s.phase x as .read (fun _ _ => false) with
      | .error r => r.emptying x f.ds.toNat ((n + 3) / 4)
      | .ok p =>
        match dataCheckTo x f.ds.toNat ((n + 3) / 4) (badLanes p.s x.wid p.go) with
        | some r => r
        | none =>
        let s := p.s.deliver x.wid .load f.ds.toNat
          (p.go.map (fun d => (d.1.lane, p.s.viewBytes (p.s.viewOf x.wid) d.1.va d.2))) (p.slots x.w.core)
        .go (p.holdAll s x (.ld f) .load f.ds.toNat ((n + 3) / 4) (fun _ => [])) (p.stay ++ x.awaits f.ds.toNat p.held)

/-- `LD` (R443). -/
def execLd (f : FmtM) (s : State) : Host.Outcome State Fault Refusal := issue (.ld f) f.h (semLd f) s

/-- A partial write of a retired block by some lanes of a store (R223, R224): the cause. -/
def partialFault (x : Iss) (s : State) (go : List (LaneAcc × List (Nat × Nat))) : Option Res :=
  if (s.viewOf x.wid).isSome then none else
  match go.filterMap (fun d => (s.partVa d.1.va d.2).map (fun a => (d.1.lane, a))) with
  | [] => none
  | b :: bs => some (.trap cMachineCheck (x.fallsOn ((b :: bs).map (·.1))) b.2)

/-- What a wave's stores leave behind (R207, R232): their request slots, and at D2 and D3 that the threads' writes are still to be seen. -/
def State.noteStores (s : State) (x : Iss) (p : Phase) : State :=
  let ls := (p.go.map (·.1) ++ p.held.map (·.1)).map (·.lane)
  (if (s.viewOf x.wid).isNone then s else
    s.updWave x.wid (fun w => w.updThreads ls (fun _ t => { t with unseen := true }))).keepSlots x.w.core x.wid (p.slots x.w.core)

/-- The global half of `ST` and `MCST`. -/
def storeGlobal (i : Instr) (code : RegCode) (n : Nat) (place : Ctx → LaneAcc → Bool) (after : State → LaneAcc → List Byte → State)
    (x : Iss) (as : List LaneAcc) (s : State) : Res :=
  match s.phase x as .write place with
  | .error r => r
  | .ok p =>
    match partialFault x s p.go with
    | some r => r
    | none =>
      let s := p.go.foldl (fun s d =>
        after (s.laneWrite x.wid d.1.va d.2 (storeData x d.1.lane code n)) d.1 (storeData x d.1.lane code n)) p.s
      .go ((p.holdPlain s x i (fun a => (storeData x a.lane code n).map BitVec.toNat)).noteStores x p) p.stay

/-- `ST` (R486 to R488). -/
def semSt (f : FmtM) (x : Iss) (s : State) : Res :=
  let n := 2 ^ f.wd.toNat
  let as := x.lanes.map (fun l => { lane := l, va := effAddr x l f, n := n : LaneAcc })
  match x.misaligned n as with
  | some (m, a) => .trap cAlign m a
  | none =>
    match f.sp.toNat with
    | 1 => match x.beyond (s.scratchSize x.wid) as with
      | some (m, a) => .trap cProtection m a
      | none => .go (s.updTeam x.wid.team (fun t => as.foldl (fun t a => t.setScratch a.va (storeData x a.lane f.ds n)) t)) []
    | 2 => match x.beyond (s.tiles x.wid * 16384) as with
      | some (m, a) => .trap cProtection m a
      | none =>
        let ws := tileWaits x s as
        let free := as.filter (fun a => !ws.any (fun p => p.1 == a.lane))
        let tiles := s.tiles x.wid
        let (s, stay) := blockTiles x s ws
        .go (s.updTeam x.wid.team (fun t =>
          free.foldl (fun t a => t.setAcc tiles x.w.bay a.va (storeData x a.lane f.ds n)) t)) stay
    | _ => storeGlobal (.st f) f.ds n (fun c a => c.needsMcst a.va a.n) (fun s _ _ => s) x as s

/-- `ST` (R486). -/
def execSt (f : FmtM) (s : State) : Host.Outcome State Fault Refusal := issue (.st f) f.h (semSt f) s

/-- The UALink station of a rank, from the table of `CTX_CREATE` (R305). -/
def Ctx.station (c : Ctx) (rank : Nat) : Nat := c.ranks.getD rank 0

/-- Whether the port to a rank is up (R306); and that of an I/O die's collective engine, which has three of the six (R16). -/
def State.reaches (s : State) (c : Ctx) (rank : Nat) : Bool :=
  (cellGet Port.start s.ports (Config.portOf (c.station rank) % 6)).up
def State.reachesFrom (s : State) (c : Ctx) (die rank : Nat) : Bool :=
  (cellGet Port.start s.ports (3 * die + Config.portOf (c.station rank) % 3)).up

/-- A write request to a station, of 64 to 256 bytes (R304): what it carries is the model's own form (log 86). -/
def ualWrite (station : Nat) (bs : List Byte) : UalMsg :=
  { station := station, kind := 3, addr := 0, data := bs ++ List.replicate (ceilDiv (max 1 bs.length) 64 * 64 - bs.length) 0 }

/-- The ranks of the other replicas along the R axes of an entry (R316). -/
def PEntry.replicas (e : PEntry) (me : Nat) : List Nat :=
  let here := e.coords me
  ((rowOrder ((List.range 3).map (fun k => if isR (e.st.getD k 0) then e.ax.getD k 1 else 1))).map
    (fun q => e.rankOf ((List.range 3).map (fun k => if isR (e.st.getD k 0) then q.getD k 0 else here.getD k 0)))).filter (· != me)

/-- What a multicast write tells the replicas of an entry (R311, R453): for each element that it touches the context, the entry, the global
index, the first byte within the element, and the bytes. -/
def mcstParts (asid me : Nat) (e : Nat × PEntry × Tensor) (va : Nat) (bs : List Byte) : List (List Byte) :=
  let el (i : Nat) : Option (List Nat) := e.2.2.elementAt (va + i)
  (((List.range bs.length).filterMap el).eraseDups).map (fun ix =>
    let mine := (List.range bs.length).filter (fun i => el i == some ix)
    1#8 :: toBytes 2 asid ++ toBytes 2 e.1 ++ (List.range 5).flatMap (fun d => toBytes 4 ((e.2.1.global (e.2.1.coords me) ix).getD d 0)) ++
      [BitVec.ofNat 8 (wrapN 64 ((va : Int) + (mine.headD 0 : Nat) - (e.2.2.addr ix).1)), BitVec.ofNat 8 mine.length] ++ mine.map (fun i => bs.getD i 0))

/-- Send a multicast write to the other replicas along the R axes (R311, R453). -/
def State.multicast (s : State) (asid : Nat) (a : LaneAcc) (bs : List Byte) : State :=
  match s.ctx? asid with
  | none => s
  | some c =>
    let me := field c.drank 11 0
    { s with ualOut := s.ualOut ++ (c.entriesAt a.va a.n).flatMap (fun e =>
        (mcstParts asid me e a.va (bs.take a.n)).flatMap (fun p =>
          ((e.2.1.replicas me).filter (s.reaches c)).map (fun r => ualWrite (c.station r) p))) }

/-- The lowest rank with a replica of a range that no port reaches (R306; log 53). -/
def State.unreached (s : State) (asid va n : Nat) : Option Nat :=
  match s.ctx? asid with
  | none => none
  | some c => ((List.range 4096).find? (fun r =>
      (c.entriesAt va n).any (fun e => (e.2.1.replicas (field c.drank 11 0)).contains r) && !s.reaches c r))

/-- A wave's multicast write beyond its own shard (R295, R311, R453): marked for the merge at D2 and D3, else sent now. A replica that
cannot be reached raises `MACHINE_CHECK` (log 53). -/
def State.mcstBy (s : State) (w : WaveId) (a : LaneAcc) (bs : List Byte) : State :=
  if (s.viewOf w).isSome then
    s.updTeam w.team (fun t => { t with wrep := t.wrep ++ (List.range a.n).map (a.va + ·) })
  else
    let s' := s.multicast (asidOf w) a bs
    match s.unreached (asidOf w) a.va a.n with
    | some r => s'.postCause w.team (some w.wave) cMachineCheck r 0
    | none => s'

/-- `MCST` (R452, R453). At D2 the replicas are written at the merge (R297). -/
def semMcst (f : FmtM) (x : Iss) (s : State) : Res :=
  let n := 2 ^ f.wd.toNat
  let as := x.lanes.map (fun l => { lane := l, va := effAddr x l f, n := n : LaneAcc })
  match x.misaligned n as with
  | some (m, a) => .trap cAlign m a
  | none =>
    storeGlobal (.mcst f) f.ds n (fun c a => !c.needsMcst a.va a.n && (c.converting a.va a.n).isNone) (fun s a bs => s.mcstBy x.wid a bs) x as s

/-- `MCST` (R452). -/
def execMcst (f : FmtM) (s : State) : Host.Outcome State Fault Refusal := issue (.mcst f) f.h (semMcst f) s

/-- The new value of an atomic operation (R262), by the codes of R382, on `w` bits. -/
def atomNew (op : Nat) (signed : Bool) (w old v : Nat) : Nat :=
  let m := 2 ^ w
  let less (a b : Nat) : Bool := if signed then sext w a < sext w b else a % m < b % m
  match op with
  | 0 => (old + v) % m
  | 1 => (fAdd 10 .rne (decVal 10 old) (decVal 10 v)).1
  | 2 => (if less v old then v else old) % m
  | 3 => (if less old v then v else old) % m
  | 4 => (old &&& v) % m
  | 5 => (old ||| v) % m
  | 6 => (old ^^^ v) % m
  | 7 => v % m
  | _ => if old ≥ v % m then 0 else old + 1

/-- `FACC` on a record of 64 bits (R160): `SUM` low, `COMP` high. -/
def faccNew (rec x : Nat) : Nat :=
  let sum := rec % 2 ^ 32
  let comp := rec / 2 ^ 32
  let t := fAdd 10 .rne (decVal 10 sum) (decVal 10 x)
  match decVal 10 t.1 with
  | .nan _ => canonNaN 10 + comp * 2 ^ 32
  | .inf _ => t.1 + comp * 2 ^ 32
  | .fin n m =>
    let e := (decVal 10 sum).real + (decVal 10 x).real - (if n then -m else m)
    let c := fAdd 10 .rne (decVal 10 comp) (.fin (decide (e < 0)) (if e < 0 then -e else e))
    t.1 + c.1 * 2 ^ 32

/-- The value operand of an atomic in a lane: a register, or the immediate form (R382). -/
def atomVal (x : Iss) (l : Nat) (f : FmtM) (w : Nat) : Nat :=
  (if f.ai.toNat == 511 then (if f.rep then wrapN 64 f.off.toInt else f.off.toNat) else x.rd l f.ai (w / 32)) % 2 ^ w

/-- The issuing thread's grid-linear index (R267). -/
def keyT (w : Wave) (l : Nat) : Nat := w.id.team.team * 1025 + (if w.isLead then 1024 else w.id.wave * 32 + l)

/-- Send deferred updates (R265, R267): one per lane, and q advances in every thread named. -/
def State.defer (s : State) (x : Iss) (us : List Update) : State :=
  let s := us.foldl (fun s u =>
    let (id, s) := s.newId
    ({ s with updates := s.updates ++ [(x.wid.team.grid, x.wid.team, id, u)] } : State).updCtx (asidOf x.wid) (fun c =>
      c.markWritten (s.ownBlock x.wid.team.grid) u.va (u.width / 8))) s
  s.updWave x.wid (fun w => w.updThreads x.lanes (fun _ t => { t with q := t.q + 1 }))

/-- The deferred updates of a phase (R265): those of lanes that a converting entry holds are sent when the conversion ends, with the keys
they have now (R267, R320). -/
def State.deferAll (s : State) (x : Iss) (i : Instr) (p : Phase) (u : LaneAcc → Update) : State :=
  let s := s.defer { x with lanes := x.lanes.filter (fun l => !p.stay.contains l) } (p.go.map (fun d => u d.1))
  (p.holdPlain s x i (fun a => [(u a).value, (u a).t, (u a).q, (u a).src])).keepSlots x.w.core x.wid (p.slots x.w.core)

/-- One indivisible operation at memory (R249): the old bytes, and the state with the new ones. -/
def State.rmw (s : State) (w : WaveId) (va : Nat) (pas : List (Nat × Nat)) (new : Nat → Option Nat) : Nat × State :=
  let n := (pas.map (·.2)).foldl (· + ·) 0
  let old := ofBytes (s.viewBytes (s.viewOf w) va pas)
  match new old with
  | some v => (old, s.laneWrite w va pas (toBytes n v))
  | none => (old, s)

/-- Perform an operation for the ready lanes in ascending order (R263): the old value of each, and the state. -/
def State.rmwLanes (s : State) (w : WaveId) (new : Nat → Nat → Option Nat) :
    List (LaneAcc × List (Nat × Nat)) → List (Nat × List Byte) × State
  | [] => ([], s)
  | d :: ds =>
    let (old, s1) := s.rmw w d.1.va d.2 (new d.1.lane)
    let (os, s') := s1.rmwLanes w new ds
    ((d.1.lane, toBytes d.1.n old) :: os, s')

/-- The same in a team's scratch, which holds no uncorrectable error. -/
def Team.rmwLanes (t : Team) (new : Nat → Nat → Option Nat) : List LaneAcc → List (Nat × List Byte) × Team
  | [] => ([], t)
  | a :: as =>
    let old := t.scratchBytes a.va a.n
    let t1 := match new a.lane (ofBytes old) with | some v => t.setScratch a.va (toBytes a.n v) | none => t
    let (os, t') := t1.rmwLanes new as
    ((a.lane, old) :: os, t')

/-- An atomic of format M (R383 to R385): `new` per lane, and the deferred form of a lane where the level defers it. -/
def semAtomic (i : Instr) (f : FmtM) (imm : Bool) (new : Nat → Nat → Option Nat) (deferred : Option (Nat → Update))
    (operands : Nat → List Nat) (x : Iss) (s : State) : Res :=
  let n := 2 ^ f.wd.toNat
  let as := x.lanes.map (fun l => { lane := l, va := baseAddr x l f (!imm), n := n : LaneAcc })
  let level := s.levelOf x.wid.team.grid
  let nondet : Res := .trap cNondeterministic x.actMask (match as with | a :: _ => a.va | [] => 0)
  x.orAnswer f.ds.toNat s <| match x.misaligned n as with
  | some (m, a) => .trap cAlign m a
  | none =>
    if f.sp.toNat == 1 then
      match x.beyond (s.scratchSize x.wid) as with
      | some (m, a) => .trap cProtection m a
      | none =>
        if level ≥ 1 then nondet else
        match s.team? x.wid.team with
        | none => .go s []
        | some t => match poolCheck x t 1 as with
          | some (m, a) => .check [] m a []
          | none =>
            let (olds, t') := t.rmwLanes new as
            .go ((s.updTeam x.wid.team (fun _ => t')).deliver x.wid .atomic f.ds.toNat olds) []
    else
      match s.phase x as .write (fun c a => c.needsMcst a.va a.n) with
      | .error r => r.emptying x f.ds.toNat (max 1 (n / 4))
      | .ok p =>
        if level ≥ 1 then
          match deferred with
          | none => if p.go.isEmpty && p.held.isEmpty then .go p.s p.stay else nondet
          | some u =>
            .go (p.s.deferAll x i p (fun a => { u a.lane with va := a.va })) p.stay
        else
          let code := f.ds.toNat
          match dataCheckTo x code (max 1 (n / 4)) (badLanes p.s x.wid p.go) with
          | some r => r
          | none =>
          let (olds, s) := p.s.rmwLanes x.wid new p.go
          let s := s.deliver x.wid .atomic code olds (p.slots x.w.core)
          .go (p.holdAll s x i .atomic code (max 1 (n / 4)) operands) (p.stay ++ x.awaits code p.held)

/-- `ATOM` (R382 to R386). -/
def semAtom (f : FmtM) (x : Iss) (s : State) : Res :=
  let w := 8 * 2 ^ f.wd.toNat
  let op := f.rd.toNat
  semAtomic (.atom f) f (f.ai.toNat == 511) (fun l old => some (atomNew op f.rep w old (atomVal x l f w)))
    (if f.ds.toNat == 511 && op ≤ 6 then
      some (fun l => { src := x.w.core, t := keyT x.w l, q := (x.w.thread l).q, e := 0, va := 0, op := op, signed := f.rep, width := w,
                       value := atomVal x l f w, sat := false })
     else none)
    (fun l => [atomVal x l f w]) x s

/-- `ATOM` (R382). -/
def execAtom (f : FmtM) (s : State) : Host.Outcome State Fault Refusal := issue (.atom f) f.h (semAtom f) s

/-- `CAS` (R382 to R386). -/
def semCas (f : FmtM) (x : Iss) (s : State) : Res :=
  let w := 8 * 2 ^ f.wd.toNat
  let c (l : Nat) : Nat := x.rd l f.ds (w / 32) % 2 ^ w
  semAtomic (.cas f) f false (fun l old => if old = c l then some (atomVal x l f w) else none) none
    (fun l => [atomVal x l f w, c l]) x s

/-- `CAS` (R382). -/
def execCas (f : FmtM) (s : State) : Host.Outcome State Fault Refusal := issue (.cas f) f.h (semCas f) s

/-- The core an engine instruction is sent to (R21, R22), `none` where R23 raises `PLACE_RANGE`. `bays` where `PB` selects
a bay, `cores` where `PX` and `PY` select a core; elsewhere the field must be 0. -/
def State.target (s : State) (x : Iss) (f : FmtX) (cores bays : Bool) : Option Nat :=
  let here := x.w.core
  let tx : Int := ((here % 8 : Nat) : Int) + f.px.toInt
  let ty : Int := ((here / 8 : Nat) : Int) + f.py.toInt
  let tb : Int := (x.w.bay : Int) + f.pb.toInt
  let inside : Bool := match s.grid? x.wid.team.grid with
    | none => false
    | some g => match g.rect with
      | none => false
      | some r => ((r % 8 : Nat) : Int) ≤ tx && tx < ((r % 8 + g.lrec.width : Nat) : Int) && ((r / 8 : Nat) : Int) ≤ ty &&
          ty < ((r / 8 + g.lrec.height : Nat) : Int)
  if !inside || (!cores && (f.px != 0 || f.py != 0)) || (if bays then tb < 0 || tb > 3 else f.pb != 0) then none
  else some (ty.toNat * 8 + tx.toNat)

/-- The bay that `PB` selects, once R23 lets it (R21). -/
def bayTo (x : Iss) (f : FmtX) : Nat := ((x.w.bay : Int) + f.pb.toInt).toNat

/-- `PLACE_RANGE` (R23, R331). -/
def placeRange (x : Iss) (f : FmtX) : Res :=
  .trap cPlaceRange x.actMask (f.px.toNat + f.py.toNat * 2 ^ 8 + f.pb.toNat * 2 ^ 16)

/-- `FACC` (R160 to R164, R417, R418). -/
def semFacc (f : FmtX) (x : Iss) (s : State) : Res :=
  let as := x.lanes.map (fun l => { lane := l, va := x.rd l f.a 2, n := 8 : LaneAcc })
  match s.target x f true true with
  | none => placeRange x f
  | some _ =>
    if as.any (fun a => a.va == 0) then .trap cNullPointer x.actMask 0 else
    match x.misaligned 8 as with
    | some (m, a) => .trap cAlign m a
    | none => match s.phase x as .write (fun c a => c.needsMcst a.va a.n) with
      | .error r => r
      | .ok p =>
        let v (l : Nat) : Nat := x.rd l f.b 1 % 2 ^ 32
        if s.levelOf x.wid.team.grid ≥ 1 then
          .go (p.s.deferAll x (.facc f) p (fun a =>
            { src := x.w.core, t := keyT x.w a.lane, q := (x.w.thread a.lane).q, e := 0, va := a.va, op := 16, signed := false, width := 64,
              value := v a.lane, sat := false })) p.stay
        else
          match dataCheck x (badLanes p.s x.wid p.go) with
          | some r => r
          | none =>
          let (_, s) := p.s.rmwLanes x.wid (fun l old => some (faccNew old (v l))) p.go
          .go ((p.holdPlain s x (.facc f) (fun a => [v a.lane])).keepSlots x.w.core x.wid (p.slots x.w.core)) p.stay

/-- `FACC` (R417). -/
def execFacc (f : FmtX) (s : State) : Host.Outcome State Fault Refusal := issue (.facc f) f.h (semFacc f) s

/-- `FENCE` (R429): in a memory that is sequentially consistent (log 7) it only advances the PC. -/
def execFence (f : FmtM) (s : State) : Host.Outcome State Fault Refusal := issue (.fence f) f.h (fun _ s => .go s []) s

/-- Whether a thread's earlier stores are still to be seen by walks (R232): in its team's write set, or held by an entry that converts. -/
def State.unseenBy (s : State) (w : Wave) (l : Nat) : Bool :=
  (w.thread l).unseen || s.waiting.any (fun r => r.wave == w.id && r.lanes.getLsbD l && r.nums.length ≥ 4 &&
    match r.instr with | .st _ | .mcst _ | .placeGet _ => true | _ => false)

/-- `FENCE.WALK` (R232, R429), in each active thread (R75): the threads whose stores no walk sees yet wait; for the others no TLB of the
package holds a translation of the context any longer. -/
def semFenceWalk (x : Iss) (s : State) : Res :=
  let late := x.act.filter (s.unseenBy x.w)
  let s := late.foldl (fun s l => s.block x.wid [l] (.unseen l)) s
  .go (if late.length == x.act.length then s else { s with tlb := s.tlb.filter (fun e => e.asid != asidOf x.wid) }) late

/-- `FENCE.WALK` (R232). -/
def execFenceWalk (f : FmtM) (s : State) : Host.Outcome State Fault Refusal := issue (.fenceWalk f) f.h semFenceWalk s

/-- `CFLUSH` (R395): it changes only timing. -/
def execCflush (f : FmtM) (s : State) : Host.Outcome State Fault Refusal := issue (.cflush f) f.h (fun _ s => .go s []) s

/-- `PREF` (R446): it changes only timing. -/
def execPref (f : FmtM) (s : State) : Host.Outcome State Fault Refusal := issue (.pref f) f.h (fun _ s => .go s []) s

/-- The read of completion objects by `CTEST` and `CWAIT` (R403 to R405): a lane whose value satisfies `enough` writes it,
and another waits. -/
def semObject (f : FmtM) (off : Bool) (enough : Nat → Nat → Bool) (least : Nat → Nat) (x : Iss) (s : State) : Res :=
  let as := x.lanes.map (fun l => { lane := l, va := baseAddr x l f off, n := 8 : LaneAcc })
  match x.answers s with
  | v :: vs =>
    let late := (v :: vs).any (fun v => match v.2 with | some k => !enough v.1 k | none => false)
    if late then .go ((s.endAnswers x).updWave x.wid (fun w => w.updThreads x.act (fun _ t => { t with run := .ready }))) x.act
    else x.orAnswer f.ds.toNat s (.go s [])
  | [] =>
    if as.any (fun a => a.va == 0) then .trap cNullPointer x.actMask 0 else
    match x.misaligned 8 as with
    | some (m, a) => .trap cAlign m a
    | none => if x.atChannel s then .hold s none (some .channel) else
    match s.phase x as .read (fun _ _ => false) with
    | .error r => r
    | .ok p =>
      let bad := badLanes p.s x.wid p.go
      let read := p.go.map (fun d =>
        (d.1, ofBytes (p.s.viewBytes (p.s.viewOf x.wid) d.1.va d.2)))
      let met := read.filter (fun r => enough r.1.lane r.2)
      let unmet := read.filter (fun r => !enough r.1.lane r.2)
      match dataCheck x bad with
      | some r => r
      | none =>
        let s := p.s.updWave x.wid (fun w => met.foldl (fun w r => w.writeReg r.1.lane f.ds.toNat 2 r.2) w)
        let s := unmet.foldl (fun s r =>
          s.block x.wid (if x.uni then x.act else [r.1.lane]) (.object r.1.va (least r.1.lane))) s
        let s := s.keepSlots x.w.core x.wid (p.slots x.w.core)
        let s := p.held.foldl (fun s h => s.holdValue x (.ctest f) h (p.s.toks x.w.core [h.1]) []) s
        .go s (p.stay ++ (if x.uni && !(unmet.isEmpty && p.held.isEmpty) then x.act
          else unmet.map (fun r => r.1.lane) ++ p.held.map (fun h => h.1.lane)))

/-- `CTEST` (R403, R404). -/
def execCtest (f : FmtM) (s : State) : Host.Outcome State Fault Refusal :=
  issue (.ctest f) f.h (semObject f true (fun _ _ => true) (fun _ => 0)) s

/-- The threshold of `CWAIT` in a lane (R403). -/
def waitFor (x : Iss) (f : FmtM) (l : Nat) : Nat := if f.ai.toNat == 511 then f.off.toNat else x.rd l f.ai 2

/-- `CWAIT` (R403, R404). -/
def execCwait (f : FmtM) (s : State) : Host.Outcome State Fault Refusal :=
  issue (.cwait f) f.h (fun x s =>
    semObject f (f.ai.toNat != 511) (fun l v => waitFor x f l ≤ v) (waitFor x f) x s) s

/-- Install the values of a request in the registers that still wait for it (R90, R264, R352); those of ended threads are
dropped (R416). -/
def Wave.install (w : Wave) (id : Nat) (fills : List Fill) : Wave :=
  let mine := (w.empties.filter (fun p => p.2 == id)).map (·.1)
  let w := { w with empties := w.empties.filter (fun p => p.2 != id) }
  fills.foldl (fun w f =>
    if f.code < 320 then
      (if mine.contains (vkey f.lane f.code) && (w.thread f.lane).run != .ended then w.setV f.lane f.code (f.val.setWidth 32) else w)
    else w.writeReg f.lane f.code 2 f.val.toNat) w

/-- The reply of a request of some kind (R90): its registers are filled and the request is gone. A reply to a team that is
stopped is installed at resume, before any issue (R352). A request that waits at a pseudo-channel has no reply yet (R217). -/
def State.reply (s : State) (id : Nat) (ok : ReqKind → Bool) : State :=
  if s.atChannel (.request id) then s else
  match s.reqs.find? (fun r => r.id == id && ok r.kind) with
  | none => s
  | some r =>
    { s.updWave r.wave (fun w => w.install id r.fills) with reqs := s.reqs.filter (fun q => q.id != id) }

/-- Whether a converting entry still holds the access that a request answers (R320). -/
def State.heldReq (s : State) (id : Nat) : Bool := s.waiting.any (fun w => w.nums.getD 3 0 == id && id != 0 && match w.instr with
  | .ld _ | .atom _ | .cas _ | .pldRed _ | .texq _ | .texqRead _ => true
  | _ => false)

/-- `LOAD_REPLY` (R444). -/
def execLoadReply (req : Nat) (s : State) : Host.Outcome State Fault Refusal :=
  commit s (if s.heldReq req then s else s.reply req (· == .load))

/-- `ATOMIC_REPLY` (R264). -/
def execAtomicReply (req : Nat) (s : State) : Host.Outcome State Fault Refusal :=
  commit s (if s.heldReq req then s else s.reply req (fun k => k == .atomic || k == .marks))

/-- An update takes 32 bytes of the spill area, whose contents are not architected (R266): free values. It is discarded where they lie in a
retired block (R224; log 88). -/
def State.spillOne (s : State) (c : Ctx) : State :=
  ({ s.storeBytes (c.spillPa + c.spillUsed) (toBytes 32 (Config.freeNat s.fresh)) with fresh := s.fresh + 1 } : State).updCtx c.asid
    (fun c => { c with spillUsed := c.spillUsed + 32 })

/-- The 128-byte line of a deferred update at its home slice (R266): that of its PA. -/
def State.homeLine (s : State) (g : GridId) (va : Nat) : Nat :=
  match (s.ctx? g.asid).map (fun c => s.xlate c (s.ownBlock g) va 1 .write) with
  | some (.ok pa) => pa / 128
  | _ => 2 ^ 57 + va / 128

/-- Whether an update on its way is the first of its core to its home die (R19, R20): those of one source to one destination arrive in
order. -/
def State.firstUpdate (s : State) (id : Nat) : Bool :=
  match s.updates.find? (fun u => u.2.2.1 == id) with
  | none => false
  | some (g, _, _, u) =>
    let die (g : GridId) (va : Nat) : Nat := (homeOf (128 * s.homeLine g va)).die
    match s.updates.find? (fun v => v.2.2.2.src == u.src && die v.1 v.2.2.2.va == die g u.va) with
    | some v => v.2.2.1 == id
    | none => false

/-- The wave that issued a deferred update, by its key (R267). -/
def Update.wave (u : Update) : Nat := u.t % 1025 / 32

/-- Whether an update is one of a transfer's scatter-adds (R267, R476). -/
def Xfer.sent (x : Xfer) (t : TeamId) (u : Update) : Bool :=
  x.op == 3 && u.op ≥ 17 && x.t == u.t && x.q == u.q && match x.issuer with | .wave w => w.team == t | .node _ _ => false

/-- `DEFERRED_UPDATE_ARRIVAL` (R266, R268): the update is held, or spilled, or discarded with its cause. The transfer of a scatter-add may
then complete (R476). -/
def arriveUpdate (id : Nat) (s : State) : State :=
  match s.updates.find? (fun u => u.2.2.1 == id) with
  | none => s
  | some (g, t, _, u) =>
    let s : State := { s with updates := s.updates.filter (fun u => u.2.2.1 != id) }
    let s := (s.xfers.filter (fun x => x.sent t u)).foldl (fun s x => s.pushDue (.transferCompletion x.id)) s
    match s.grid? g, s.ctx? g.asid with
    | some gr, some c =>
      let line := s.homeLine g u.va
      let n := cellGet 0 gr.heldLines line
      let spill := n ≥ 16
      let lost (s : State) (cause : Nat) : State :=
        if (s.team? t).isSome then s.postCause t (some u.wave) cause u.va 0 else s.teamCause t cause u.va
      if spill && c.spillUsed + 32 > c.spillSz * 2 ^ 16 then lost s cNondeterministic
      else match (if spill then s.partialRetired (c.spillPa + c.spillUsed) 32 else none) with
      | some pa => lost (s.logBad pa) cMachineCheck
      | none =>
        let s := s.updGrid g (fun g => { g with heldLines := cellSet 0 g.heldLines line (n + 1) })
        let s := if spill then s.spillOne c else s
        if (s.team? t).isSome then s.updTeam t (fun t => { t with updates := t.updates ++ [u] })
        else s.updGrid g (fun g => { g with left := g.left.map (fun r =>
          if r.team = t.team ∧ r.copy = t.copy then { r with updates := r.updates ++ [u] } else r) })
    | _, _ => s

/-- `DEFERRED_UPDATE_ARRIVAL` (R266). -/
def execDeferredUpdateArrival (id : Nat) (s : State) : Host.Outcome State Fault Refusal :=
  commit s (if s.firstUpdate id then arriveUpdate id s else s)

end Sys2Proof.Machine
end

