-- ==== Sys2Proof/Machine/Matrix.lean ====
section
/-!
DEFINITION. The matrix engine (08 R171 to R188; 05 R125, R126, R130; 13 R287): weight images and slots, the FIFO with its
acceptance, the exact accumulation of products, the drain of tiles, `VXM`, and the events of quarters and entries.
-/
namespace Sys2Proof.Machine

/-- K per slot by element type (R171), and the K rows of one member's quarter. -/
def slotK (ty : Nat) : Nat := if tyWidth ty == 4 then 512 else if tyWidth ty == 8 then 256 else 128
def memberK (ty : Nat) : Nat := slotK ty / 4

/-- Whether an activation type pairs with a weight type (R180). -/
def pairs (act weight : Nat) : Bool :=
  match weight with
  | 11 | 12 => act == 11 || act == 12
  | 8 | 9 => act == 8 || act == 9
  | t => act == t

/-- The quartet of a MATRIX wave (R27, R50). -/
def quartetOf (l : LaunchRec) (wave : Nat) : Nat := (wave - l.ncopy) / 4

/-- A weight slot of a team. -/
def Team.wslot (t : Team) (k : Nat) : WSlot := cellGet WSlot.none t.wslots k
def Team.setWslot (t : Team) (k : Nat) (w : WSlot) : Team := { t with wslots := cellSet WSlot.none t.wslots k w }

/-- Whether an accepted entry bound to the latched generation of a slot is unfinished (R175). -/
def State.boundLeft (s : State) (t : Team) (k gen : Nat) : Bool :=
  (s.core t.core).fifo.any (fun e => e.wave.team == t.id && e.slot == k && e.gen == gen && match e.instr with
    | .mmac _ => true
    | _ => false)

/-- The transitions of a weight slot that need no transfer (R175): a staged quarter begins a generation, and a drained slot
fills. -/
def State.slotSettle (s : State) (tid : TeamId) (k : Nat) : State :=
  match s.team? tid with
  | none => s
  | some t =>
    let w := t.wslot k
    let w := match w.state, t.staged.find? (fun q => q.slot == k) with
      | .empty, some q => { w with state := .filling, formTy := q.ty, formQuartet := q.quartet, filled := [] }
      | .latched, some q => { w with state := .draining, formTy := q.ty, formQuartet := q.quartet, filled := [] }
      | _, _ => w
    let w := if w.state == .draining && !s.boundLeft t k w.gen then { w with state := .filling } else w
    s.updTeam tid (fun t => t.setWslot k w)

/-- `MWL` (R174). The register form reads the registers of all lanes, and waits until all are full (`readIn`): the model's choice
(log 95). DEDUCED (log 102): with `C` it takes scales from scratch. -/
def semMwl (f : FmtX) (x : Iss) (s : State) : Res :=
  let ty := f.fn.toNat % 16
  let scr := f.fn.getLsbD 4
  let k := if f.fn.getLsbD 5 then 1 else 0
  let nscale := if f.c.toNat == 511 then 0 else if tyWidth ty == 4 then 512 else 256
  let ops := (if scr then [(f.a, 1)] else []) ++ (if f.c.toNat == 511 then [] else [(f.c, 1)])
  match x.uniformFaults ops with
  | some (m, v) => .trap cUniform m v
  | none => match s.target x f false false, s.team? x.wid.team with
    | none, _ => placeRange x f
    | some _, none => .go s []
    | some _, some t =>
      let a := x.uval f.a 1 % 2 ^ 32
      let c := x.uval f.c 1 % 2 ^ 32
      let size := s.scratchSize x.wid
      if scr && a % 256 != 0 then .trap cAlign x.actMask a
      else if nscale != 0 && c % 64 != 0 then .trap cAlign x.actMask c
      else if scr && a + 8192 > size then .trap cProtection x.actMask (max a size)
      else if nscale != 0 && c + nscale > size then .trap cProtection x.actMask (max c size)
      else match poolCheck x t 1 ((if scr then [{ lane := x.first, va := a, n := 8192 }] else []) ++
          [{ lane := x.first, va := c, n := nscale }]) with
      | some (m, v) => .check [] m v []
      | none => if t.staged.any (fun q => q.bay == x.w.bay && q.slot == k) then .hold s none (some (.staging k)) else
        let bytes := if scr then t.scratchBytes a 8192 else
          (List.range 64).flatMap (fun i => (List.range 32).flatMap (fun l => toBytes 4 (x.w.vreg l (f.a.toNat + i)).toNat))
        let q : Quarter := { bay := x.w.bay, slot := k, quartet := quartetOf (s.recOf x.wid) x.wid.wave, ty := ty,
                             bytes := bytes, scales := t.scratchBytes c nscale }
        .go ((s.updTeam t.id (fun t => { t with staged := t.staged ++ [q] })).slotSettle t.id k) []

/-- `MWL` (R174). -/
def execMwl (f : FmtX) (s : State) : Host.Outcome State Fault Refusal := issue (.mwl f) f.h (semMwl f) s

/-- `QUARTER_TRANSFER` (R175): a staged quarter of the forming generation's quartet, from a position not yet filled, reaches
the arrays; four of them latch the generation. -/
def transferQuarter (core bay k : Nat) (s : State) : State :=
  match s.teams.find? (fun t => t.core == core && !s.frozen t.id && t.staged.any (fun q => q.bay == bay && q.slot == k)) with
  | none => s
  | some t =>
    match t.staged.find? (fun q => q.bay == bay && q.slot == k) with
    | none => s
    | some q =>
      let w := t.wslot k
      if w.state != .filling || q.quartet != w.formQuartet || w.filled.any (fun p => p.bay == bay) then s else
      let filled := w.filled ++ [q]
      let w := if filled.length < 4 then { w with filled := filled }
        else { w with state := .latched, gen := w.gen + 1, ty := w.formTy, latched := filled, filled := [] }
      (s.updTeam t.id (fun t => ({ t with staged := t.staged.filter (fun p => !(p.bay == bay && p.slot == k)) } : Team).setWslot k w)).slotSettle t.id k

/-- `QUARTER_TRANSFER` (R175). -/
def execQuarterTransfer (core bay slot : Nat) (s : State) : Host.Outcome State Fault Refusal :=
  commit s (transferQuarter core bay slot s)

/-- Whether an instruction enters the matrix FIFO. -/
def isMatrix (i : Instr) : Bool := match i with
  | .mmac _ | .mzero _ | .mdrn _ | .vxm _ => true
  | _ => false

/-- Whether the FIFO of a core has a free entry for a bay (R176, R287). Entries of teams that are away are saved. -/
def State.fifoRoom (s : State) (core bay : Nat) : Bool :=
  let es := (s.core core).fifo.filter (fun e => match s.team? e.wave.team with | some t => !t.away | none => false)
  es.length < 64 && (es.filter (fun e => e.bay == bay)).length < 40

/-- Whether a piece of work still waits at issue: its wave is one that may issue (R282, R284), holds on it and is not stopped by a halt or
with its context. -/
def State.waitsAtIssue (s : State) (x : Waiting) : Bool :=
  !s.frozen x.wave.team && match s.wave? x.wave with
  | none => false
  | some w => (w.active || w.isLead) && w.moves.isEmpty && w.halt != .stopped && (match w.hold with | some h => h.work == some x.id | none => false)

/-- Whether one wave's waiting comes before another's (R287): it began in an earlier clock, else the lower bay, then the lower `WAVE`. -/
def State.waitsBefore (s : State) (a b : Waiting) : Bool :=
  a.since < b.since || (a.since == b.since && (s.bayOf a.wave < s.bayOf b.wave || (s.bayOf a.wave == s.bayOf b.wave && a.wave.wave < b.wave.wave)))

/-- Waiting work in the order of R287. -/
def State.byWait (s : State) : List Waiting → List Waiting
  | [] => []
  | a :: l =>
    let r := s.byWait l
    r.takeWhile (fun b => s.waitsBefore b a) ++ a :: r.dropWhile (fun b => s.waitsBefore b a)

/-- The waves that wait at issue of matrix work on a core and could be accepted, in the order of R287. -/
def State.matrixWaiters (s : State) (core : Nat) : List Waiting :=
  s.byWait (s.waiting.filter (fun x => x.core == core && isMatrix x.instr && s.waitsAtIssue x &&
    match s.wave? x.wave with | some w => s.fifoRoom core w.bay | none => false))

/-- Forget a piece of work. -/
def State.dropWork (s : State) (id : Nat) : State := { s with waiting := s.waiting.filter (fun x => x.id != id) }

/-- Hold the wave at issue on a piece of work, new or the one it waits on already. -/
def holdAt (x : Iss) (i : Instr) (core : Nat) (s : State) : Res :=
  match x.w.hold with
  | some h => .hold s h.work none
  | none =>
    let (id, s) := s.newId
    .hold { s with waiting := s.waiting ++ [{ id := id, wave := x.wid, lanes := maskOf x.group, pc := x.pc, instr := i,
                                               core := core, nums := [], since := (s.core core).clocks,
                                               slots := [], spots := [], pas := [], freed := false }] } (some id) none

/-- Accept an entry, or wait at issue until the FIFO has room and no wave has waited longer (R176, R287). -/
def offerEntry (i : Instr) (x : Iss) (accept : State → Res) (s : State) : Res :=
  let mine := match x.w.hold with | some h => h.work | none => none
  let before := (s.matrixWaiters x.w.core).takeWhile (fun y => some y.id != mine)
  if s.fifoRoom x.w.core x.w.bay && before.isEmpty then
    accept (match mine with | some id => s.dropWork id | none => s)
  else holdAt x i x.w.core s

/-- Put an entry into the FIFO; it counts as a command of its team until it completes (R30). -/
def State.pushEntry (s : State) (x : Iss) (e : Entry) : State :=
  let (id, s) := s.newId
  (s.updCore x.w.core (fun c => { c with fifo := c.fifo ++ [{ e with id := id, order := id, carry := s.carryOf x.wid 2 }] })).owe x.wid.team true

/-- An entry as it is accepted, with nothing bound. -/
def newEntry (i : Instr) (x : Iss) (srcs : List (Nat × Word)) (scal : List Nat) : Entry :=
  { id := 0, wave := x.wid, bay := x.w.bay, instr := i, lanes := x.actMask, srcs := srcs, scal := scal, desc := 0, dst := [],
    res := [], slot := 0, gen := 0, started := false, order := 0, carry := Carry.none, seen := [] }

/-- The check of a tile index (R179): the index where it is in range. -/
def tileOf (f : FmtX) (x : Iss) (s : State) : Option Nat :=
  let n := x.uval f.b 1 % 2 ^ 32
  if n < s.tiles x.wid then some n else none

/-- `MMAC` (R179 to R181, R187). -/
def semMmac (f : FmtX) (x : Iss) (s : State) : Res :=
  let ty := f.fn.toNat % 16
  let scr := f.fn.getLsbD 4
  let k := if f.fn.getLsbD 5 then 1 else 0
  let groups := slotK ty / 32
  let acc (r : RegCode) (n : Nat) : List LaneAcc := x.act.map (fun l => { lane := l, va := x.rd l r 1 % 2 ^ 32, n := n })
  let y : Iss := { x with uni := false }
  match s.target x f false false, s.team? x.wid.team with
  | none, _ => placeRange x f
  | some _, none => .go s []
  | some _, some t =>
    let w := t.wslot k
    match tileOf f x s with
    | none => .trap cIllegalOperand x.actMask f.b.toNat
    | some n =>
      let forming := w.state == .filling || w.state == .draining
      if w.state == .empty || !pairs ty (if forming then w.formTy else w.ty) then .trap cIllegalOperand x.actMask f.b.toNat else
      match (if scr then y.misaligned 64 (acc f.a 256) else none),
            (if f.c.toNat == 511 then none else y.misaligned 16 (acc f.c groups)) with
      | some (m, a), _ => .trap cAlign m a
      | none, some (m, a) => .trap cAlign m a
      | none, none =>
        match (if scr then y.beyond (s.scratchSize x.wid) (acc f.a 256) else none),
              (if f.c.toNat == 511 then none else y.beyond (s.scratchSize x.wid) (acc f.c groups)) with
        | some (m, a), _ => .trap cProtection m a
        | none, some (m, a) => .trap cProtection m a
        | none, none =>
          offerEntry (.mmac f) x (fun s =>
            let rows := if scr then x.act.map (fun l => (l, x.w.vreg l f.a.toNat))
              else x.act.flatMap (fun l => (List.range 64).map (fun i => (64 * l + i, x.w.vreg l (f.a.toNat + i))))
            let scales := if f.c.toNat == 511 then [] else x.act.map (fun l => (4096 + l, x.w.vreg l f.c.toNat))
            .go (s.pushEntry x { newEntry (.mmac f) x (rows ++ scales) [n] with
              slot := k
              gen := if forming then w.gen + 1 else w.gen
              seen := if scr || f.c.toNat != 511 then t.scratch else [] }) []) s

/-- `MMAC` (R179). -/
def execMmac (f : FmtX) (s : State) : Host.Outcome State Fault Refusal := issue (.mmac f) f.h (semMmac f) s

/-- `MZERO` (R183). -/
def semMzero (f : FmtX) (x : Iss) (s : State) : Res :=
  match s.target x f false false with
  | none => placeRange x f
  | some _ => match tileOf f x s with
    | none => .trap cIllegalOperand x.actMask f.b.toNat
    | some n => offerEntry (.mzero f) x (fun s => .go (s.pushEntry x (newEntry (.mzero f) x [] [n])) []) s

/-- `MZERO` (R183). -/
def execMzero (f : FmtX) (s : State) : Host.Outcome State Fault Refusal := issue (.mzero f) f.h (semMzero f) s

/-- A drain descriptor's fields (R184). -/
structure Drain where
  dst : Nat
  dpitch : Nat
  rpitch : Nat
  res : Nat
  seed : DWord
  keep : Nat
  alpha : Nat
  beta : Nat
  dty : Nat
  rty : Nat
  dk : Nat
  rk : Nat
  rm : Nat
  sat : Bool
  sr : Bool
  drop : Bool
  aty : Bool
  cols : Nat
  deriving DecidableEq, Repr

def drainOf (d : Nat) : Drain :=
  { dst := nfield d 63 0, dpitch := nfield d 95 64, rpitch := nfield d 127 96, res := nfield d 191 128,
    seed := BitVec.ofNat 64 (nfield d 255 192), keep := nfield d 287 256, alpha := nfield d 319 288, beta := nfield d 351 320,
    dty := nfield d 355 352, rty := nfield d 359 356, dk := nfield d 361 360, rk := nfield d 363 362, rm := nfield d 365 364,
    sat := d.testBit 366, sr := d.testBit 367, drop := d.testBit 368, aty := d.testBit 369, cols := nfield d 376 370 + 1 }

/-- Whether R184 rejects a descriptor, given the destination field. -/
def drainBad (d dcode : Nat) : Bool :=
  let r := drainOf d
  nfield d 511 377 != 0 || r.dk == 3 || r.rk == 3 || !([8, 9, 10].contains r.rty)
    || !(if r.aty then [0, 2, 10] else [8, 9, 10, 11, 12, 13, 14]).contains r.dty
    || (r.sr && (r.rm != 0 || !([8, 9, 11, 12, 13, 14].contains r.dty)))
    || (r.dty == 13 && r.cols % 2 != 0) || (dcode != 511) != (r.dk == 0)
    || r.dst % 16 != 0 || r.res % 16 != 0 || r.dpitch % 16 != 0 || r.rpitch % 16 != 0 || (r.dk == 0 && r.dst != 0)

/-- Bytes of a drained row and of a residual row. -/
def Drain.rowBytes (r : Drain) : Nat := ceilDiv (r.cols * tyWidth r.dty) 8
def Drain.resBytes (r : Drain) : Nat := r.cols * (tyWidth r.rty / 8)

/-- Registers of a drained row (R185). -/
def Drain.regs (r : Drain) : Nat := ceilDiv r.rowBytes 4

/-- The accesses of the active lanes' rows at a base and a pitch. -/
def rowsAt (x : Iss) (base pitch n : Nat) : List LaneAcc :=
  x.act.map (fun l => { lane := l, va := (base + l * pitch) % 2 ^ 64, n := n })

/-- Translate the rows an engine will write and read, checked together as stores and loads (R184, R227), with what else would fail after
them: the PAs by lane, or what the group does instead. A miss and another engine's ownership hold every issuing thread before acceptance;
for the last that is the model's choice (log 93). -/
def engineRows (x : Iss) (dst res : List LaneAcc) (late : Option (LaneMask × Nat)) (s : State)
    (go : List (Nat × List (Nat × Nat)) → List (Nat × List (Nat × Nat)) → Res) : Res :=
  let y : Iss := { x with uni := false }
  let each := x.act.flatMap (fun l => (dst.filter (fun a => a.lane == l)).map (fun a => (a, Acc.write)) ++
    (res.filter (fun a => a.lane == l)).map (fun a => (a, Acc.read)))
  match s.xlateEach y each, s.ctx? (asidOf x.wid), late with
  | .stop r, _, _ => r
  | _, none, _ => .go s []
  | _, _, some (m, a) => .trap cProtection m a
  | .ok _ _, some c, none => match s.xlateLanes y dst .write, s.xlateLanes y res .read with
    | .ok dd dm, .ok rd rm =>
      match dm ++ rm with
      | m :: ms => .go (s.park x.wid (!dm.isEmpty) (x.act.map (fun l => (l, m.1.va, ((m :: ms).flatMap (·.2)).eraseDups)))) x.act
      | [] =>
        match dd.filter (fun d => c.needsMcst d.1.va d.1.n) with
        | d :: ds => .trap cPlacement (maskOf ((d :: ds).map (fun e => e.1.lane))) d.1.va
        | [] => match (dd ++ rd).find? (fun d => s.owned c.asid d.1.va d.1.n) with
          | some d => .go (s.block x.wid x.act (.owned d.1.va d.1.n)) x.act
          | none => go (dd.map (fun d => (d.1.lane, d.2))) (rd.map (fun d => (d.1.lane, d.2)))
    | _, _ => .go s []

/-- The procedural blocks that an accepted drain will write are marked written (R240): the write has passed their state. -/
def State.drainMarks (s : State) (x : Iss) (r : Drain) : State :=
  s.updCtx (asidOf x.wid) (fun c => (rowsAt x r.dst r.dpitch r.rowBytes).foldl (fun c a =>
    c.markWritten (s.ownBlock x.wid.team.grid) a.va a.n) c)

/-- The rows of an entry that is accepted while a placement entry converts are held from then on (R320). -/
def State.holdRows (s : State) (x : Iss) (id : Nat) (rows : List LaneAcc) : State :=
  match s.ctx? (asidOf x.wid) with
  | some c => if rows.any (fun a => (c.converting a.va a.n).isSome) then s.holdBytes c (entryWork id) 0 (rows.map (fun a => (a.va, a.n))) else s
  | none => s

/-- The acceptance of a drain (R184): the entry, with its destination registers empty until it completes. -/
def drainAccept (f : FmtX) (r : Drain) (d n : Nat) (x : Iss) (s : State) (dst res : List (Nat × List (Nat × Nat))) : Res :=
  offerEntry (.mdrn f) x (fun s =>
    let c := x.uval f.c 2
    let id := s.nextId
    let s := s.pushEntry x { newEntry (.mdrn f) x [] [n, c % 2 ^ 32, c / 2 ^ 32 % 2 ^ 32] with
      desc := BitVec.ofNat 512 d
      dst := dst
      res := res }
    let s := s.holdRows x id ((if r.dk == 2 then rowsAt x r.dst r.dpitch r.rowBytes else []) ++
      (if r.rk == 2 then rowsAt x r.res r.rpitch r.resBytes else []))
    let s := if r.dk == 2 then s.drainMarks x r else s
    .go (if r.dk == 0 then s.updWave x.wid (fun w => x.act.foldl (fun w l => w.markEmpty l f.d.toNat r.regs id) w) else s) []) s

/-- The rest of a drain's checks with the lanes whose destination registers are full (R91, R184, R187): the destination's and the
residual's translation and protection, then `PLACEMENT` (R332), then acceptance. -/
def drainChecks (f : FmtX) (r : Drain) (d n : Nat) (x : Iss) (s : State) : Res :=
  let dst := rowsAt x r.dst r.dpitch r.rowBytes
  let res := rowsAt x r.res r.rpitch r.resBytes
  let y : Iss := { x with uni := false }
  let size := s.scratchSize x.wid
  match (if r.dk == 1 then y.beyond size dst else none) with
  | some (m, a) => .trap cProtection m a
  | none =>
    engineRows x (if r.dk == 2 then dst else []) (if r.rk == 2 then res else []) (if r.rk == 1 then y.beyond size res else none) s
      (drainAccept f r d n x s)

/-- Lanes that wait for registers beside those that an effect went on with. -/
def Res.also (r : Res) (stuck : List Nat) : Res :=
  match r with
  | .go s stay => .go s (stay ++ stuck)
  | r => r

/-- `MDRN` (R184, R187). -/
def semMdrn (f : FmtX) (x : Iss) (s : State) : Res :=
  let va := x.uval f.a 2
  match x.uniformFault f.a 2 with
  | some (m, v) => .trap cUniform m v
  | none => match s.target x f false false with
    | none => placeRange x f
    | some _ => match tileOf f x s with
      | none => .trap cIllegalOperand x.actMask f.b.toNat
      | some n =>
        if va == 0 then .trap cNullPointer x.actMask 0
        else if va % 64 != 0 then .trap cAlign x.actMask va
        else match s.uload x va 64 with
          | .res r => r
          | .ok d =>
            let r := drainOf d
            if drainBad d f.d.toNat then .trap cIllegalOperand x.actMask va
            else if r.dk == 0 && f.d.toNat + r.regs > x.w.nregs then .trap cIllegalOperand x.actMask f.d.toNat
            else if (r.dk == 2 && r.dst == 0) || (r.rk == 2 && r.res == 0) then .trap cNullPointer x.actMask 0
            else
              let stuck := if r.dk == 0 then x.act.filter (fun l => x.w.anyPending l f.d.toNat r.regs) else []
              let go := x.act.filter (fun l => !stuck.contains l)
              if go.isEmpty then .go s stuck else (drainChecks f r d n { x with act := go } s).also stuck

/-- `MDRN` (R184). -/
def execMdrn (f : FmtX) (s : State) : Host.Outcome State Fault Refusal := issue (.mdrn f) f.h (semMdrn f) s

/-- The bytes of the weights of a `VXM` of a weight type (R186). -/
def vxmBytes (wt k n : Nat) : Nat := ceilDiv (k * n * tyWidth wt) 8

/-- `VXM` (R186, R495). DEDUCED (log 28): `TADDR` of types that R180 does not pair is the register code of `C`. -/
def semVxm (f : FmtX) (x : Iss) (s : State) : Res :=
  let wt := f.fn.toNat / 16
  let xt := f.fn.toNat % 16
  let dim := x.uval f.c 2
  let k := vxmK dim
  let n := vxmN dim
  let va := x.uval f.b 2
  match x.uniformFault f.b 2 with
  | some (m, v) => .trap cUniform m v
  | none => match s.target x f false false with
    | none => placeRange x f
    | some _ =>
      if !pairs xt wt then .trap cIllegalOperand x.actMask f.c.toNat
      else if !vxmDim k || !vxmDim n then .trap cIllegalOperand x.actMask f.c.toNat
      else if va == 0 then .trap cNullPointer x.actMask 0
      else if va % 256 != 0 then .trap cAlign x.actMask va
      else
        let row : LaneAcc := { lane := x.first, va := va, n := vxmBytes wt k n }
        match engineRows x [] [row] none s (fun _ pas =>
            offerEntry (.vxm f) x (fun s =>
              let srcs := (List.range k).map (fun i =>
                (i, if x.act.contains (i % 32) then x.w.vreg (i % 32) (f.a.toNat + i / 32) else 0))
              let id := s.nextId
              let s := (s.pushEntry x { newEntry (.vxm f) x srcs [k, n, va] with dst := pas }).holdRows x id [row]
              .go (s.updWave x.wid (fun w => x.act.foldl (fun w l => w.markEmpty l f.d.toNat (n / 32) id) w)) []) s) with
        | .trap cause _ addr => .trap cause x.actMask addr
        | r => r

/-- `VXM` (R186). -/
def execVxm (f : FmtX) (s : State) : Host.Outcome State Fault Refusal := issue (.vxm f) f.h (semVxm f) s

/-- An exact sum over the extended reals (R125): not a number, whether each infinity has occurred, the finite part. -/
structure Exact where
  nan : Bool
  pos : Bool
  neg : Bool
  sum : Rat
  deriving DecidableEq, Repr

def Exact.zero : Exact := { nan := false, pos := false, neg := false, sum := 0 }

/-- Add an exact product to an exact sum. -/
def Exact.add (e : Exact) (a b : Val) : Exact :=
  match (mulExact a b).1 with
  | .nan _ => { e with nan := true }
  | .inf n => if n then { e with neg := true } else { e with pos := true }
  | .fin n m => { e with sum := e.sum + (if n then -m else m) }

/-- The value of an exact sum; a finite sum has the sign of its value. -/
def Exact.val (e : Exact) : Val :=
  if e.nan || (e.pos && e.neg) then .nan false
  else if e.pos then .inf false
  else if e.neg then .inf true
  else .fin (decide (e.sum < 0)) (if e.sum < 0 then -e.sum else e.sum)

/-- One group's update of an accumulator (R125): F32, or I32 wrapping or clamped. -/
def accUpdate (int sat : Bool) (acc : Nat) (s : Exact) : Nat × BitVec 6 :=
  if int then
    let x := intVal 2 acc + s.sum.floor
    if sat then (wrapN 32 (clampInt 2 x), if clampInt 2 x = x then 0 else ofBit) else (wrapN 32 x, 0)
  else match s.val with
    | .nan _ => (canonNaN 10, nvBit)
    | .fin n m => if m = 0 then (acc, 0) else fAdd 10 .rne (decVal 10 acc) (.fin n m)
    | v => fAdd 10 .rne (decVal 10 acc) v

/-- Element `i` of a packed image. -/
def elemOf (ty : Nat) (bytes : List Byte) (i : Nat) : Nat :=
  match tyWidth ty with
  | 4 => let b := (bytes.getD (i / 2) 0).toNat; if i % 2 == 0 then b % 16 else b / 16
  | 8 => (bytes.getD i 0).toNat
  | _ => (bytes.getD (2 * i) 0).toNat + 256 * (bytes.getD (2 * i + 1) 0).toNat

/-- The weight in row k and column c of a latched generation, times its scale (R173, R182). -/
def weightOf (qs : List Quarter) (k c : Nat) : Val :=
  match qs with
  | [] => .fin false 0
  | q0 :: _ =>
    let m := memberK q0.ty
    match qs.find? (fun q => q.bay == k / m) with
    | none => .fin false 0
    | some q =>
      let scale := if q.scales.isEmpty then none else some (q.scales.getD (k % m / 32 * 128 + c) 0)
      scaledVal q.ty (elemOf q.ty q.bytes (k % m * 128 + c)) scale

/-- A latched generation is INVALID when its quarters name different types (R175). -/
def invalidGen (w : WSlot) : Bool := w.latched.any (fun q => q.ty != w.ty)

/-- Bytes of scratch that an entry reads (R182): a word written since its acceptance reads as it was or as it is (log 90). -/
def Entry.scratch (e : Entry) (t : Team) (a n : Nat) : List Byte :=
  (List.range n).map (fun i => cellGet 0 (if Config.readsOld e.id ((a + i) / 4) then e.seen else t.scratch) (a + i))

/-- The activation row of a lane as an entry holds it or reads it from scratch, and its scale bytes (R173, R182). -/
def rowBytesOf (e : Entry) (f : FmtX) (t : Team) (l : Nat) : List Byte :=
  let src (k : Nat) : Nat := (cellGet 0 e.srcs k).toNat
  if f.fn.getLsbD 4 then e.scratch t (src l) 256 else (List.range 64).flatMap (fun i => toBytes 4 (src (64 * l + i)))
def rowScales (e : Entry) (f : FmtX) (t : Team) (l groups : Nat) : List Byte :=
  if f.c.toNat == 511 then [] else e.scratch t (cellGet 0 e.srcs (4096 + l)).toNat groups

/-- The words of a row of a tile after the groups of an `MMAC` (R182): column by column, with the exceptions. -/
def mmacRow (ty : Nat) (sat : Bool) (bytes scales : List Byte) (w : Nat → Nat → Val) (old : Nat → Nat) :
    List (Nat × BitVec 6) :=
  let groups := slotK ty / 32
  let a (k : Nat) : Val := scaledVal ty (elemOf ty bytes k) (if scales.isEmpty then none else some (scales.getD (k / 32) 0))
  (List.range 128).map (fun c =>
    (List.range groups).foldl (fun (acc : Nat × BitVec 6) g =>
      let s := (List.range 32).foldl (fun e i => e.add (a (32 * g + i)) (w (32 * g + i) c)) Exact.zero
      let r := accUpdate (ty == 0) sat acc.1 s
      (r.1, acc.2 ||| r.2)) (old c, 0))

/-- Set a row of a tile; the bytes written hold no uncorrectable error from then on (R223). -/
def Team.setRow (t : Team) (tiles bay n r : Nat) (ws : List Nat) : Team :=
  let a0 := 16384 * n + 512 * r
  { t with acc := cellSets 0 t.acc ((List.range ws.length).map (fun c => (accKey tiles bay n (128 * r + c), BitVec.ofNat 32 (ws.getD c 0))))
           badPool := t.badPool.filter (fun p => !(p.1 == 2 + bay && a0 ≤ p.2 && p.2 < a0 + 4 * ws.length)) }

/-- The effect of an `MMAC` entry (R182): the team and the exceptions. -/
def runMmac (e : Entry) (f : FmtX) (tiles : Nat) (t : Team) : Team × BitVec 6 :=
  let w := t.wslot e.slot
  let n := e.scal.headD 0
  let ty := f.fn.toNat % 16
  if invalidGen w then (t, nvBit) else
  (lanesOf e.lanes).foldl (fun (p : Team × BitVec 6) l =>
    let row := mmacRow ty (f.fn.getLsbD 6) (rowBytesOf e f p.1 l) (rowScales e f p.1 l (slotK ty / 32)) (weightOf w.latched)
      (fun c => (p.1.accWord tiles e.bay n l c).toNat)
    (p.1.setRow tiles e.bay n l (row.map (·.1)), row.foldl (fun x r => x ||| r.2) p.2)) (t, 0)

/-- The first byte of the pool that an `MMAC` entry cannot read (R223): of its activations and scales in scratch, or of its rows of the tile.
An INVALID generation reads none. -/
def mmacBad (e : Entry) (f : FmtX) (t : Team) : Option Nat :=
  let src (k : Nat) : Nat := (cellGet 0 e.srcs k).toNat
  if invalidGen (t.wslot e.slot) then none else
  (lanesOf e.lanes).findSome? (fun l =>
    (t.badByte 1 ((if f.fn.getLsbD 4 then [{ lane := l, va := src l, n := 256 }] else []) ++
      (if f.c.toNat == 511 then [] else [{ lane := l, va := src (4096 + l), n := slotK (f.fn.toNat % 16) / 32 }]))).orElse fun _ =>
    t.badByte (2 + e.bay) [{ lane := l, va := 16384 * e.scal.headD 0 + 512 * l, n := 512 }])

/-- The effect of an `MZERO` entry (R183). -/
def runMzero (e : Entry) (tiles : Nat) (t : Team) : Team :=
  (lanesOf e.lanes).foldl (fun t l => t.setRow tiles e.bay (e.scal.headD 0) l (List.replicate 128 0)) t

/-- One element of a drain (R185): the output code, the exceptions, and the draws it makes. DEDUCED (log 92): an infinite y of an F32
output stays infinite with `SAT` too, since R123 converts to narrower formats only. -/
def drainElem (r : Drain) (a : Nat) (resid : Option Nat) (row col : Nat) (draw : Nat) : Nat × BitVec 6 × Nat :=
  let intPath := r.aty && r.dty != 10
  let (y, e) : Nat × BitVec 6 :=
    if intPath then (a, 0) else
    let (a, e0) : Nat × BitVec 6 := if r.aty then (let c := convert 2 10 .rne false a; (wrapN 32 c.1, c.2)) else (a, 0)
    let rv : Val := match resid with | some k => decVal r.rty k | none => .fin false 0
    let p := mulExact (decVal 10 r.alpha) (decVal 10 a)
    let q := mulExact (decVal 10 r.beta) rv
    let v := fAdd 10 .rne p.1 q.1
    (v.1, e0 ||| p.2 ||| q.2 ||| v.2)
  let y := if r.drop && philox r.seed row col 0 0 ≥ r.keep then 0 else y
  let st := if intPath then 2 else 10
  if r.dty == st then (y, e, 0) else
  let c := convert st r.dty (if r.sr then .sr draw else rndOf r.rm) r.sat y
  (wrapN (tyWidth r.dty) c.1, e ||| c.2, if r.sr then 1 else 0)

/-- A drained row of a lane (R185): its bytes, the exceptions and the draws. -/
def drainRow (r : Drain) (w : Wave) (l row0 col0 : Nat) (tile : Nat → Nat) (res : List Byte) : List Byte × BitVec 6 × Nat :=
  let cnt := (w.thread l).srcnt.toNat
  let out := (List.range r.cols).foldl (fun (p : List Nat × BitVec 6 × Nat) c =>
    let resid := if r.rk == 0 then none else
      some (ofBytes ((res.drop (c * (tyWidth r.rty / 8))).take (tyWidth r.rty / 8)))
    let o := drainElem r (tile c) resid ((row0 + l) % 2 ^ 32) ((col0 + c) % 2 ^ 32) (drawOf w l (cnt + p.2.2))
    (p.1 ++ [o.1], p.2.1 ||| o.2.1, p.2.2 + o.2.2)) ([], 0, 0)
  let bytes := if tyWidth r.dty == 4 then
      (List.range (r.cols / 2)).map (fun i => BitVec.ofNat 8 (out.1.getD (2 * i) 0 + 16 * out.1.getD (2 * i + 1) 0))
    else out.1.flatMap (fun c => toBytes (tyWidth r.dty / 8) c)
  (bytes, out.2)

/-- A row image in whole registers: the bytes past it in the last register are stated nowhere and are free (R185; log 91), the same in a rerun
and in both copies of a redundant team from D1 on (R289, R299). -/
def fullWords (key l : Nat) (bs : List Byte) : List Byte := bs ++ toBytes ((4 - bs.length % 4) % 4) (Config.padBytes key l)

/-- The PAs of a lane's row. -/
def rowPas (ps : List (Nat × List (Nat × Nat))) (l : Nat) : List (Nat × Nat) :=
  (ps.filter (fun p => p.1 == l)).flatMap (·.2)

/-- Where an uncorrectable error that an entry meets was found: in a block of memory, which is logged by its PA, in the pool, or not at all,
where the cause is another. -/
inductive Found where
  | block (pa : Nat)
  | pool
  | none
  deriving DecidableEq, Repr

/-- How an entry fails in a lane or as a whole: the cause, its `TADDR`, and what is logged. -/
structure EntryFault where
  cause : Nat
  addr : Nat
  found : Found
  deriving DecidableEq, Repr

/-- An uncorrectable error in a block of memory, or in the pool. -/
def EntryFault.block (va pa : Nat) : EntryFault := { cause := cMachineCheck, addr := va, found := .block pa }
def EntryFault.pool (a : Nat) : EntryFault := { cause := cMachineCheck, addr := a, found := .pool }

/-- Where the bytes of an entry's rows stand that a placement entry has held (R320). -/
def State.entryPlaces (s : State) (e : Entry) : Places := s.placesOf (entryWork e.id) 0

/-- The bytes of a row of global memory that an entry reads, and why it cannot (R184, R223, R320). -/
def State.rowRead (s : State) (c : Ctx) (e : Entry) (va n : Nat) (pas : List (Nat × Nat)) : List Byte :=
  let p := s.entryPlaces e
  if p.meets va n then (p.spread va n).flatMap (fun q => toBytes 1 (s.engRead c (.wave e.wave) (q.1 : Int) 1))
  else s.viewBytes (s.viewOf e.wave) va pas
def State.rowFault (s : State) (c : Ctx) (e : Entry) (acc : Acc) (va n : Nat) (pas : List (Nat × Nat)) : Option EntryFault :=
  let view := s.viewOf e.wave
  if (s.entryPlaces e).meets va n then
    match s.engVia c (s.ownBlock e.wave.team.grid) view acc (entryWork e.id) 0 [((va : Int), n)] with
    | .fault cause a => some { cause := cause, addr := a, found := .none }
    | _ => none
  else if acc == .write then
    if view.isSome then none else (pas.findSome? (fun p => s.partialRetired p.1 p.2)).map (.block ((s.partVa va pas).getD va))
  else if s.ownBytes view va n then none else (s.badVa va pas).map (fun b => .block b.1 b.2)

/-- A row that an entry writes to global memory (R185, R320). -/
def State.rowWrite (s : State) (c : Ctx) (e : Entry) (va : Nat) (pas : List (Nat × Nat)) (bs : List Byte) : State :=
  let p := s.entryPlaces e
  if p.meets va bs.length then
    match s.engWrite c (.wave e.wave) (p.runs [(va, bs)]) with
    | .ok s => s
    | .error a => (s.logVa c.asid a).postCause e.wave.team (some e.wave.wave) cMachineCheck a 0
  else s.laneWrite e.wave va pas bs

/-- The effect of one lane of an `MDRN` entry (R185): its bytes reach their place, and the exceptions are gathered. A row that cannot be
read or written is not, and its registers stay empty (R223, R224). -/
def drainLane (e : Entry) (f : FmtX) (tiles : Nat) (p : State × BitVec 6 × List EntryFault) (l : Nat) :
    State × BitVec 6 × List EntryFault :=
  let s := p.1
  let r := drainOf e.desc.toNat
  match s.team? e.wave.team, s.wave? e.wave, s.ctx? (asidOf e.wave) with
  | some t, some w, some c =>
    let n := e.scal.headD 0
    let rva := (r.res + l * r.rpitch) % 2 ^ 64
    let dva := (r.dst + l * r.dpitch) % 2 ^ 64
    let fault : List (Option EntryFault) :=
      [(t.badByte (2 + e.bay) [{ lane := l, va := 16384 * n + 512 * l, n := 4 * r.cols }]).map .pool,
       if r.rk == 1 then (t.badByte 1 [{ lane := l, va := rva, n := r.resBytes }]).map .pool
       else if r.rk == 2 then s.rowFault c e .read rva r.resBytes (rowPas e.res l) else none]
    match fault.findSome? id with
    | some b => (s, p.2.1, p.2.2 ++ [b])
    | none =>
      let res := match r.rk with
        | 1 => t.scratchBytes rva r.resBytes
        | 2 => s.rowRead c e rva r.resBytes (rowPas e.res l)
        | _ => []
      let out := drainRow r w l (e.scal.getD 1 0) (e.scal.getD 2 0)
        (fun c => (t.accWord tiles e.bay n l c).toNat) res
      let s := s.updWave e.wave (fun w => w.updThread l (fun t => { t with srcnt := t.srcnt + BitVec.ofNat 64 out.2.2 }))
      let late := if r.dk == 2 then s.rowFault c e .write dva r.rowBytes (rowPas e.dst l) else none
      let s := match r.dk with
        | 0 => s.updWave e.wave (fun w =>
          let mine := (w.empties.filter (fun q => q.2 == e.id && vkeyLane q.1 == l)).map (·.1)
          let w := { w with empties := w.empties.filter (fun q => !mine.contains q.1 || q.2 != e.id) }
          (fillsOf l f.d.toNat (fullWords (s.freeKey e.wave e.id (e.desc.toNat :: e.scal)) l out.1)).foldl (fun w g =>
            if mine.contains (vkey l g.code) then w.setV l g.code (g.val.setWidth 32) else w) w)
        | 1 => s.updTeam t.id (fun t => t.setScratch dva out.1)
        | _ => if late.isSome then s else s.rowWrite c e dva (rowPas e.dst l) out.1
      (s, p.2.1 ||| out.2.1, p.2.2 ++ late.toList)
  | _, _, _ => p

/-- The sums of a `VXM` (R186), by n: F32 or I32 codes with their exceptions. -/
def vxmSums (wt xt k n : Nat) (xs : Nat → Nat) (image : List Byte) : List (Nat × BitVec 6) :=
  (List.range n).map (fun c =>
    (List.range (k / 32)).foldl (fun (acc : Nat × BitVec 6) g =>
      let s := (List.range 32).foldl (fun e i =>
        let j := 32 * g + i
        e.add (decVal xt (xs j % 2 ^ tyWidth xt)) (decVal wt (elemOf wt image (j * n + c)))) Exact.zero
      let r := accUpdate (wt == 0) false acc.1 s
      (r.1, acc.2 ||| r.2)) (0, 0))

/-- The effect of a `VXM` entry: the state, the exceptions, and why it cannot read its weights. -/
def runVxm (e : Entry) (f : FmtX) (s : State) : State × BitVec 6 × List EntryFault :=
  let k := e.scal.getD 0 0
  let n := e.scal.getD 1 0
  let va := e.scal.getD 2 0
  let wt := f.fn.toNat / 16
  let pas := e.dst.flatMap (·.2)
  match s.ctx? (asidOf e.wave) with
  | none => (s, 0, [])
  | some c => match s.rowFault c e .read va (vxmBytes wt k n) pas with
    | some b => (s, 0, [b])
    | none =>
      let sums := vxmSums wt (f.fn.toNat % 16) k n (fun i => (cellGet 0 e.srcs i).toNat) (s.rowRead c e va (vxmBytes wt k n) pas)
      let fills := (lanesOf e.lanes).flatMap (fun l => (List.range (n / 32)).map (fun j =>
        { lane := l, code := f.d.toNat + j, val := BitVec.ofNat 64 (sums.getD (32 * j + l) (0, 0)).1 : Fill }))
      (s.updWave e.wave (fun w => w.install e.id fills), sums.foldl (fun x r => x ||| r.2) 0, [])

/-- The barrier an entry arrives on (R177), none under `NB`. -/
def barrierOf (i : Instr) : Option Nat :=
  match i with
  | .mmac f | .mzero f | .mdrn f => if f.imm8.getLsbD 4 then none else some (f.imm8.toNat % 16)
  | _ => none

/-- An event that accepts or completes work for a held wave repeats its issue (R176, R399). -/
def State.reissue (s : State) (r : Waiting) (h : Hdr) (body : Iss → State → Res) : State :=
  match s.wave? r.wave with
  | none => s.dropWork r.id
  | some w =>
    let group := lanesOf r.lanes
    let act := group.filter (guardTrue h w)
    let uni := isUniform r.instr
    let x : Iss := { wid := r.wave, w := w, group := group, pc := r.pc, act := act, uni := uni,
                     lanes := if uni then act.take 1 else act }
    finish x s (body x s)

/-- `MATRIX_FIFO_ACCEPTANCE` (R176, R287): the wave that began waiting first is accepted, its checks made again. -/
def acceptMatrix (core : Nat) (s : State) : State :=
  match s.matrixWaiters core with
  | [] => s
  | r :: _ => match r.instr with
    | .mmac f => s.reissue r f.h (semMmac f)
    | .mzero f => s.reissue r f.h (semMzero f)
    | .mdrn f => s.reissue r f.h (semMdrn f)
    | .vxm f => s.reissue r f.h (semVxm f)
    | _ => s

/-- `MATRIX_FIFO_ACCEPTANCE` (R287). -/
def execMatrixFifoAcceptance (core : Nat) (s : State) : Host.Outcome State Fault Refusal := commit s (acceptMatrix core s)

/-- Change a core's entry. -/
def State.updEntry (s : State) (core id : Nat) (f : Entry → Entry) : State :=
  s.updCore core (fun c => { c with fifo := c.fifo.map (fun e => if e.id = id then f e else e) })

/-- Whether an access to a tile still waits that issued before an entry was accepted (R178). -/
def State.tileWaited (s : State) (e : Entry) : Bool :=
  s.waves.any (fun w => w.id.team == e.wave.team && w.bay == e.bay && w.lanes.any (fun l =>
    (w.thread l).waits w.tlevel (fun v => match v with
      | .tile n before => e.scal.head? == some n && before ≤ e.id
      | _ => false)))

/-- `MATRIX_ENTRY_START` (R176, R178, R188). -/
def startMatrix (core bay : Nat) (s : State) : State :=
  let es := (s.core core).fifo.filter (fun e => e.bay == bay && !s.frozen e.wave.team)
  match es.find? (fun e => !e.started) with
  | none => s
  | some e =>
    let ready := match e.instr, s.team? e.wave.team with
      | .mmac _, some t => let w := t.wslot e.slot; w.gen == e.gen && (w.state == .latched || w.state == .draining)
      | _, _ => true
    let names := match e.instr with | .vxm _ => false | _ => s.tileWaited e
    if (s.core core).fifo.any (fun e => e.bay == bay && e.started) || !ready || names then s else s.updEntry core e.id (fun e => { e with started := true })

/-- `MATRIX_ENTRY_START` (R176). -/
def execMatrixEntryStart (core bay : Nat) (s : State) : Host.Outcome State Fault Refusal := commit s (startMatrix core bay s)

/-- The accesses of global memory that an entry makes when it completes (R184, R186). -/
def Entry.reach (e : Entry) : List (Acc × Nat × Nat) :=
  match e.instr with
  | .mdrn _ =>
    let r := drainOf e.desc.toNat
    (lanesOf e.lanes).flatMap (fun l => (if r.dk == 2 then [(Acc.write, (r.dst + l * r.dpitch) % 2 ^ 64, r.rowBytes)] else []) ++
      (if r.rk == 2 then [(Acc.read, (r.res + l * r.rpitch) % 2 ^ 64, r.resBytes)] else []))
  | .vxm f => [(Acc.read, e.scal.getD 2 0, vxmBytes (f.fn.toNat / 16) (e.scal.getD 0 0) (e.scal.getD 1 0))]
  | _ => []

/-- What an entry that would complete waits for: lines that other work took before it (R258), an entry that converts or has released what
arrived before (R320), or what its rows miss on where they now are. -/
def State.entryWaits (s : State) (c : Ctx) (e : Entry) : Option State :=
  if c.killed then none else
  let work := entryWork e.id
  let p := s.entryPlaces e
  let freed := s.freedOf work 0
  let now := e.reach.flatMap (fun a => (p.spread a.2.1 a.2.2).map (fun q => (a.1, q.1, q.2)))
  if now.any (fun a => (a.1 == .write && !freed.contains a.2.1 && s.ownedBefore work e.order c.asid a.2.1 a.2.2) ||
      s.behind work 0 c.asid a.2.1 a.2.2) then some s
  else if now.any (fun a => ((s.viaCtx c work 0 a.2.1).converting a.2.1 a.2.2).isSome) then
    some (s.holdBytes c work 0 (e.reach.map (·.2)))
  else if p.isEmpty then none
  else match now.foldr (fun a r => engJoin (s.engOne (s.viaCtx c work 0 a.2.1) (s.ownBlock e.wave.team.grid) (s.viewOf e.wave) a.1 (a.2.1 : Int) a.2.2) r) .ok with
    | .wait on => some (s.engAsk c.asid (.wave e.wave) true none on)
    | _ => none

/-- The effect of an entry (R182 to R186): the state, the exceptions, and how it fails in some lanes or as a whole. -/
def entryEffect (e : Entry) (s : State) : State × BitVec 6 × List EntryFault :=
  let tiles := s.tiles e.wave
  match e.instr with
  | .mmac f => match s.team? e.wave.team with
    | some t => match mmacBad e f t with
      | some a => (s, 0, [.pool a])
      | none => let r := runMmac e f tiles t; (s.updTeam t.id (fun _ => r.1), r.2, [])
    | none => (s, 0, [])
  | .mzero _ => (s.updTeam e.wave.team (runMzero e tiles), 0, [])
  | .mdrn f => (lanesOf e.lanes).foldl (drainLane e f tiles) (s, 0, [])
  | .vxm f => runVxm e f s
  | _ => (s, 0, [])

/-- An entry's fault is told, and what it found bad is logged (R222, R223); registers that it was to fill stay empty (R157). -/
def State.tellEntry (s : State) (core : Nat) (e : Entry) : List EntryFault → State
  | [] => s
  | b :: _ =>
    let s := match b.found with | .block pa => s.logBad pa | .pool => s.logPool core | .none => s.logCause (asidOf e.wave) b.cause b.addr
    (s.postCause e.wave.team (some e.wave.wave) b.cause b.addr 0).updWave e.wave (fun w => w.fillLost e.id)

/-- `MATRIX_ENTRY_COMPLETION` (R130, R177, R182 to R186): the entry's effect, its flags, then its arrival, once its requests are past the
pseudo-channels (R217). With the last entry of a stopped generator its grid is gone (R242, R348). -/
def completeMatrix (core bay : Nat) (s : State) : State :=
  match (s.core core).fifo.find? (fun e => e.bay == bay && e.started) with
  | none => s
  | some e =>
    if s.atChannel (.matrix core e.id) && !(s.ctx? (asidOf e.wave)).any (·.killed) then s else
    match (s.ctx? (asidOf e.wave)).bind (fun c => s.entryWaits c e) with
    | some s => s
    | none =>
    let r := entryEffect e s
    let s := (r.1.updCore core (fun c => { c with fifo := c.fifo.filter (fun x => x.id != e.id) })).dropBytes (entryWork e.id)
    let s := (s.updWave e.wave (fun w => { w with flags := w.flags ||| r.2.1 })).tellEntry core e r.2.2
    let s := match e.instr with | .mmac _ => s.slotSettle e.wave.team e.slot | _ => s
    let s := match barrierOf e.instr with | some n => s.engineArrive e.wave.team n | none => s
    let g := e.wave.team.grid
    let s := if (s.grid? g).any (·.dropped) && !s.cores.any (fun p => p.2.fifo.any (fun x => x.wave.team.grid == g)) then s.dropGrid g else s
    (s.owe e.wave.team false).pushDue (.teamRetirement e.wave.team)

/-- `MATRIX_ENTRY_COMPLETION` (R177). -/
def execMatrixEntryCompletion (core bay : Nat) (s : State) : Host.Outcome State Fault Refusal :=
  commit s (completeMatrix core bay s)

end Sys2Proof.Machine
end

