-- ==== Sys2Proof/Machine/Engines.lean ====
section
/-!
DEFINITION. The copy engine (09 R194 to R202; 12 R257 to R259): the accesses an engine makes, the bytes of a destination sector,
`COPY`, `GATH`, `SCAT` (19 R398 to R400; 20 R430, R431; 22 R475, R476), `CSIG` (19 R401, R402), and the dependence graph
with `NODE` (13 R275 to R278; 21 R458, R459), with the events of each.
-/
namespace Sys2Proof.Machine

/-- Whether a pair of types converts (R195): equal types, whose codes are unchanged, and the pairs of R123. -/
def copyPair (s d : Nat) : Bool := s == d || cvtPair s d

/-- Whether an index tensor stands where the operation needs it (R196). -/
def indexOk (op : Nat) (d s : Tensor) : Bool :=
  match op with
  | 0 => s.idxp == 0 && d.idxp == 0
  | 1 => s.idxp != 0 && d.idxp == 0
  | _ => d.idxp != 0 && s.idxp == 0

/-- The descriptor that breaks a rule between the two: false the destination, true the source (R196, R198). -/
def pairFault (op : Nat) (d s : Tensor) : Option Bool :=
  if d.rank != s.rank then some true
  else if !indexOk op d s then some (!(if op ≥ 2 then d.idxp == 0 else d.idxp != 0))
  else if op == 3 && !([10, 8, 9, 2, 6].contains d.fmt) then some false
  else if !copyPair s.fmt d.fmt then some true
  else none

/-- Whether the descriptors alone show an origin fault (R197): a dimension that takes no index leaves the source's bounds
under FAULT. -/
def originFault (op : Nat) (d s : Tensor) (origin : DWord) : Bool :=
  let e := if op ≥ 2 then s else d
  s.oob == 0 && (List.range s.rank).any (fun k =>
    !(op == 1 && k == s.idim) && (originOf origin k < 0 || (e.size k : Int) - 1 + originOf origin k ≥ (s.size k : Int)))

/-- One destination element that a transfer writes: the index position, where the value comes from, and where it goes. -/
structure Put where
  pos : Nat
  src : Bound
  dst : List Nat
  deriving DecidableEq, Repr

def Xfer.dT (t : Xfer) : Tensor := tensorOf t.dst.toNat
def Xfer.sT (t : Xfer) : Tensor := tensorOf t.src.toNat
def Xfer.moves (t : Xfer) : List Move := Machine.moves t.op t.dT t.sT t.origin t.idx

/-- The elements a transfer writes, in order; of those that a scatter sends to one element the one of highest position
(R193, R198). -/
def Xfer.puts (t : Xfer) : List Put :=
  let ps := t.moves.filterMap (fun m => match m.dst with
    | .inside ix => some { pos := m.pos, src := m.src, dst := ix : Put }
    | _ => none)
  if t.op == 2 then ps.filter (fun p => !ps.any (fun q => q.dst == p.dst && q.pos > p.pos)) else ps

/-- The destination bytes of an element: its own, or its block's (R195). -/
def Xfer.span (t : Xfer) (p : Put) : Int × Nat :=
  if t.dT.layout == 3 then (t.dT.blockBase p.dst, t.dT.blockBytes) else ((t.dT.addr p.dst).1, t.dT.es)

/-- The sectors an element touches (R200): aligned ranges of 512 bytes. -/
def Xfer.sectorsOf (t : Xfer) (p : Put) : List Int :=
  let (a, n) := t.span p
  [a / 512, (a + (n : Int) - 1) / 512].eraseDups

/-- Every sector of a transfer, as an address divided by 512. -/
def Xfer.sectors (t : Xfer) : List Int := (t.puts.flatMap t.sectorsOf).eraseDups

/-- A source element: its exact value times its scale, its code and its scale byte (R194). -/
def srcElem (sT : Tensor) (rd : Int → Nat → Nat) (b : Bound) : Val × Nat × Option Byte :=
  match b with
  | .inside js =>
    let (a, hi) := sT.addr js
    let code := codeIn sT.fmt hi (rd a sT.es)
    let scale := (sT.scaleAddr js).map (fun a => BitVec.ofNat 8 (rd a 1))
    (if sT.fmt < 8 then .fin (decide (intVal sT.fmt code < 0)) ((intVal sT.fmt code).natAbs : Nat) else scaledVal sT.fmt code scale, code, scale)
  | _ => (.fin false 0, 0, none)

/-- The code of an element in a destination that is not BLOCKED (R195). -/
def putCode (dT sT : Tensor) (v : Val × Nat × Option Byte) : Nat :=
  if sT.fmt == dT.fmt && v.2.2.isNone then v.2.1 else toCode sT.fmt dT.fmt dT.rm dT.sat v.1

/-- Write an element's code over bytes written so far; the other half of an E2M1 byte keeps its value. -/
def overlay (t : Tensor) (rd : Int → Nat → Nat) (ov : List (Nat × Byte)) (ix : List Nat) (code : Nat) : List (Nat × Byte) :=
  let (a, hi) := t.addr ix
  let k := wrapN 64 a
  if t.fmt == 13 then
    let old := match ov.find? (fun p => p.1 == k) with | some p => p.2.toNat | none => rd a 1
    cellPut ov k (BitVec.ofNat 8 (if hi then old % 16 + 16 * code else old / 16 * 16 + code))
  else
    let bs := codeBytes t.fmt code
    (List.range bs.length).foldl (fun ov i => cellPut ov (k + i) (bs.getD i 0)) ov

/-- The bytes of a block from the codes of its 32 elements and its scale (R191). -/
def blockImage (fmt : Nat) (codes : List Nat) (scale : Byte) : List Byte :=
  (if fmt == 13 then (List.range 16).map (fun i => BitVec.ofNat 8 (codes.getD (2 * i) 0 + 16 * codes.getD (2 * i + 1) 0))
    else codes.map (fun c => BitVec.ofNat 8 c)) ++ [scale]

/-- The scale of a block formed from exact values (R195); `none` is an element past the end of dimension 0. DESIGN CHOICE (log 105): the
scale of a block that holds an infinity is the greatest of its format. -/
def blockScale (fmt : Nat) (vals : List (Option Val)) : Byte :=
  let isNan (v : Option Val) : Bool := match v with | some v => v.isNaN | none => false
  let mag (v : Option Val) : Rat := match v with | some (.fin _ m) => m | _ => 0
  let isInf (v : Option Val) : Bool := match v with | some (.inf _) => true | _ => false
  if vals.any isNan then (if fmt == 14 then 0x80 else 0xFF)
  else if vals.any isInf then (if fmt == 14 then 0x7F else 0xFE)
  else formScale fmt (vals.foldl (fun m v => if m < mag v then mag v else m) 0)

/-- The code of an element of a formed block under its scale (R195); under a scale that is not a number it is +0. -/
def blockCode (fmt rm : Nat) (sat : Bool) (scale : Byte) (v : Option Val) : Nat :=
  match scaleVal fmt scale, v with
  | none, _ | _, none => 0
  | some k, some (.fin n m) => toCode 10 fmt rm sat (.fin n (m / k))
  | some _, some v => toCode 10 fmt rm sat v

/-- A block formed from exact values (R195). -/
def formBlock (fmt rm : Nat) (sat : Bool) (vals : List (Option Val)) : List Byte :=
  let scale := blockScale fmt vals
  blockImage fmt (vals.map (blockCode fmt rm sat scale)) scale

/-- The code of an element of a block's bytes. -/
def codeOfBlock (fmt : Nat) (bs : List Byte) (p : Nat) : Nat :=
  if fmt == 13 then (bs.getD (p / 2) 0).toNat / (if p % 2 == 1 then 16 else 1) % 16 else (bs.getD p 0).toNat

/-- Whether blocks may be copied bit for bit (R195): no index runs along dimension 0. -/
def Xfer.verbatim (t : Xfer) : Bool :=
  t.sT.layout == 3 && t.sT.fmt == t.dT.fmt && originOf t.origin 0 % 32 == 0 &&
    (match t.op with | 0 => true | 1 => t.sT.idim != 0 | _ => t.dT.idim != 0)

/-- What stands at a position of a destination block: the last element that the transfer writes there. -/
def putAt (mine : List Put) (p : Nat) : Option Put := (mine.filter (fun q => q.dst.headD 0 % 32 == p)).getLast?

/-- The base of the destination block that some elements lie in. -/
def Xfer.baseOf (t : Xfer) (mine : List Put) : Int := t.dT.blockBase ((mine.head?.map (·.dst)).getD [])

/-- The element at a position of a block that a tensor has there, of which a zero or overlapping stride may give several. -/
def Tensor.elemIn (t : Tensor) (base : Int) (p : Nat) : Option (List Nat) :=
  (traversal t.layout t.sizes).find? (fun ix => t.blockBase ix == base && ix.headD 0 % 32 == p)

/-- Whether a transfer writes every element of a destination block. -/
def Xfer.whole (t : Xfer) (mine : List Put) : Bool :=
  (List.range 32).all (fun p => (putAt mine p).isSome || (t.dT.elemIn (t.baseOf mine) p).isNone)

/-- The source block that a destination block is a bit copy of (R195; log 84): the one block from which all its elements come that are
not padding, when the transfer writes every element of it. -/
def Xfer.copied (t : Xfer) (mine : List Put) : Option (List Nat) :=
  if !(t.verbatim && t.whole mine) then none else
  match ((List.range 32).filterMap (fun p => match putAt mine p with
    | some { src := .inside js, .. } => some (blockKey js)
    | _ => none)).eraseDups with
  | [k] => some k
  | _ => none

/-- An element of a source block, past the end of dimension 0 too. -/
def blockElem (k : List Nat) (p : Nat) : List Nat := (32 * k.headD 0 + p) :: k.drop 1

/-- The 33 or 17 bytes of a destination block (R195): a bit copy but for its padding, or formed. What the sector with its other part was
written from keeps its scale, and the codes of elements that the transfer does not write (R200; log 84). -/
def Xfer.block (t : Xfer) (rd : Int → Nat → Nat) (mine : List Put) : List Byte :=
  let d := t.dT
  let sr := t.sT
  let kept := (t.formed.find? (fun p => p.1 == t.baseOf mine)).map (·.2)
  match t.copied mine, kept.bind (·.getLast?) with
  | some k, scale =>
    blockImage d.fmt ((List.range 32).map (fun p => (srcElem sr rd (match putAt mine p with
      | some q => q.src
      | none => .inside (blockElem k p))).2.1)) (scale.getD (BitVec.ofNat 8 (rd ((sr.scaleAddr (blockElem k 0)).getD 0) 1)))
  | none, none =>
    formBlock d.fmt d.rm d.sat ((List.range 32).map (fun p =>
      match putAt mine p with
      | some q => some (srcElem sr rd q.src).1
      | none => (d.elemIn (t.baseOf mine) p).map (fun ix => (srcElem d rd (.inside ix)).1)))
  | none, some scale =>
    blockImage d.fmt ((List.range 32).map (fun p =>
      match putAt mine p with
      | some q => blockCode d.fmt d.rm d.sat scale (some (srcElem sr rd q.src).1)
      | none => codeOfBlock d.fmt (kept.getD []) p)) scale

/-- The value that a scatter-add leaves in an element (R198, R476): with `SAT` an infinite sum is ±max (R118). -/
def addCode (dfmt sfmt rm : Nat) (sat : Bool) (old : Nat) (v : Val × Nat) : Nat :=
  if dfmt < 8 then (old + toCode sfmt dfmt rm sat v.1) % 2 ^ 32
  else
    let a : Val := if sfmt == dfmt then decVal dfmt v.2 else v.1
    match decVal dfmt old, (if a.isNaN then a else v.1) with
    | .fin n x, .fin m y =>
      let z := (if n then -x else x) + (if m then -y else y)
      (roundReal dfmt .rne sat z (n && m)).1
    | p, q =>
      let r := (fAdd dfmt .rne p q).1
      match decVal dfmt r with
      | .inf n => if sat then (roundReal dfmt .rne true ((if n then -1 else 1) * pow2 2000) n).1 else r
      | _ => r

/-- The destination blocks that some elements lie in, each with all the elements of it that the transfer writes, under whatever index a
zero or overlapping stride gives them (R193). -/
def Xfer.blocksOf (t : Xfer) (ps : List Put) : List (List Put) :=
  (ps.map (fun p => t.dT.blockBase p.dst)).eraseDups.map (fun a => t.puts.filter (fun p => t.dT.blockBase p.dst == a))

/-- The elements of a sector. -/
def Xfer.putsIn (t : Xfer) (sector : Int) : List Put := t.puts.filter (fun p => (t.sectorsOf p).contains sector)

/-- The blocks that a sector shares with the next or the last one: their bytes are kept until both are written. -/
def Xfer.straddling (t : Xfer) (rd : Int → Nat → Nat) (sector : Int) : List (Int × List Byte) :=
  if t.dT.layout != 3 then [] else
  (t.blocksOf (t.putsIn sector)).filterMap (fun mine =>
    let a := t.baseOf mine
    if a / 512 != (a + (t.dT.blockBytes : Int) - 1) / 512 then some (a, t.block rd mine) else none)

/-- The bytes of one destination sector (R193 to R198, R476). DESIGN CHOICE (log 103): a scatter's elements, and at D0 the additions of a
scatter-add to one element, come in the traversal order of the source. -/
def Xfer.image (t : Xfer) (rd : Int → Nat → Nat) (sector : Int) : List (Nat × Byte) :=
  let ps := t.putsIn sector
  if t.dT.layout == 3 then
    (t.blocksOf ps).foldl (fun ov mine =>
      let a := t.baseOf mine
      let bs := t.block rd mine
      (List.range bs.length).foldl (fun ov (i : Nat) =>
        if (a + (i : Int)) / 512 == sector then cellPut ov (wrapN 64 (a + (i : Int))) (bs.getD i 0) else ov) ov) []
  else ps.foldl (fun ov p =>
    let v := srcElem t.sT rd p.src
    if t.op == 3 then
      let a := (t.dT.addr p.dst).1
      let n := t.dT.es
      let now := ofBytes ((List.range n).map (fun (i : Nat) => match ov.find? (fun q => q.1 == wrapN 64 (a + (i : Int))) with
        | some q => q.2
        | none => BitVec.ofNat 8 (rd (a + (i : Int)) 1)))
      overlay t.dT rd ov p.dst (addCode t.dT.fmt t.sT.fmt t.dT.rm t.dT.sat now (v.1, v.2.1))
    else overlay t.dT rd ov p.dst (putCode t.dT t.sT v)) []

/-- The bytes of a range one by one, those of a sector alone. -/
def bytesIn (sector a : Int) (n : Nat) : List (Int × Nat) :=
  (List.range n).filterMap (fun (i : Nat) => if (a + (i : Int)) / 512 == sector then some (a + (i : Int), 1) else none)

/-- The accesses of a source element: its bytes and its scale. -/
def Xfer.srcReads (t : Xfer) : Bound → List (Int × Nat)
  | .inside js => ((t.sT.addr js).1, t.sT.es) :: (match t.sT.scaleAddr js with | some a => [(a, 1)] | none => [])
  | _ => []

/-- The reads of one sector: source elements, their scales, the rest of a block that is copied bit for bit, and destination elements that
it combines with; a deferred scatter-add reads those at its drain (R267). -/
def Xfer.reads (t : Xfer) (sector : Int) : List (Int × Nat) :=
  let ps := t.putsIn sector
  ps.flatMap (fun p => t.srcReads p.src ++ (if t.op == 3 && t.level == 0 then [t.span p] else [])) ++
  (if t.dT.layout != 3 then [] else (t.blocksOf ps).flatMap (fun mine => match t.copied mine with
    | some k => (List.range 32).flatMap (fun p => if (putAt mine p).isSome then [] else t.srcReads (.inside (blockElem k p)))
    | none => if t.op == 2 && !t.whole mine then (match mine with
        | p :: _ => (List.range (t.span p).2).map (fun (i : Nat) => ((t.span p).1 + (i : Int), 1))
        | [] => []) else []))

/-- The writes of one sector: elements, or in BLOCKED the bytes of blocks, elements and scales alike (R199). -/
def Xfer.writes (t : Xfer) (sector : Int) : List (Int × Nat) :=
  ((t.putsIn sector).flatMap (fun p =>
    if t.dT.layout == 3 then bytesIn sector (t.span p).1 (t.span p).2 else [t.span p])).eraseDups

/-- The order of deferred updates (R267), and a list of them in that order. -/
def Update.before (a b : Update) : Bool := a.t < b.t || (a.t == b.t && (a.q < b.q || (a.q == b.q && a.e < b.e)))
def insertUpdate (u : Update) : List Update → List Update
  | [] => [u]
  | v :: l => if u.before v then u :: v :: l else v :: insertUpdate u l
def sortUpdates (l : List Update) : List Update := l.foldl (fun m u => insertUpdate u m) []

/-- The value an update leaves at its location (R160, R262, R267, R476): operations 17 up are scatter-adds, whose value holds
the source code, type, scale and rounding. -/
def Update.result (u : Update) (old : Nat) : Nat :=
  if u.op < 16 then atomNew u.op u.signed u.width old u.value
  else if u.op == 16 then faccNew old u.value
  else
    let code := u.value % 2 ^ 64
    let sfmt := u.value / 2 ^ 64 % 16
    let scale : Option Byte := if u.value.testBit 76 then some (BitVec.ofNat 8 (u.value / 2 ^ 68)) else none
    let v : Val := if sfmt < 8 then .fin (decide (intVal sfmt code < 0)) ((intVal sfmt code).natAbs : Nat) else scaledVal sfmt code scale
    addCode (u.op - 17) sfmt (u.value / 2 ^ 77) u.sat old (v, code)

/-- What bars writes that an engine is about to make where their bytes stand now (R258, R320, R236): lines that other work owns, or an
entry that converts; and what they miss on. -/
def State.barred (s : State) (c : Ctx) (own : Option (Nat × Nat)) (work : Nat × Nat) (part : Nat) (as : List (Nat × Nat)) :
    Bool × List (MissOn × Nat) :=
  let as := as.flatMap (fun a => (s.placesOf work part).spread a.1 a.2)
  (as.any (fun a => s.ownedBut work part c.asid a.1 a.2 || ((s.viaCtx c work part a.1).converting a.1 a.2).isSome),
   as.flatMap (fun a => match s.xlateAll c own a.1 a.2 .write with | .wait on => on.map (fun m => (m, a.1)) | _ => []))

/-- A deferred update is applied to the value of its location, where that stands now (R267, R320), or the cause and VA for which it is not (R297); `stop` is the cause that
ended a fill it waited on. -/
def State.applyUpdate (s : State) (c : Ctx) (own : Option (Nat × Nat)) (stop : Nat) (p : Places) (u : Update) :
    Except (Nat × Nat) State :=
  let n := u.width / 8
  let xs := (p.spread u.va n).map (fun q => (q, s.xlateAll c own q.1 q.2 .write))
  match p.lost u.va n, xs.foldr (fun x r => x.2.join r) (.ok []) with
  | some va, _ => .error (cPlacement, va)
  | none, .fault _ cause va => .error (cause, va)
  | none, .wait _ => .error (stop, u.va)
  | none, .ok pas => match s.badPas pas with
    | some _ => .error (cMachineCheck, u.va)
    | none => .ok ((s.writePas pas (toBytes n (u.result (ofBytes (s.readPas pas))))).updCtx c.asid (fun c =>
        xs.foldl (fun c x => c.markWritten own x.1.1 x.1.2) c))

/-- The status record of a graph node's or another unit's fault (R238, R276). -/
def State.nodeFault (s : State) (asid core slot cause va lseq : Nat) : State :=
  (s.writeStatus asid (StatusRec.plain cause va lseq) 1 0).updCore core (fun c =>
    { c with graph := cellSet NodeSlot.free c.graph slot NodeSlot.free })

/-- A slot of a core's graph table. -/
def State.node (s : State) (core slot : Nat) : NodeSlot := cellGet NodeSlot.free (s.core core).graph slot
def State.setNode (s : State) (core slot : Nat) (n : NodeSlot) : State :=
  s.updCore core (fun c => { c with graph := cellSet NodeSlot.free c.graph slot n })

/-- Work of an engine ends by a fault (R202, R276): told to the team, or to the status block with the slot freed. -/
def State.engFault (s : State) (asid : Nat) (iss : Issuer) (cause va : Nat) : State :=
  match iss with
  | .wave w => ((s.postCause w.team (some w.wave) cause va 0).owe w.team false).pushDue (.teamRetirement w.team)
  | .node core slot => s.nodeFault asid core slot cause va 0

/-- Change a transfer. -/
def State.updXfer (s : State) (id : Nat) (f : Xfer → Xfer) : State :=
  { s with xfers := s.xfers.map (fun x => if x.id = id then f x else x) }

/-- A transfer is gone, its fault told (R202, R259). -/
def State.dropXfer (s : State) (t : Xfer) (cause va : Nat) : State :=
  (({ s with xfers := s.xfers.filter (fun x => x.id != t.id) } : State).dropBytes (0, t.id)).engFault t.asid t.issuer cause va

/-- A transfer ends by a fault (R202, R259). What written sectors have still to add stays written: the transfer stands until it is
applied (R198). -/
def State.endXfer (s : State) (t : Xfer) (cause va : Nat) : State :=
  let s := s.logCause t.asid cause va
  if t.later.isEmpty then s.dropXfer t cause va
  else (s.updXfer t.id (fun x => { x with failed := some (cause, va) })).pushDue (.transferCompletion t.id)

/-- How the reading of the indices stands (R197): the transfer ready to write, still held, or ended. -/
inductive Ready where
  | go (s : State) (t : Xfer)
  | stop (s : State)

/-- The index reads of a transfer and its checks (R196, R197): made whole before any byte is written. DEDUCED (log 104): an element that
falls outside in a dimension without an index is reported with its index's address too. -/
def State.prepare (s : State) (c : Ctx) (t : Xfer) : Ready :=
  match s.stallCause (0, t.id) with
  | some (cause, va) => .stop ((s.unstall (0, t.id)).endXfer t cause va)
  | none =>
  let s := s.unstall (0, t.id)
  if t.idxRead then .go s t else
  let d := t.dT
  let sr := t.sT
  let it := if t.op == 1 then sr else d
  let w := if it.iw == 0 then 4 else 8
  let n := if t.op == 0 then 0 else indexCount t.op d sr
  let as := (List.range n).map (fun i => (((it.idxp + w * i : Nat) : Int), w))
  let p := s.placesOf (0, t.id) partIndex
  match s.engVia c (s.ownOf t.issuer) (s.viewIss t.issuer) .read (0, t.id) partIndex as with
  | .wait on => .stop ((s.holdVia c (0, t.id) partIndex as).engAsk t.asid t.issuer false (some (0, t.id)) on)
  | .fault cause va => .stop (s.endXfer t cause va)
  | .ok =>
    let idx := (List.range n).map (fun i => sext (8 * w) (p.read (s.engRead c t.issuer) ((it.idxp + w * i : Nat) : Int) w))
    let t' := { t with idx := idx, idxRead := true }
    match t'.moves.find? (fun m => m.src == .fault || m.dst == .fault) with
    | some m => .stop (s.endXfer t cIndexBounds (it.idxp + w * m.pos))
    | none => .go ((s.updXfer t.id (fun _ => t')).dropPart (0, t.id) partIndex) t'

/-- The scatter-adds of a transfer that are on their way, by index position (R266, R476). -/
def State.flying (s : State) (t : Xfer) : List Nat := (s.updates.filter (fun u => t.sent u.2.1 u.2.2.2)).map (fun u => u.2.2.2.e)

/-- The slabs of a transfer that are written, with every scatter-add of theirs held or spilled (R201, R476): by index of the last
dimension. -/
def Xfer.slabsDone (t : Xfer) (fly : List Nat) : Nat :=
  let e := if t.op ≥ 2 then t.sT else t.dT
  let ps := t.moves
  ((List.range (e.size (e.rank - 1))).filter (fun k =>
    (ps.filter (fun m => m.space.getD (e.rank - 1) 0 == k)).all (fun m => match m.dst with
      | .inside ix => (t.sectorsOf { pos := m.pos, src := m.src, dst := ix }).all t.done.contains && !fly.contains m.pos
      | _ => true))).length

/-- A decrement delivered to a graph slot (R276): whether the table takes it, and the state; a FREE slot with the tag of another context
refuses it (log 44). Work that launches has state 4 until it is read. -/
def State.decNode (s : State) (core slot asid : Nat) : Bool × State :=
  let n := s.node core slot
  let same := n.asid.isNone || n.asid == some asid
  if n.state == 0 then
    if !same || n.count ≤ -65536 then (false, s)
    else (true, s.setNode core slot { n with count := n.count - 1, asid := some asid })
  else if n.state == 1 then
    (true, s.setNode core slot { n with count := n.count - 1, state := if n.count - 1 ≤ 0 then 4 else 1 })
  else (true, s.updCtx asid (fun c => { c with graphLog := cellSet 0 c.graphLog core (cellGet 0 c.graphLog core + 1) }))

/-- Make the launches of a core's table due, in ascending slot order (R278). -/
def State.launchDue (s : State) (core : Nat) : State :=
  (List.range 256).foldl (fun s k =>
    if (s.node core k).state == 4 && !s.due.contains (.graphWorkCompletion core k) then s.pushDue (.graphWorkCompletion core k) else s) s

/-- Decrements delivered to several slots in order. -/
def State.decNodes (s : State) (core asid : Nat) (slots : List Nat) : State :=
  (slots.foldl (fun s k => (s.decNode core k asid).2) s).launchDue core

/-- A node descriptor's fields (R275). -/
def nodeKind (d : BitVec 512) : Nat := field d 275 272
def nodePred (d : BitVec 512) : Nat := field d 271 256
def nodeSucc (d : BitVec 512) (i : Nat) : Nat := field d (16 * i + 143) (16 * i + 128)
def nodeComp (d : BitVec 512) : Nat := field d 127 64
def nodeWork (d : BitVec 512) : Nat := field d 63 0

/-- The slots of a node's valid successor references of some kind, in ascending i (R275, R277). -/
def succSlots (d : BitVec 512) (want : Bool → Bool) : List Nat :=
  ((List.range 8).filter (fun i => (nodeSucc d i).testBit 15 && want ((nodeSucc d i).testBit 14))).map (fun i => nodeSucc d i % 256)

/-- Whether R276 rejects a node descriptor. -/
def nodeBad (d : BitVec 512) : Bool :=
  let k := nodeKind d
  field d 511 276 != 0 || k == 0 || k > 4 || nodeComp d % 8 != 0
    || nodeWork d % (match k with | 1 => 64 | 4 => 1 | _ => 32) != 0 || (k == 4 && nodeWork d != 0)
    || (List.range 8).any (fun i => nfield (nodeSucc d i) 13 8 != 0)

/-- The reads of a graph node's work at its launch (R278, R513): how they stand, and the number read. -/
def State.workRead (s : State) (c : Ctx) (work : Nat × Nat) (va n : Nat) : Eng × Nat :=
  let p := s.placesOf work partAct
  (s.engVia c none none .read work partAct [((va : Int), n)], p.read (s.engRead c (.node 0 0)) (va : Int) n)

/-- The transfer of a transfer block whose descriptors have been read, with the checks of R399, and its origin fault. -/
def transferOf (s : State) (asid core : Nat) (iss : Issuer) (op level : Nat) (d sr : BitVec 512) (dva sva : Nat) (origin : DWord)
    (slab : Bool) (obj tkey q : Nat) : Xfer :=
  { id := s.nextId, core := core, asid := asid, level := level, issuer := iss, op := op, dst := d, src := sr, dstVa := dva,
    srcVa := sva, origin := origin, slab := slab, obj := obj, done := [], slabs := 0, accepted := true, t := tkey, q := q,
    idx := [], idxRead := op == 0, formed := [], later := [], failed := none, order := s.nextId,
    carry := s.carryFor iss asid }

/-- The contents checks of a transfer's two descriptors (R190, R195 to R198), in order: a cause and its `TADDR`. -/
def transferFault (op : Nat) (d sr : BitVec 512) (dva sva : Nat) (origin : DWord) : Option (Nat × Nat) :=
  let dT := tensorOf d.toNat
  let sT := tensorOf sr.toNat
  if tensorBad d.toNat then some (cIllegalOperand, dva)
  else if tensorBad sr.toNat then some (cIllegalOperand, sva)
  else match pairFault op dT sT with
    | some b => some (cIllegalOperand, if b then sva else dva)
    | none =>
      if dT.base == 0 || sT.base == 0 then some (cNullPointer, 0)
      else if originFault op dT sT origin then some (cIndexBounds, sva)
      else none

/-- The checks and the hand-over of a transfer (R398, R399, R430, R475); accepted by `TRANSFER_ACCEPTANCE`. -/
def semTransfer (i : Instr) (f : FmtX) (op : Nat) (x : Iss) (s : State) : Res :=
  let a := x.uval f.a 2
  let b := x.uval f.b 2
  let obj := x.uval f.d 2
  let origin : DWord := if f.c.toNat == 511 then 0 else BitVec.ofNat 64 (x.uval f.c 2)
  match x.uniformFaults [(f.a, 2), (f.b, 2)] with
  | some (m, v) => .trap cUniform m v
  | none => match s.target x f true false with
    | none => placeRange x f
    | some core =>
      if a == 0 || b == 0 || obj == 0 then .trap cNullPointer x.actMask 0
      else if a % 64 != 0 then .trap cAlign x.actMask a
      else if b % 64 != 0 then .trap cAlign x.actMask b
      else if obj % 8 != 0 then .trap cAlign x.actMask obj
      else match s.uload x a 64, s.uload x b 64 with
        | .res r, _ => r
        | _, .res r => r
        | .ok d, .ok e =>
          let d := BitVec.ofNat 512 d
          let e := BitVec.ofNat 512 e
          match transferFault op d e a b origin with
          | some (cause, va) => .trap cause x.actMask va
          | none =>
            match x.w.hold with
            | none => holdAt x i core s
            | some h =>
              let s := match h.work with | some id => s.dropWork id | none => s
              let level := s.levelOf x.wid.team.grid
              let t := transferOf s (asidOf x.wid) core (.wave x.wid) op level d e a b origin (f.imm8.getLsbD 0) obj
                (keyT x.w x.first) (x.w.thread x.first).q
              let s := { s with xfers := s.xfers ++ [t], nextId := s.nextId + 1 }
              let s := s.owe x.wid.team true
              .go (if op == 3 && level ≥ 1 then s.updWave x.wid (fun w => w.updThread x.first (fun t => { t with q := t.q + 1 })) else s) []

/-- `COPY` (R398). -/
def execCopy (f : FmtX) (s : State) : Host.Outcome State Fault Refusal := issue (.copy f) f.h (semTransfer (.copy f) f 0) s

/-- `GATH` (R430). -/
def execGath (f : FmtX) (s : State) : Host.Outcome State Fault Refusal := issue (.gath f) f.h (semTransfer (.gath f) f 1) s

/-- `SCAT` (R475). -/
def execScat (f : FmtX) (s : State) : Host.Outcome State Fault Refusal := issue (.scat f) f.h (semTransfer (.scat f) f 2) s

/-- `SCAT.ADD` (R475, R476). -/
def execScatAdd (f : FmtX) (s : State) : Host.Outcome State Fault Refusal :=
  issue (.scatAdd f) f.h (semTransfer (.scatAdd f) f 3) s

/-- `TRANSFER_ACCEPTANCE` (R257, R399): the first transfer that waits at issue for a core's copy engine is accepted, its
checks and the reads of its descriptors made again. -/
def acceptTransfer (core : Nat) (s : State) : State :=
  let isCopy (i : Instr) : Bool := match i with | .copy _ | .gath _ | .scat _ | .scatAdd _ => true | _ => false
  match s.waiting.find? (fun r => r.core == core && isCopy r.instr && s.waitsAtIssue r) with
  | none => s
  | some r => match r.instr with
    | .copy f => s.reissue r f.h (semTransfer (.copy f) f 0)
    | .gath f => s.reissue r f.h (semTransfer (.gath f) f 1)
    | .scat f => s.reissue r f.h (semTransfer (.scat f) f 2)
    | .scatAdd f => s.reissue r f.h (semTransfer (.scatAdd f) f 3)
    | _ => s

/-- `TRANSFER_ACCEPTANCE` (R399). -/
def execTransferAcceptance (core : Nat) (s : State) : Host.Outcome State Fault Refusal := commit s (acceptTransfer core s)

/-- The deferred updates of a scatter-add's sector (R198, R267, R476): operation 17 and up names the destination type; the
value holds the source code, its type and its scale. -/
def Xfer.defer (t : Xfer) (rd : Int → Nat → Nat) (sector : Int) : List Update :=
  (t.puts.filter (fun p => (t.sectorsOf p).contains sector)).map (fun p =>
    let v := srcElem t.sT rd p.src
    { src := t.core, t := t.t, q := t.q, e := p.pos, va := wrapN 64 (t.dT.addr p.dst).1, op := 17 + t.dT.fmt, signed := false,
      width := 8 * t.dT.es, sat := t.dT.sat,
      value := v.2.1 + t.sT.fmt * 2 ^ 64 + (match v.2.2 with | some b => b.toNat * 2 ^ 68 + 2 ^ 76 | none => 0) + t.dT.rm * 2 ^ 77 })

/-- Deferred updates of a team set out for the memory side, behind those that their core has sent (R19, R266). -/
def State.sendAll (s : State) (w : WaveId) (us : List Update) : State :=
  us.foldl (fun s u => { s with updates := s.updates ++ [(w.team.grid, w.team, s.nextId, u)], nextId := s.nextId + 1 }) s

/-- The slab increments that are due and made (R201, R238): to the object, and for a node to its `SLAB` successors. A
failed increment is told and not made. The flag says whether all are made. -/
def State.slabIncs (s : State) (id : Nat) : Nat → State × Bool
  | 0 => (s, true)
  | fuel + 1 =>
    match s.xfers.find? (fun t => t.id == id) with
    | none => (s, true)
    | some t =>
      if !t.slab || t.slabs ≥ t.slabsDone (s.flying t) then (s, true) else
      let more (s : State) : State :=
        let s := s.updXfer id (fun t => { t with slabs := t.slabs + 1 })
        match t.issuer with
        | .wave _ => s
        | .node core slot =>
          let d := (s.node core slot).desc
          s.decNodes core t.asid (succSlots d (fun slab => slab))
      match s.increment t.asid t.issuer (0, id) (s.viewIss t.issuer) t.obj 1 with
      | .heldOn s _ => (s, false)
      | .made s => (more s).slabIncs id fuel
      | .failed s cause va =>
        let s := match t.issuer with
          | .wave w => s.postCause w.team (some w.wave) cause va 0
          | .node _ _ => s.writeStatus t.asid (StatusRec.plain cause va 0) 1 0
        (more s).slabIncs id fuel

/-- Whether lines that some writes of a part of an engine's work reach are owned by work that took them before (R258). An access that an
entry has held waits, where it has moved its bytes, for released accesses alone (R320; log 111). -/
def State.writesBarred (s : State) (asid : Nat) (work : Nat × Nat) (order part : Nat) (as : List (Int × Nat)) : Bool :=
  let freed := s.freedOf work part
  ((s.placesOf work part).accs as).any (fun a => 0 ≤ a.1 && a.1 < 2 ^ 56 && !freed.contains a.1.toNat &&
    s.ownedBefore work order asid a.1.toNat a.2)

/-- `SECTOR_WRITE` (R200): one sector of a transfer is read, converted and written, and its slabs are counted. -/
def writeSector (id sector : Nat) (s : State) : State :=
  match s.xfers.find? (fun t => t.id == id) with
  | none => s
  | some t =>
    match s.ctx? t.asid with
    | none => s
    | some c =>
      if s.still t.asid t.issuer || t.failed.isSome then s else
      match s.prepare c t with
      | .stop s => s
      | .go s t =>
        let own := s.ownOf t.issuer
        let view := s.viewIss t.issuer
        let k := sectorOf sector
        let later := t.op == 3 && t.level ≥ 1
        if t.done.contains k || !t.sectors.contains k || (!later && s.writesBarred t.asid (0, t.id) t.order sector (t.writes k)) ||
            (s.core t.core).sectors.length ≥ 2048 then s else
        let p := s.placesOf (0, t.id) sector
        let reads := s.engVia c own view .read (0, t.id) sector (t.reads k)
        let writes := s.engVia c own view .write (0, t.id) sector (t.writes k)
        match engJoin reads writes with
        | .wait _ => ((s.holdVia c (0, t.id) sector (t.reads k ++ t.writes k)).engAsk t.asid t.issuer false (some (0, t.id))
            reads.waits).engAsk t.asid t.issuer true (some (0, t.id)) writes.waits
        | .fault cause va => s.endXfer t cause va
        | .ok =>
          let rd := p.read (s.engRead c t.issuer)
          let defer := (t.defer rd k).map (fun u => { u with va := (p.of u.va).getD u.va })
          let res : Except Nat State :=
            if later then .ok (match t.issuer with
              | .wave w => (s.updCtx t.asid (fun c => (p.accs (t.writes k)).foldl (fun c a => c.markWritten own (wrapN 64 a.1) a.2) c)).sendAll w defer
              | .node _ _ => s.updXfer id (fun x => { x with later := x.later ++ defer }))
            else s.engWrite c t.issuer (p.runs (runsOf (t.image rd k)))
          match res with
          | .error va => s.endXfer t cMachineCheck va
          | .ok s =>
            let (name, s) := (s.dropPart (0, t.id) sector).newId
            let s := s.updCore t.core (fun c => { c with sectors := c.sectors ++ [name] })
            let s := s.updXfer id (fun x => { x with done := x.done ++ [k], formed := t.straddling rd k ++ x.formed })
            (s.slabIncs id (t.dT.size (t.dT.rank - 1) + t.sT.size (t.sT.rank - 1))).1

/-- `SECTOR_WRITE` (R200). -/
def execSectorWrite (xfer sector : Nat) (s : State) : Host.Outcome State Fault Refusal := commit s (writeSector xfer sector s)

/-- The scatter-adds of a graph node's transfer are applied when its last sector has been read (R198, R265; log 41): the flag says that
none waits any longer. -/
def State.drainNode (s : State) (c : Ctx) (t : Xfer) : State × Bool :=
  if t.later.isEmpty then (s, true) else
  let p := s.placesOf (0, t.id) partDrain
  match s.barred c none (0, t.id) partDrain (t.later.map (fun u => (u.va, u.width / 8))) with
  | (true, _) => (s.holdBytes c (0, t.id) partDrain (t.later.map (fun u => (u.va, u.width / 8))), false)
  | (false, o :: on) => (s.engAsk t.asid t.issuer true (some (0, t.id)) (o :: on), false)
  | (false, []) =>
    let (s, _) := (sortUpdates t.later).foldl (fun (r : State × List Nat) u =>
      if r.2.contains u.va then r else match r.1.applyUpdate c none cProcRecursion p u with
        | .ok s => (s, r.2)
        | .error (cause, va) => ((r.1.logCause t.asid cause va).writeStatus t.asid (StatusRec.plain cause va 0) 1 0, u.va :: r.2)) (s, [])
    ((s.updXfer t.id (fun x => { x with later := [] })).dropPart (0, t.id) partDrain, true)

/-- `TRANSFER_COMPLETION` (R201, R238, R476): the slabs that are due, and with every sector written and every scatter-add held or spilled the
increment, and the end of the transfer. A failed increment is told and not made; one that is held leaves the transfer where it is. One that a fault has ended goes when its scatter-adds
are applied (R202), and that of a graph node when its requests are past the pseudo-channels (R217). -/
def completeTransfer (id : Nat) (s : State) : State :=
  match s.xfers.find? (fun t => t.id == id) with
  | none => s
  | some t =>
    match s.ctx? t.asid with
    | none => s
    | some c =>
      if s.still t.asid t.issuer then s else
      match t.failed with
      | some (cause, va) => match (s.unstall (0, id)).drainNode c t with
        | (s, false) => s
        | (s, true) => s.dropXfer t cause va
      | none =>
      match s.prepare c t with
      | .stop s => s
      | .go s t =>
        let fuel := t.dT.size (t.dT.rank - 1) + t.sT.size (t.sT.rank - 1)
        if !t.sectors.all t.done.contains || !(s.flying t).isEmpty then (s.slabIncs id fuel).1 else
        match s.drainNode c t with
        | (s, false) => s
        | (s, true) =>
        let (s, all) := s.slabIncs id fuel
        if !all then s else
        let gone (s : State) : State := ({ s with xfers := s.xfers.filter (fun x => x.id != id) } : State).dropBytes (0, id)
        match t.issuer with
        | .node core slot => if s.atChannel (.work (0, id)) then s else (gone s).pushDue (.graphWorkCompletion core slot)
        | .wave w =>
          let done (s : State) : State := ((gone s).owe w.team false).pushDue (.teamRetirement w.team)
          match s.increment t.asid t.issuer (0, id) (s.viewIss t.issuer) (if t.slab then 0 else t.obj) 1 with
          | .made s => done s
          | .heldOn s _ => s
          | .failed s cause va => done (s.postCause w.team (some w.wave) cause va 0)

/-- `TRANSFER_COMPLETION` (R201). -/
def execTransferCompletion (xfer : Nat) (s : State) : Host.Outcome State Fault Refusal := commit s (completeTransfer xfer s)

/-- A pending `CSIG` of a group (R402): it waits for the transfers its wave sent earlier to the same copy engine. -/
def pendCsig (x : Iss) (core obj : Nat) (value : DWord) (slot : Option Nat) (s : State) : Res :=
  let (id, s) := s.newId
  let after := (s.xfers.filter (fun t => t.core == core && t.issuer == .wave x.wid)).map (·.id)
  .go (({ s with csigs := s.csigs ++ [{ id := id, wave := x.wid, core := core, obj := obj, value := value, slot := slot,
                                         after := after }] } : State).owe x.wid.team true) []

/-- `CSIG` (R401, R402). -/
def semCsig (f : FmtX) (x : Iss) (s : State) : Res :=
  let obj := x.uval f.d 2
  match s.target x f true false with
  | none => placeRange x f
  | some core =>
    if obj == 0 then .trap cNullPointer x.actMask 0
    else if obj % 8 != 0 then .trap cAlign x.actMask obj
    else pendCsig x core obj (if f.a.toNat == 511 then 1 else BitVec.ofNat 64 (x.uval f.a 2)) none s

/-- `CSIG` (R401). -/
def execCsig (f : FmtX) (s : State) : Host.Outcome State Fault Refusal := issue (.csig f) f.h (semCsig f) s

/-- `CSIG.NODE` (R401, R402). -/
def semCsigNode (f : FmtX) (x : Iss) (s : State) : Res :=
  match s.target x f true false with
  | none => placeRange x f
  | some core => pendCsig x core 0 0 (some f.imm8.toNat) s

/-- `CSIG.NODE` (R401). -/
def execCsigNode (f : FmtX) (s : State) : Host.Outcome State Fault Refusal := issue (.csigNode f) f.h (semCsigNode f) s

end Sys2Proof.Machine
end

