-- ==== Sys2Proof/Machine/Collect.lean ====
section
/-!
DEFINITION. The combination of elements held by several packages (15 R309, R310), collectives (15 R307, R308, R312, R313;
14 R302; 19 R396, R397), and the dependence graph (13 R275 to R278; 21 R458, R459) with `CSIG_EFFECT` (19 R402).
-/
namespace Sys2Proof.Machine

/-- An element as a package holds it: its exact value, its code, and its scale byte. -/
abbrev Elem := Val × Nat × Option Byte

/-- Max or min in a float type's order (R309): −0 below +0, a NaN operand gives NaN. -/
def valPick (max : Bool) (a b : Val) : Val :=
  if a.isNaN || b.isNaN then .nan false else
  let zneg (v : Val) : Bool := match v with | .fin n m => n && m = 0 | _ => false
  let less (p q : Val) : Bool := valLt false p q || (valEq p q && zneg p && !zneg q)
  if max then (if less a b then b else a) else (if less b a then b else a)

/-- One step of R309 on widened values: F32 codes, or integers. -/
def combineStep (fmt op : Nat) (a b : Val) : Val :=
  if fmt < 8 then
    let x := a.real
    let y := b.real
    let z : Rat := match op with
      | 0 => ((intVal fmt (wrapN (tyWidth fmt) (x.floor + y.floor)) : Int) : Rat)
      | 1 => if x < y then y else x
      | _ => if y < x then y else x
    .fin (decide (z < 0)) (if z < 0 then -z else z)
  else match op with
    | 0 => decVal 10 (fAdd 10 .rne a b).1
    | 1 => valPick true a b
    | _ => valPick false a b

/-- The alignment unit of R310 for an agreed scale. -/
def alignUnit (fmt : Nat) (scale : Rat) : Rat :=
  match fmt with
  | 13 => scale / 2
  | 11 => scale / 2 ^ 9
  | 12 => scale / 2 ^ 16
  | _ => scale / 1000 / 64

/-- The reduction of BLOCKED elements (R310): the exact result, with the agreed scale. An infinite element has no integer
in R310 and counts as the free value given. -/
def combineBlocked (fmt op : Nat) (free : Nat) (es : List Elem) : Elem :=
  let scales := es.map (fun e => match e.2.2 with | some b => scaleVal fmt b | none => some 1)
  if scales.any (·.isNone) || es.any (fun e => e.1.isNaN) then (.nan false, 0, es.head?.bind (fun e => e.2.2)) else
  let top := (es.map (fun e => e.2.2)).foldl (fun (m : Option Byte) b => match m, b with
    | some x, some y => if (scaleVal fmt x).getD 0 < (scaleVal fmt y).getD 0 then some y else some x
    | none, y => y
    | x, none => x) none
  let u := alignUnit fmt (((top.bind (scaleVal fmt))).getD 1)
  let ms : List Int := es.map (fun e => match e.1 with
    | .fin n m => (roundInt .rne ((if n then -m else m) / u)).1
    | _ => (free : Int))
  let z : Int := match ms with
    | [] => 0
    | m :: rest => rest.foldl (fun a b => match op with | 0 => a + b | 1 => max a b | _ => min a b) m
  let x : Rat := (z : Rat) * u
  (.fin (decide (x < 0)) (if x < 0 then -x else x), 0, top)

/-- The combination of elements in ascending position (R309, R310). -/
def combine (fmt layout op free : Nat) (es : List Elem) : Elem :=
  if layout == 3 then combineBlocked fmt op free es else
  match es with
  | [] => (.fin false 0, 0, none)
  | e :: rest =>
    let v := rest.foldl (fun v b => combineStep fmt op v b.1) e.1
    (v, if rest.isEmpty then e.2.1 else 0, none)

/-- The code of a combined element in a tensor that is not BLOCKED (R195): `one` where no combination was made. -/
def combinedCode (dT : Tensor) (sfmt : Nat) (one : Bool) (e : Elem) : Nat :=
  if one then (if sfmt == dT.fmt && e.2.2.isNone then e.2.1 else toCode sfmt dT.fmt dT.rm dT.sat e.1)
  else toCode (if sfmt < 8 then sfmt else 10) dT.fmt dT.rm dT.sat e.1

/-- An element of another package's offer (R307): the k-th in row order. -/
def peerElem (t : Tensor) (data : List Byte) (k : Nat) : Elem :=
  let w := t.es + (if t.layout == 3 then 1 else 0)
  let code := ofBytes ((data.drop (k * w)).take t.es) % 2 ^ tyWidth t.fmt
  let scale := if t.layout == 3 then some (data.getD (k * w + t.es) 0) else none
  (if t.fmt < 8 then .fin (decide (intVal t.fmt code < 0)) ((intVal t.fmt code).natAbs : Nat) else scaledVal t.fmt code scale, code, scale)

/-- The place of an index vector in row order. -/
def rowIndex : List Nat → List Nat → Nat
  | n :: ns, i :: is => i + n * rowIndex ns is
  | _, _ => 0

/-- The rank of a position, and the position of a rank. -/
def CBlock.rank (b : CBlock) (i : Nat) : Nat := b.first + i * b.stride
def CBlock.posOf (b : CBlock) (rank : Nat) : Option Nat := (List.range b.count).find? (fun i => b.rank i == rank)

/-- Whether R307 rejects a block for its own fields, in a context. -/
def cblockBad (c : Ctx) (w : Nat) : Bool :=
  let b := cblockOf w
  w / 2 ^ 216 != 0 || b.op > 4 || b.rop == 3 || b.count == 0 || b.count > 4096 || b.stride == 0
    || b.rank (b.count - 1) > field c.drank 27 16 || (b.posOf (field c.drank 11 0)).isNone
    || (if b.op == 4 then b.k == 0 else b.k != 0 || b.nanp) || (if b.op == 3 then b.root ≥ b.count else b.root != 0)
    || (b.op != 1 && b.op != 2 && b.rop != 0) || b.src % 64 != 0 || b.dst % 64 != 0

/-- The writes of a destination's elements, whole blocks byte by byte in BLOCKED (R199). -/
def elemWrites (t : Tensor) (ixs : List (List Nat)) : List (Int × Nat) :=
  (ixs.flatMap (fun ix => if t.layout == 3 then (List.range t.blockBytes).map (fun (i : Nat) => (t.blockBase ix + (i : Int), 1))
    else [((t.addr ix).1, t.es)])).eraseDups

/-- Whether what a collective writes, the indices of a TOPK with it, reaches a shard with an R axis (R317). The range of all elements, which
decides most of them, is asked first. -/
def CBlock.replicated (b : CBlock) (c : Ctx) (d : Tensor) : Bool :=
  let range := d.range
  (c.needsMcst (wrapN 64 range.1) (range.2 - range.1 + 1).toNat &&
    (rowOrder d.sizes).any (fun ix => (elemWrites d [ix]).any (fun a => c.needsMcst (wrapN 64 a.1) a.2))) ||
  (b.op == 4 && c.needsMcst d.idxp (8 * b.k))

/-- Whether the shape rules of R308, the types of R195, or R317 reject the descriptors of a block. -/
def cshapeBad (c : Ctx) (b : CBlock) (d s : Tensor) : Bool :=
  let last := d.rank - 1
  let z := if (b.op == 1 || b.op == 2) && s.fmt ≥ 8 && s.layout != 3 then 10 else s.fmt
  let others := (List.range last).all (fun k => d.size k == s.size k)
  !copyPair z d.fmt || b.replicated c d ||
  match b.op with
  | 0 => d.rank != s.rank || !others || d.size last != b.count * s.size last
  | 1 => d.rank != s.rank || !others || s.size last != b.count * d.size last
  | 4 => s.rank != 1 || d.rank != 1 || d.size 0 != b.k || d.idxp == 0 || d.iw != 1
  | _ => d.sizes != s.sizes

/-- The checks of R307 on a block's contents once its descriptors are read: the cause and its `TADDR`. -/
def collFault (c : Ctx) (va : Nat) (b : CBlock) (d s : BitVec 512) : Option (Nat × Nat) :=
  let dT := tensorOf d.toNat
  let sT := tensorOf s.toNat
  if tensorBad d.toNat || tensorBad s.toNat || cshapeBad c b dT sT then some (cIllegalOperand, va)
  else if dT.base == 0 || sT.base == 0 then some (cNullPointer, 0)
  else none

/-- Accept a collective (R307): its part is offered to the other members over UALink. -/
def State.startColl (s : State) (c : Ctx) (die : Nat) (iss : Issuer) (block va : Nat) (d e : BitVec 512) (obj : Nat) : State :=
  let b := cblockOf block
  let me := field c.drank 11 0
  let o : Coll := { id := s.nextId, asid := c.asid, die := die, issuer := iss, block := BitVec.ofNat 256 block, blockVa := va,
                    src := e, dst := d, obj := obj, done := [], incs := 0, accepted := true, order := s.nextId,
                    carry := s.carryFor iss c.asid }
  let msgs := ((List.range b.count).filter (fun i => b.rank i != me)).map (fun i =>
    ualWrite (c.station (b.rank i)) (2#8 :: toBytes 2 c.asid ++ toBytes 8 s.nextId ++ toBytes 16 (block / 2 ^ 128)))
  { s with colls := s.colls ++ [o], nextId := s.nextId + 1, ualOut := s.ualOut ++ msgs }

/-- `COLL` (R396, R397). -/
def semColl (f : FmtX) (x : Iss) (s : State) : Res :=
  let a := x.uval f.a 2
  let obj := x.uval f.b 2
  match x.uniformFaults [(f.a, 2), (f.b, 2)] with
  | some (m, v) => .trap cUniform m v
  | none => match s.target (s.performer x) f true false with
    | none => placeRange x f
    | some _ =>
      if a == 0 || obj == 0 then .trap cNullPointer x.actMask 0
      else if a % 32 != 0 then .trap cAlign x.actMask a
      else if obj % 8 != 0 then .trap cAlign x.actMask obj
      else match s.ctx? (asidOf x.wid), s.uload x a 32 with
        | none, _ => .go s []
        | _, .res r => r
        | some c, .ok w =>
          let b := cblockOf w
          if cblockBad c w then .trap cIllegalOperand x.actMask a
          else if b.src == 0 || b.dst == 0 then .trap cNullPointer x.actMask 0
          else match s.uload x b.dst 64, s.uload x b.src 64 with
            | .res r, _ => r
            | _, .res r => r
            | .ok d, .ok e =>
              let d := BitVec.ofNat 512 d
              let e := BitVec.ofNat 512 e
              match collFault c a b d e with
              | some (cause, va) => .trap cause x.actMask va
              | none => together (.coll f) [w, obj] (fun y s => match s.target y f true false with
                  | none => placeRange y f
                  | some core => .go ((s.startColl c (dieOfCore core) (.wave y.wid) w a d e obj).owe y.wid.team true) []) x s

/-- `COLL` (R396). -/
def execColl (f : FmtX) (s : State) : Host.Outcome State Fault Refusal := issue (.coll f) f.h (semColl f) s

/-- What the members of a collective bring: for each position the element at an index vector of its source. -/
abbrev Parts := Nat → List Nat → Elem

/-- A candidate before another in the order of R302: greater value, NaN first, then the smaller index. -/
def topBefore (a b : Val × Nat × Nat) : Bool :=
  if a.1.isNaN && b.1.isNaN then a.2.2 < b.2.2
  else if a.1.isNaN then true
  else if b.1.isNaN then false
  else if valEq a.1 b.1 then a.2.2 < b.2.2
  else valLt false b.1 a.1

/-- Insert a candidate into an ordered list. -/
def topInsert (x : Val × Nat × Nat) : List (Val × Nat × Nat) → List (Val × Nat × Nat)
  | [] => [x]
  | y :: l => if topBefore x y then x :: y :: l else y :: topInsert x l

/-- The selection of R302: values, codes and global indices in order. -/
def topSelect (nanx : Bool) (cands : List (Val × Nat × Nat)) : List (Val × Nat × Nat) :=
  (cands.filter (fun c => !(nanx && c.1.isNaN))).foldl (fun l c => topInsert c l) []

/-- An element that a collective or a conversion writes: its place, whether it was moved and not combined, its value, and of a moved one
the member and the source element that it is. -/
structure Made where
  ix : List Nat
  one : Bool
  elem : Elem
  orig : Option (Nat × List Nat)

/-- The result element of a collective at a position (R308). -/
def collElem (b : CBlock) (sT dT : Tensor) (free : Nat) (x : Parts) (me : Nat) (ix : List Nat) : Made :=
  let last := dT.rank - 1
  let moved (i : Nat) (jx : List Nat) : Made := { ix := ix, one := true, elem := x i jx, orig := some (i, jx) }
  let z (jx : List Nat) : Made :=
    { ix := ix, one := false, orig := none, elem := combine sT.fmt sT.layout b.rop free ((List.range b.count).map (fun i => x i jx)) }
  let at' (k : Nat) : List Nat := ix.take last ++ [k]
  match b.op with
  | 0 => moved (ix.getD last 0 / max 1 (sT.size last)) (at' (ix.getD last 0 % max 1 (sT.size last)))
  | 1 => z (at' (ix.getD last 0 + me * dT.size last))
  | 2 => z ix
  | _ => moved b.root ix

/-- The elements of this package's source that a result element needs. -/
def collNeeds (b : CBlock) (sT dT : Tensor) (me : Nat) (ix : List Nat) : List (List Nat) :=
  let last := dT.rank - 1
  let at' (k : Nat) : List Nat := ix.take last ++ [k]
  match b.op with
  | 0 => if ix.getD last 0 / max 1 (sT.size last) == me then [at' (ix.getD last 0 % max 1 (sT.size last))] else []
  | 1 => [at' (ix.getD last 0 + me * dT.size last)]
  | 2 => [ix]
  | 3 => if b.root == me then [ix] else []
  | _ => rowOrder sT.sizes

/-- The source block of a member that a destination block is a bit copy of (R195): equal types, and every element in its own place. -/
def copiedFrom (d sT : Tensor) (mine : List Made) : Option (Nat × List Nat) :=
  if sT.layout != 3 || sT.fmt != d.fmt || mine.any (fun e => match e.orig with
      | some o => o.2.headD 0 % 32 != e.ix.headD 0 % 32
      | none => true) then none
  else match (mine.filterMap (fun e => e.orig.map (fun o => (o.1, blockKey o.2)))).eraseDups with
    | [k] => some k
    | _ => none

/-- The bytes of a destination block (R195): a bit copy, `tail` giving the codes past the end of its member's dimension 0, or formed. -/
def madeBlock (d sT : Tensor) (tail : Nat × List Nat → Nat → Nat) (mine : List Made) : List Byte :=
  let at? (p : Nat) : Option Made := mine.find? (fun q => q.ix.headD 0 % 32 == p)
  match copiedFrom d sT mine, mine with
  | some k, e :: _ =>
    blockImage d.fmt ((List.range 32).map (fun p => match at? p with | some q => q.elem.2.1 | none => tail k p)) (e.elem.2.2.getD 0)
  | _, _ => formBlock d.fmt d.rm d.sat ((List.range 32).map (fun p => (at? p).map (fun q => q.elem.1)))

/-- Bytes of elements written into a destination: BLOCKED ones block by block (R195), those bytes of a block that `keep` names. -/
def imageOf (d sT : Tensor) (rd : Int → Nat → Nat) (tail : Nat × List Nat → Nat → Nat) (keep : List Nat → Nat → Bool) (es : List Made) :
    List (Nat × Byte) :=
  if d.layout == 3 then
    ((es.map (fun e => blockKey e.ix)).eraseDups).foldl (fun ov key =>
      let mine := es.filter (fun e => blockKey e.ix == key)
      match mine with
      | [] => ov
      | e :: _ =>
        let bs := madeBlock d sT tail mine
        let a := d.blockBase e.ix
        (List.range bs.length).foldl (fun ov (i : Nat) =>
          if keep key i then cellPut ov (wrapN 64 (a + (i : Int))) (bs.getD i 0) else ov) ov) []
  else es.foldl (fun ov e => overlay d rd ov e.ix (combinedCode d sT.fmt e.one e.elem)) []

/-- The codes past the end of dimension 0 in a block that a member holds: this package's own are read, those of another stand in no state
of it and are free values (log 84). -/
def tailCode (sT : Tensor) (rd : Int → Nat → Nat) (mine : Nat → Bool) (fresh : Nat) (k : Nat × List Nat) (p : Nat) : Nat :=
  if mine k.1 then (srcElem sT rd (.inside (blockElem k.2 p))).2.1
  else Config.freeNat (fresh + 2 ^ 48 * (k.1 + 1) + rowIndex sT.sizes (blockElem k.2 p)) % 2 ^ tyWidth sT.fmt

/-- The reads of this package's source elements; of BLOCKED ones that may be copied bit for bit, whole blocks. -/
def elemReads (t : Tensor) (whole : Bool) (ixs : List (List Nat)) : List (Int × Nat) :=
  let all := if whole && t.layout == 3 then
      (ixs.map blockKey).eraseDups.flatMap (fun k => (List.range 32).map (blockElem k))
    else ixs.eraseDups
  all.flatMap (fun ix => ((t.addr ix).1, t.es) :: (match t.scaleAddr ix with | some a => [(a, 1)] | none => []))

/-- Work of the collective engine ends by a fault (R202, R306, R307). -/
def State.endColl (s : State) (o : Coll) (cause va : Nat) : State :=
  (({ s with colls := s.colls.filter (fun x => x.id != o.id) } : State).dropBytes (0, o.id)).engFault o.asid o.issuer cause va

/-- Change a collective. -/
def State.updColl (s : State) (id : Nat) (f : Coll → Coll) : State :=
  { s with colls := s.colls.map (fun x => if x.id = id then f x else x) }

/-- The increments of a collective that are due and made (R312, R238), and its end when all chunks are done and none of its requests is at
a pseudo-channel (R217). -/
def State.collIncs (s : State) (id : Nat) : Nat → State
  | 0 => s
  | fuel + 1 =>
    match s.colls.find? (fun o => o.id == id) with
    | none => s
    | some o =>
      let b := cblockOf o.block.toNat
      let n := chunkCount (tensorOf o.dst.toNat)
      let whole := o.done.length ≥ n
      let due := if b.chunk then o.done.length else if whole then 1 else 0
      let isNode := match o.issuer with | .node _ _ => true | .wave _ => false
      if o.incs ≥ due || (isNode && !b.chunk) then
        if !whole || s.atChannel (.work (0, id)) then s else
        let s := ({ s with colls := s.colls.filter (fun x => x.id != id) } : State).dropBytes (0, id)
        match o.issuer with
        | .node core slot => s.pushDue (.graphWorkCompletion core slot)
        | .wave w => (s.owe w.team false).pushDue (.teamRetirement w.team)
      else
        let more (s : State) : State :=
          let s := s.updColl id (fun o => { o with incs := o.incs + 1 })
          match o.issuer with
          | .wave _ => s
          | .node core slot => s.decNodes core o.asid (succSlots (s.node core slot).desc (fun slab => slab))
        match s.increment o.asid o.issuer (0, id) (s.viewIss o.issuer) o.obj 1 with
        | .heldOn s _ => s
        | .made s => (more (s.mirror o.issuer o.obj 8)).collIncs id fuel
        | .failed s cause va =>
          let s := match o.issuer with
            | .wave w => s.postCause w.team (some w.wave) cause va 0
            | .node _ _ => s.writeStatus o.asid (StatusRec.plain cause va 0) 1 0
          (more s).collIncs id fuel

/-- The candidates of a TOPK (R308): every element of every member with its global index. -/
def topCands (b : CBlock) (sT : Tensor) (x : Parts) : List (Val × Nat × Nat) :=
  (List.range b.count).flatMap (fun i => (List.range (sT.size 0)).map (fun k =>
    let e := x i [k]
    (e.1, e.2.1, i * sT.size 0 + k)))

/-- Whether a byte of a destination block lies in a chunk (R312). -/
def inChunk (d : Tensor) (chunk : Nat) (key : List Nat) (i : Nat) : Bool :=
  match (chunkUnits d).findIdx? (· == key) with
  | some j => (j * d.blockBytes + i) / 65536 == chunk
  | none => false

/-- The element of a TOPK at an index, and its global index (R302, R308): the canonical NaN where there is no candidate. -/
def topElem (d sT : Tensor) (x : Parts) (sel : List (Val × Nat × Nat)) (ix : List Nat) : Made × Nat :=
  match sel[ix.headD 0]? with
  | some c =>
    let n := max 1 (sT.size 0)
    ({ ix := ix, one := true, elem := x (c.2.2 / n) [c.2.2 % n], orig := none }, c.2.2)
  | none => ({ ix := ix, one := true, elem := (.nan false, if d.fmt < 8 then 0 else canonNaN d.fmt, none), orig := none }, 2 ^ 64 - 1)

/-- The bytes that a chunk of a collective leaves (R308, R312), those of a TOPK's indices with them. -/
def collImage (o : Coll) (fresh : Nat) (rd : Int → Nat → Nat) (x : Parts) (me chunk : Nat) : List (Nat × Byte) :=
  let b := cblockOf o.block.toNat
  let d := tensorOf o.dst.toNat
  let sT := tensorOf o.src.toNat
  let ixs := chunkIx d chunk
  let put := imageOf d sT rd (tailCode sT rd (· == me) fresh) (inChunk d chunk)
  if b.op != 4 then put (ixs.map (collElem b sT d (Config.freeNat fresh) x me))
  else
    let es := ixs.map (topElem d sT x (topSelect b.nanp (topCands b sT x)))
    es.foldl (fun ov e =>
      let bs := toBytes 8 e.2
      (List.range 8).foldl (fun ov j => cellPut ov (d.idxp + 8 * e.1.ix.headD 0 + j) (bs.getD j 0)) ov) (put (es.map (·.1)))

/-- `COLLECTIVE_CHUNK` (R307, R308, R312): with every member's part at hand, one chunk of this member's destination is
written; then the increments that are due. -/
def chunkColl (op chunk : Nat) (s : State) : State :=
  match s.colls.find? (fun o => o.id == op) with
  | none => s
  | some o =>
    match s.ctx? o.asid with
    | none => s
    | some c =>
      if s.still o.asid o.issuer then s else
      match s.stallCause (0, o.id) with
      | some (cause, va) => (s.unstall (0, o.id)).endColl o cause va
      | none =>
      let s := s.unstall (0, o.id)
      let b := cblockOf o.block.toNat
      let d := tensorOf o.dst.toNat
      let sT := tensorOf o.src.toNat
      let me := field c.drank 11 0
      let ranks := (List.range b.count).map b.rank
      let part (r : Nat) : Option Peer := s.peers.find? (fun p => p.asid == o.asid && p.kind == 0 && p.number == o.id && p.rank == r)
      if o.done.contains chunk || chunk ≥ chunkCount d then s.collIncs op (chunkCount d + 1) else
      match ranks.find? (fun r => r != me && !s.reachesFrom c o.die r) with
      | some r => s.endColl o cMachineCheck r
      | none =>
        if ranks.any (fun r => r != me && (part r).isNone) then s
        else if ranks.any (fun r => r != me && (part r).any (fun p => p.words.headD 0 != o.block.toNat / 2 ^ 128)) then
          s.endColl o cIllegalOperand o.blockVa
        else
          let pos := (b.posOf me).getD 0
          let ixs := chunkIx d chunk
          let own := s.ownOf o.issuer
          let view := s.viewIss o.issuer
          let wr := elemWrites d ixs ++ (if b.op == 4 then ixs.map (fun ix => (((d.idxp + 8 * ix.headD 0 : Nat) : Int), 8)) else [])
          if s.writesBarred o.asid (0, o.id) o.order chunk wr then s else
          let p := s.placesOf (0, o.id) chunk
          let rds := elemReads sT (b.op != 1 && b.op != 2 && b.op != 4 && sT.fmt == d.fmt && d.layout == 3) (ixs.flatMap (collNeeds b sT d pos))
          let reads := s.engVia c own view .read (0, o.id) chunk rds
          let writes := s.engVia c own view .write (0, o.id) chunk wr
          match engJoin reads writes with
          | .wait _ => ((s.holdVia c (0, o.id) chunk (rds ++ wr)).engAsk o.asid o.issuer false (some (0, o.id)) reads.waits).engAsk o.asid o.issuer true (some (0, o.id)) writes.waits
          | .fault cause va => (s.logCause o.asid cause va).endColl o cause va
          | .ok =>
            let rd := p.read (s.engRead c o.issuer)
            let x : Parts := fun i ix =>
              if b.rank i == me then srcElem sT rd (.inside ix)
              else match part (b.rank i) with
                | some p => peerElem sT p.data (rowIndex sT.sizes ix)
                | none => (.fin false 0, 0, none)
            let runs := p.runs (runsOf (collImage o s.fresh rd x pos chunk))
            match s.engWrite c o.issuer runs with
            | .error va => (s.logCause o.asid cMachineCheck va).endColl o cMachineCheck va
            | .ok s =>
              let s := (runs.foldl (fun s r => s.mirror o.issuer r.1 r.2.length) s).dropPart (0, o.id) chunk
              (({ s with fresh := s.fresh + 2 ^ 64 } : State).updColl op (fun o => { o with done := o.done ++ [chunk] })).collIncs op
                (chunkCount d + 1)

/-- `COLLECTIVE_CHUNK` (R312). -/
def execCollectiveChunk (op chunk : Nat) (s : State) : Host.Outcome State Fault Refusal := commit s (chunkColl op chunk s)

/-- The entry of a node (R276), `none` where the table refuses it. Work that launches is made due. -/
def State.enterNode (s : State) (core slot asid : Nat) (d : BitVec 512) : Option State :=
  let n := s.node core slot
  let level := match s.ctx? asid with | some c => cellGet 0 c.qlevel 0 | none => 0
  if nodeBad d || n.state != 0 || !(n.asid.isNone || n.asid == some asid) || n.count + (nodePred d : Int) < 0 then none
  else
    let count := n.count + (nodePred d : Int)
    some ((s.setNode core slot { state := if count = 0 then 4 else 1, count := count, asid := some asid, desc := d, level := level,
                                 slab := false, lseq := 0 }).launchDue core)

/-- `NODE` (R458, R459). -/
def semNode (f : FmtX) (x : Iss) (s : State) : Res :=
  let a := x.uval f.a 2
  match x.uniformFault f.a 2 with
  | some (m, v) => .trap cUniform m v
  | none => match s.target (s.performer x) f true false with
    | none => placeRange x f
    | some _ =>
      if a == 0 then .trap cNullPointer x.actMask 0
      else if a % 64 != 0 then .trap cAlign x.actMask a
      else match s.uload x a 64 with
        | .res r => r
        | .ok w =>
          let d := BitVec.ofNat 512 w
          together (.node f) [a, w] (fun y s => match s.target y f true false with
            | none => placeRange y f
            | some core => match s.enterNode core f.imm8.toNat (asidOf y.wid) d with
              | none => .trap cIllegalOperand y.actMask a
              | some s => .go s []) x s

/-- `NODE` (R458). -/
def execNode (f : FmtX) (s : State) : Host.Outcome State Fault Refusal := issue (.node f) f.h (semNode f) s

/-- `CSIG_EFFECT` (R402): once the transfers it waits on are gone and the wave's held accesses are made. -/
def effectCsig (id : Nat) (s : State) : State :=
  match s.csigs.find? (fun g => g.id == id) with
  | none => s
  | some g =>
    let asid := asidOf g.wave
    if s.frozen g.wave.team || g.after.any (fun k => s.xfers.any (fun t => t.id == k)) ||
        s.waiting.any (fun r => r.wave == g.wave && r.nums.length ≥ 4 && r.id < id) then s else
    let done (s : State) : State :=
      (({ s with csigs := s.csigs.filter (fun g => g.id != id) } : State).owe g.wave.team false).pushDue (.teamRetirement g.wave.team)
    match g.slot with
    | some k =>
      let (took, s) := s.decNode g.core k asid
      if took then (done s).launchDue g.core else done (s.postCause g.wave.team (some g.wave.wave) cIllegalOperand k 0)
    | none =>
      match s.increment asid (.wave g.wave) (0, id) (s.viewOf g.wave) g.obj g.value.toNat with
      | .made s => done s
      | .heldOn s _ => s
      | .failed s cause va => done (s.postCause g.wave.team (some g.wave.wave) cause va 0)

/-- `CSIG_EFFECT` (R402). -/
def execCsigEffect (id : Nat) (s : State) : Host.Outcome State Fault Refusal := commit s (effectCsig id s)

/-- A read of a graph node's launch (R513): held, made, or the end of the work by a fault. What became of a block that held an earlier
try is read before the first (`State.launchNode`). -/
def State.nodeRead (s : State) (c : Ctx) (core slot va n : Nat) (go : Nat → State) : State :=
  let work := nodeWorkName core slot
  match s.workRead c work va n with
  | (.wait on, _) => (s.holdBytes c work partAct [(va, n)]).engAsk c.asid (.node core slot) false (some work) on
  | (.fault cause v, _) => s.nodeFault c.asid core slot cause v 0
  | (.ok, w) => go w

/-- The launch of a node whose count reached 0 (R275, R278): its `WORK` is read, checked and started. -/
def State.launchNode (s : State) (c : Ctx) (core slot : Nat) : State :=
  match s.stallCause (nodeWorkName core slot) with
  | some (cause, v) => (s.unstall (nodeWorkName core slot)).nodeFault c.asid core slot cause v 0
  | none =>
  let s := s.unstall (nodeWorkName core slot)
  let n := s.node core slot
  let va := nodeWork n.desc
  let bad (cause addr : Nat) : State := s.nodeFault c.asid core slot cause addr 0
  let run (slab : Bool) (s : State) : State := s.setNode core slot { n with state := 2, slab := slab }
  match nodeKind n.desc with
  | 1 =>
    if va == 0 then bad cNullPointer 0 else
    s.nodeRead c core slot va 128 (fun w =>
      let l := parseRec w
      let level := if l.dlvl == 7 then n.level else l.dlvl
      if recRefused w level true then bad cIllegalOperand va
      else
        let (id, s) := s.newGrid c.asid l (.graph core slot) 1 l.prio level
        (s.setNode core slot { n with state := 2, lseq := id.lseq }).pushDue .teamPlacement)
  | 2 =>
    if va == 0 then bad cNullPointer 0 else
    s.nodeRead c core slot va 32 (fun w =>
      let a := nfield w 63 0
      let b := nfield w 127 64
      if w / 2 ^ 195 != 0 then bad cIllegalOperand va
      else if a == 0 || b == 0 then bad cNullPointer 0
      else if a % 64 != 0 then bad cAlign a
      else if b % 64 != 0 then bad cAlign b
      else s.nodeRead c core slot a 64 (fun d => s.nodeRead c core slot b 64 (fun e =>
        let d := BitVec.ofNat 512 d
        let e := BitVec.ofNat 512 e
        let op := nfield w 193 192
        let origin := BitVec.ofNat 64 (nfield w 191 128)
        match transferFault op d e a b origin with
        | some (cause, v) => bad cause v
        | none =>
          let t := transferOf s c.asid core (.node core slot) op n.level d e a b origin (w.testBit 194) (nodeComp n.desc) 0 0
          run (w.testBit 194) { s with xfers := s.xfers ++ [t], nextId := s.nextId + 1 })))
  | 3 =>
    if va == 0 then bad cNullPointer 0 else
    s.nodeRead c core slot va 32 (fun w =>
      let b := cblockOf w
      if cblockBad c w then bad cIllegalOperand va
      else if b.src == 0 || b.dst == 0 then bad cNullPointer 0
      else s.nodeRead c core slot b.dst 64 (fun d => s.nodeRead c core slot b.src 64 (fun e =>
        let d := BitVec.ofNat 512 d
        let e := BitVec.ofNat 512 e
        match collFault c va b d e with
        | some (cause, v) => bad cause v
        | none => run b.chunk (s.startColl c (dieOfCore core) (.node core slot) w va d e (nodeComp n.desc)))))
  | _ => (run false s).pushDue (.graphWorkCompletion core slot)

/-- Whether a running node's work is still there (R277). -/
def State.nodeBusy (s : State) (core slot : Nat) : Bool :=
  s.xfers.any (fun t => t.issuer == .node core slot) || s.colls.any (fun o => o.issuer == .node core slot) ||
  s.grids.any (fun g => g.origin == .graph core slot)

/-- The `COMP` increment of a node and the freeing of its slot (R276, R238). A node whose work made increments of its own
to `COMP` receives no further one (R201, R312). -/
def State.finishNode (s : State) (core slot asid : Nat) : State :=
  let n := s.node core slot
  let free (s : State) : State := s.setNode core slot NodeSlot.free
  match s.increment asid (.node core slot) (nodeCompName core slot) none (if n.slab then 0 else nodeComp n.desc) 1 with
  | .made s => free s
  | .heldOn s _ => s
  | .failed s cause va => free (s.writeStatus asid (StatusRec.plain cause va n.lseq) 1 0)

/-- `GRAPH_WORK_COMPLETION` (R276, R277): the launch of a node whose count reached 0, where that is still to be made; else,
when its work has completed, the decrements of its successors, the `COMP` increment, and the freeing of its slot. -/
def completeNode (core slot : Nat) (s : State) : State :=
  let n := s.node core slot
  match n.asid.bind s.ctx? with
  | none => s
  | some c =>
    if c.killed then s
    else if n.state == 4 then
      let s := s.launchNode c core slot
      if (s.node core slot).state == 4 then s else s.dropBytes (nodeWorkName core slot)
    else if n.state == 2 && !s.nodeBusy core slot then
      let whole := succSlots n.desc (fun slab => !(slab && n.slab))
      (((s.setNode core slot { n with state := 3 }).decNodes core c.asid whole)).finishNode core slot c.asid
    else if n.state == 3 then s.finishNode core slot c.asid
    else s

/-- `GRAPH_WORK_COMPLETION` (R277). -/
def execGraphWorkCompletion (core slot : Nat) (s : State) : Host.Outcome State Fault Refusal := commit s (completeNode core slot s)

end Sys2Proof.Machine
end

