-- ==== Sys2Proof/Machine/Placement.lean ====
section
/-!
DEFINITION. The placement engine (15 R314 to R320; 21 R461 to R465): `PLACE.SET` and `PLACE.GET`, `PLD.CONV` and `PLD.RED`, the
start and the end of a conversion, and the accesses that a converting entry holds.
-/
namespace Sys2Proof.Machine

/-- The entry index of `PLACE` and `PLD` (R461, R463), from the low 32 bits. -/
def entryIndex (f : FmtX) (x : Iss) : Nat := x.uval f.a 1 % 2 ^ 32

/-- Install an entry with the snapshot of its shard's descriptor. -/
def Ctx.setEntry (c : Ctx) (idx : Nat) (w d : BitVec 512) : Ctx :=
  { c with place := cellSet 0 c.place idx w, shards := (c.shards.filter (fun p => p.1 != idx)) ++ [(idx, d)] }

/-- `PLACE.SET` (R315, R461, R462). -/
def semPlaceSet (f : FmtX) (x : Iss) (s : State) : Res :=
  let idx := entryIndex f x
  let b := x.uval f.b 2
  match x.uniformFaults [(f.a, 1), (f.b, 2)] with
  | some (m, v) => .trap cUniform m v
  | none => match s.target x f true false with
    | none => placeRange x f
    | some _ =>
      if idx ≥ 4096 then .trap cIllegalOperand x.actMask f.a.toNat
      else if b == 0 then .trap cNullPointer x.actMask 0
      else if b % 64 != 0 then .trap cAlign x.actMask b
      else match s.ctx? (asidOf x.wid), s.uload x b 64 with
        | none, _ => .go s []
        | _, .res r => r
        | some c, .ok w =>
          let w := BitVec.ofNat 512 w
          let h := (pentryOf w).shard
          if imageRefused c w || h % 64 != 0 || (pentryOf (c.entry idx)).conv then .trap cIllegalOperand x.actMask b
          else if h == 0 then .trap cNullPointer x.actMask 0
          else match s.uload x h 64 with
            | .res r => r
            | .ok d =>
              let d := BitVec.ofNat 512 d
              if shardRefused c idx w d then .trap cIllegalOperand x.actMask b
              else if (tensorOf d.toNat).base == 0 then .trap cNullPointer x.actMask 0
              else .go (s.updCtx c.asid (fun c => c.setEntry idx w d)) []

/-- `PLACE.SET` (R461). -/
def execPlaceSet (f : FmtX) (s : State) : Host.Outcome State Fault Refusal := issue (.placeSet f) f.h (semPlaceSet f) s

/-- `PLACE.GET` (R461, R462): the entry's bytes, stored as a plain write of the thread, which waits until it is made. -/
def semPlaceGet (f : FmtX) (x : Iss) (s : State) : Res :=
  let idx := entryIndex f x
  let b := x.uval f.b 2
  match x.uniformFaults [(f.a, 1), (f.b, 2)] with
  | some (m, v) => .trap cUniform m v
  | none => match s.target x f true false with
    | none => placeRange x f
    | some _ =>
      if idx ≥ 4096 then .trap cIllegalOperand x.actMask f.a.toNat
      else if b == 0 then .trap cNullPointer x.actMask 0
      else if b % 64 != 0 then .trap cAlign x.actMask b
      else match s.ctx? (asidOf x.wid) with
        | none => .go s []
        | some c =>
          let image := toBytes 64 (c.entry idx).toNat
          if !(x.seen x.first).isEmpty then .go s [] else
          match s.phase { x with uni := true } [{ lane := x.first, va := b, n := 64 }] .write (fun c a => c.needsMcst a.va a.n) with
          | .error r => r
          | .ok p =>
            match partialFault { x with uni := true } p.s p.go with
            | some r => r
            | none =>
              let s := p.go.foldl (fun s d => s.laneWrite x.wid b d.2 image) p.s
              let s := p.held.foldl (fun s h => s.holdStay x (.placeGet f) x.act h.1 h.2 (image.map BitVec.toNat) (p.s.toks x.w.core [h.1])) s
              .go (s.noteStores x p) (if p.held.isEmpty then p.stay else x.act)

/-- `PLACE.GET` (R461). -/
def execPlaceGet (f : FmtX) (s : State) : Host.Outcome State Fault Refusal := issue (.placeGet f) f.h (semPlaceGet f) s

/-- The states a demand asks for (R463). -/
def demandStates (w : Nat) : List Nat := [nfield w 4 0, nfield w 9 5, nfield w 14 10]

/-- An entry with new states, for the shard that a demand asks for (R316). -/
def PEntry.withStates (e : PEntry) (st : List Nat) : PEntry := { e with st := st }

/-- Whether a conversion from one state to another is listed (R318). -/
def convListed (a b : Nat) : Bool := a == b || (isS a && isR b) || (isP a && (isR b || isS b)) || (isR a && isS b)

/-- Number a demand, or merge it with one towards the same states (R319). -/
def State.demand (s : State) (c : Ctx) (idx : Nat) (st : List Nat) (dva : Nat) (d : BitVec 512) (iss : Issuer) (obj level : Nat) :
    State :=
  if c.demands.any (fun m => m.idx == idx && m.target == st && !m.ended) then
    s.updCtx c.asid (fun c => { c with demands := c.demands.map (fun m =>
      if m.idx = idx ∧ m.target = st ∧ m.ended = false then { m with objs := m.objs ++ [(iss, obj)] } else m) })
  else
    let n := cellGet 0 c.demanded idx + 1
    let (order, s) := s.newId
    s.updCtx c.asid (fun c => { c with
      demanded := cellSet 0 c.demanded idx n
      place := cellSet 0 c.place idx (c.entry idx ||| (1#512 <<< 305))
      demands := c.demands ++ [{ idx := idx, number := n, target := st, dstVa := dva, dst := d, objs := [(iss, obj)],
                                 level := level, order := order, started := false, ended := false, carry := s.carryFor iss c.asid }] })

/-- The name under which the increment of a `PLD.CONV` that needs no conversion is held. -/
def pldWork (asid idx : Nat) : Nat × Nat := (28672 + asid, idx)

/-- `PLD.CONV` (R463, R464). -/
def semPldConv (f : FmtX) (x : Iss) (s : State) : Res :=
  let idx := entryIndex f x
  let b := x.uval f.b 2
  let w := x.uval f.c 2
  let obj := x.uval f.d 2
  let st := demandStates w
  match x.uniformFaults [(f.a, 1), (f.b, 2)] with
  | some (m, v) => .trap cUniform m v
  | none => match s.target x f true false, s.ctx? (asidOf x.wid) with
    | none, _ => placeRange x f
    | _, none => .go s []
    | some _, some c =>
      let e := pentryOf (c.entry idx)
      if idx ≥ 4096 then .trap cIllegalOperand x.actMask f.a.toNat
      else if w / 2 ^ 15 != 0 || st.any (fun k => !stateOk k) ||
          (List.range 3).any (fun k => st.getD k 0 == 24 && e.st.getD k 0 != 24) then .trap cIllegalOperand x.actMask f.c.toNat
      else if b == 0 || obj == 0 then .trap cNullPointer x.actMask 0
      else if b % 64 != 0 then .trap cAlign x.actMask b
      else if obj % 8 != 0 then .trap cAlign x.actMask obj
      else match s.uload x b 64 with
        | .res r => r
        | .ok d =>
          let d := BitVec.ofNat 512 d
          let t := tensorOf d.toNat
          let old := match c.shards.find? (fun p => p.1 == idx) with | some p => tensorOf p.2.toNat | none => tensorOf 0
          if tensorBad d.toNat || t.rank != old.rank || t.fmt != old.fmt || !(e.withStates st).agrees t then
            .trap cIllegalOperand x.actMask b
          else if t.base == 0 then .trap cNullPointer x.actMask 0
          else if st == e.st then
            match s.increment c.asid (.wave x.wid) (pldWork c.asid idx) (s.viewOf x.wid) obj 1 with
            | .made s => .go s []
            | .heldOn s [] => .go s x.act
            | .heldOn s on => .go (s.park x.wid true (x.act.map (fun l => (l, obj, on)))) x.act
            | .failed s cause va => .go (s.postCause x.wid.team (some x.wid.wave) cause va 0) []
          else
            .go ((s.demand c idx st b d (.wave x.wid) obj (s.levelOf x.wid.team.grid)).owe x.wid.team true) []

/-- `PLD.CONV` (R463). -/
def execPldConv (f : FmtX) (s : State) : Host.Outcome State Fault Refusal := issue (.pldConv f) f.h (semPldConv f) s

/-- A value combined along the axes of a list, in ascending order (R309, R318, R465): `get` gives the element that the
package of a coordinate holds. -/
def alongAxes (e : PEntry) (fmt layout free : Nat) (get : List Nat → Elem) : List Nat → List Nat → Elem
  | [], a => get a
  | k :: ks, a =>
    combine fmt layout (e.st.getD k 16 % 8) free
      ((List.range (e.ax.getD k 1)).map (fun i => alongAxes e fmt layout free get ks (a.set k i)))

/-- The 32 bits of a combined element in a register (R465). -/
def elemWord (fmt : Nat) (one : Bool) (e : Elem) : Nat :=
  if one then e.2.1 else if fmt < 8 then wrapN 32 e.1.real.floor else match e.1 with
    | .nan _ => canonNaN 10
    | v => (fAdd 10 .rne v (.fin true 0)).1

/-- The axes of an entry along which partials are held, and the packages that hold them (R316, R465). -/
def PEntry.partialAxes (e : PEntry) : List Nat := (List.range 3).filter (fun k => isP (e.st.getD k 0))
def PEntry.partners (e : PEntry) (me : Nat) : List Nat :=
  let here := e.coords me
  ((rowOrder ((List.range 3).map (fun k => if isP (e.st.getD k 0) then e.ax.getD k 1 else 1))).map
    (fun q => e.rankOf ((List.range 3).map (fun k => if isP (e.st.getD k 0) then q.getD k 0 else here.getD k 0)))).filter (· != me)

/-- The number to which the free partials of an element are counted on: of each issue its own; at D2 and D3, where an element keeps its
value for an episode (R295) and the copies of a team read the same one (R299), one for each episode, entry and address (log 49). -/
def State.redFree (s : State) (w : WaveId) (idx fresh lane va : Nat) : Nat :=
  match (if s.levelOf w.team.grid ≥ 2 then s.grid? w.team.grid else none) with
  | none => fresh + 4096 * lane
  | some g => [g.id.asid, g.id.lseq, g.merges, idx, va, 0].foldl (fun k n => k * 2 ^ 64 + n) 1

/-- What `PLD.RED` returns for an element whose local code is given (R465). The partials that other packages hold stand in no state of
this package: each is a free value. -/
def redValue (c : Ctx) (e : PEntry) (t : Tensor) (free mine : Nat) : Nat :=
  let here := e.coords (field c.drank 11 0)
  let get (a : List Nat) : Elem :=
    let code := if a == here then mine else Config.freeNat (free + e.rankOf a - e.rbase) % 2 ^ 32
    (if t.fmt < 8 then .fin (decide (intVal t.fmt code < 0)) ((intVal t.fmt code).natAbs : Nat) else decVal t.fmt code, code, none)
  elemWord t.fmt e.partialAxes.isEmpty (alongAxes e t.fmt 0 0 get e.partialAxes.reverse here)

/-- `PLD.RED` (R463, R465): the combined elements; `MACHINE_CHECK` where a package of a P axis cannot be reached (log 53). -/
def semPldRed (f : FmtX) (x : Iss) (s : State) : Res :=
  let idx := entryIndex f x
  let as := x.lanes.map (fun l => { lane := l, va := x.rd l f.b 2, n := 4 : LaneAcc })
  match x.uniformFault f.a 1 with
  | some (m, v) => .trap cUniform m v
  | none => match s.target x f true false, s.ctx? (asidOf x.wid) with
    | none, _ => placeRange x f
    | _, none => .go s []
    | some _, some c =>
      let e := pentryOf (c.entry idx)
      let t := match c.shards.find? (fun p => p.1 == idx) with | some p => tensorOf p.2.toNat | none => tensorOf 0
      if idx ≥ 4096 then .trap cIllegalOperand x.actMask f.a.toNat
      else if !([10, 2, 6].contains t.fmt) then .trap cIllegalOperand x.actMask f.a.toNat
      else match x.misaligned 4 as with
        | some (m, a) => .trap cAlign m a
        | none => match s.phase x as .read (fun _ a => (t.elementAt a.va).isNone) with
          | .error r => r.emptying x f.d.toNat 1
          | .ok p =>
            match dataCheckTo x f.d.toNat 1 (badLanes p.s x.wid p.go), (e.partners (field c.drank 11 0)).find? (fun r => !s.reaches c r) with
            | some r, _ => r
            | none, some r => .check [] x.actMask r (x.lanes.map (fun l => (l, f.d.toNat, 1)))
            | none, none =>
            let fresh := p.s.fresh
            let vals := p.go.map (fun d =>
              (d.1.lane, toBytes 4 (redValue c e t (p.s.redFree x.wid idx fresh d.1.lane d.1.va) (ofBytes (p.s.viewBytes (p.s.viewOf x.wid) d.1.va d.2)))))
            let s := ({ p.s with fresh := fresh + 131072 } : State).deliver x.wid .load f.d.toNat vals (p.slots x.w.core)
            .go (p.holdAll s x (.pldRed f) .load f.d.toNat 1 (fun _ => [])) p.stay

/-- `PLD.RED` (R463). -/
def execPldRed (f : FmtX) (s : State) : Host.Outcome State Fault Refusal := issue (.pldRed f) f.h (semPldRed f) s

/-- The ranks of an entry's mesh. -/
def PEntry.ranks (e : PEntry) : List Nat :=
  (List.range (e.ax.getD 0 0 * e.ax.getD 1 0 * e.ax.getD 2 0)).map (e.rbase + ·)

/-- The offer of a member for a demand (R319). -/
def State.offer (s : State) (asid : Nat) (m : Demand) (rank : Nat) : Option Peer :=
  s.peers.find? (fun p => p.asid == asid && p.kind == 1 && p.number == m.number && p.rank == rank && p.words.headD 0 == m.idx)

/-- Demands leave the table; with none left for its entry, `CONV` returns to 0 (R320). -/
def Ctx.dropDemand (c : Ctx) (m : Demand) : Ctx :=
  let rest := c.demands.filter (fun q => !(q.idx == m.idx && q.number == m.number))
  { c with
    demands := rest
    place := if rest.any (fun q => q.idx == m.idx && !q.ended) then c.place
      else cellSet 0 c.place m.idx (c.entry m.idx &&& ~~~(1#512 <<< 305)) }

/-- Tell every issuer of a demand of a fault (R202, R319). -/
def State.demandFault (s : State) (asid : Nat) (m : Demand) (cause va : Nat) : State :=
  m.objs.foldl (fun s o => s.engFault asid o.1 cause va) s

/-- A byte of a held access in the new shard (R320): its VA, `none` where its element is not there. -/
def newPlace (eo en : PEntry) (old new : Tensor) (me va : Nat) : Option Nat :=
  match old.elementAt va with
  | none => none
  | some ix =>
    match en.toLocal (en.coords me) (eo.global (eo.coords me) ix) with
    | none => none
    | some jx => some (wrapN 64 ((new.addr jx).1 + ((va : Int) - (old.addr ix).1)))

/-- What a held access writes, from the old bytes and what it carries; `none` for a read or a failed comparison. -/
def heldNew (i : Instr) (n old : Nat) (data : List Nat) : Option Nat :=
  match i with
  | .st _ | .mcst _ | .placeGet _ => some (ofBytes (data.map (fun b => BitVec.ofNat 8 b)))
  | .atom f => some (atomNew f.rd.toNat f.rep (8 * n) old (data.headD 0))
  | .cas _ => if old = data.getD 1 0 then some (data.headD 0) else none
  | .facc _ => some (faccNew old (data.headD 0))
  | .tex _ => some (old ||| 2 ^ data.headD 0)
  | .texq _ => some 0
  | _ => none

/-- The deferred update that a held access is (R265, R320), by what it carries: the value, the key and its core. -/
def heldUpdate (i : Instr) (n va : Nat) (data : List Nat) : Option Update :=
  let u (op : Nat) (signed : Bool) : Option Update := match data with
    | [v, t, q, src] => some { src := src, t := t, q := q, e := 0, va := va, op := op, signed := signed, width := 8 * n, value := v, sat := false }
    | _ => none
  match i with
  | .atom f => u f.rd.toNat f.rep
  | .facc _ => u 16 false
  | _ => none

/-- The value of a held access fills its request (R320). -/
def State.fillHeld (s : State) (w : WaveId) (id lane : Nat) (bytes : List Byte) : State :=
  { s with reqs := s.reqs.map (fun q => if q.id = id ∧ id ≠ 0 then
      { q with fills := match s.wave? w with
        | some x => match (x.empties.filter (fun p => p.2 == id)).map (·.1) with
          | k :: _ => fillsOf lane (vkeyReg k) bytes
          | [] => [{ lane := lane, code := 511, val := BitVec.ofNat 64 (ofBytes bytes) }]
        | none => [] } else q) }

/-- A held access is over (R320): the threads that stand at its instruction learn what it read, none where it raised a cause; its request
slots stay taken until it is acknowledged (R207); and its team, or the merge of its grid, may go on. -/
def State.endRec (s : State) (r : Waiting) (bytes : Option (List Byte)) : State :=
  let va := r.nums.getD 1 0
  let told : List (DWord × Nat × Option Byte) := (List.range (r.nums.getD 2 0)).map (fun i => (r.pc, va + i, bytes.bind (fun bs => bs[i]?)))
  let s := if heldStays r.instr then s.updWave r.wave (fun w => w.updThreads (lanesOf r.lanes) (fun _ t => { t with seen := t.seen ++ told })) else s
  (((((s.dropWork r.id).dropBytes (recWork r.id)).keepSlots r.core r.wave r.slots).mergeDue r.wave.team.grid).pushDue (.teamRetirement r.wave.team))

/-- It ends by a cause, which its team is told. -/
def State.failRec (s : State) (r : Waiting) (cause va : Nat) : State :=
  (s.endRec r none).postCause r.wave.team (some r.wave.wave) cause va 0

/-- An entry that has held an access releases it (R317, R320): the bytes in its old shard go where `f` says that their elements are, and
the states it has then govern the access. An entry that converts still and has other bytes of it holds it further. -/
def State.releaseRec (s : State) (c : Ctx) (idx : Nat) (old : Tensor) (e : PEntry) (f : Nat → Option Nat) (r : Waiting) : State :=
  let spots := r.spots.map (fun (a : Nat) => if overlap old.range ((a : Int), (a : Int)) then f a else some a)
  let hasR := e.st.any isR
  let isM := match r.instr with | .mcst _ => true | _ => false
  if spots.any (·.isNone) || (heldWrites r.instr && (if isM then !hasR else hasR)) then s.failRec r cPlacement (r.nums.getD 1 0)
  else
    let now := spots.map (·.getD 0)
    let next := now.findSome? (fun a => ((c.entriesAt a 1).find? (fun e => e.2.1.conv && e.1 != idx)).map (·.1))
    let r' := { r with
      spots := now
      pas := if now = r.spots then r.pas else []
      nums := match next with | some k => k :: r.nums.drop 1 | none => r.nums
      freed := next.isNone }
    { s with waiting := s.waiting.map (fun x => if x.id = r.id then r' else x) }

/-- The accesses that an entry holds, in the order of their arrival. -/
def State.heldOf (s : State) (asid idx : Nat) : List Waiting :=
  s.waiting.filter (fun r => asidOf r.wave == asid && r.nums.length ≥ 4 && r.nums.headD 0 == idx && !r.freed)

/-- At the end of a conversion all that the entry holds is released (R320), to be made where `f` says. -/
def State.releaseAll (s : State) (c : Ctx) (idx : Nat) (old : Tensor) (e : PEntry) (f : Nat → Option Nat) : State :=
  (s.heldOf c.asid idx).foldl (fun s r => s.releaseRec c idx old e f r) (s.releaseBytes c idx f)

/-- Bytes at VAs with their PAs as pieces that are consecutive in both: a VA, a length, and the PA. -/
def pieceRuns : List (Nat × Nat) → List ((Nat × Nat) × XAll)
  | [] => []
  | (va, pa) :: l => match pieceRuns l with
    | ((va', n), .ok [(pa', m)]) :: rs =>
      if va' == va + 1 && pa' == pa + 1 then ((va, n + 1), .ok [(pa, m + 1)]) :: rs else ((va, 1), .ok [(pa, 1)]) :: ((va', n), .ok [(pa', m)]) :: rs
    | rs => ((va, 1), .ok [(pa, 1)]) :: rs

/-- A released access is made where its bytes stand (R320), at the PAs that it was translated to when it arrived or, moved, at those it
translates to now; or it asks for what it misses on, or raises a cause. Its reply is filled. -/
def State.heldDo (s : State) (c : Ctx) (r : Waiting) : State :=
  let idx := r.nums.headD 0
  let n := r.nums.getD 2 0
  let data := r.nums.drop 4
  let own := s.ownBlock r.wave.team.grid
  let view := s.viewOf r.wave
  let acc : Acc := if heldWrites r.instr then .write else .read
  let xs : XAll := if r.pas.isEmpty then r.spots.foldr (fun a x => (s.xlateAll c own a 1 acc).join x) (.ok []) else .ok (r.pas.map (fun p => (p, 1)))
  let work := recWork r.id
  match s.stallCause work, xs with
  | some (cause, v), _ => (s.unstall work).failRec r cause v
  | none, .fault _ cause v => (s.logCause c.asid cause v).failRec r cause v
  | none, .wait on =>
    if c.killed then s.endRec r none
    else (s.unstall work).engAsk c.asid (.wave r.wave) (acc == .write) (some work) (on.map (fun m => (m, r.spots.headD 0)))
  | none, .ok pas => match heldUpdate r.instr n (r.spots.headD 0) data with
    | some u =>
      if c.killed then s.endRec r none else
      let s : State := { s with updates := s.updates ++ [(r.wave.team.grid, r.wave.team, s.nextId, u)], nextId := s.nextId + 1 }
      (s.updCtx c.asid (fun c => r.spots.foldl (fun c a => c.markWritten own a 1) c)).endRec r none
    | none =>
      let ps := pieceRuns (r.spots.zip (pas.map (·.1)))
      let stores := match r.instr with | .st _ | .mcst _ | .placeGet _ => true | _ => false
      let bad := if stores then (if view.isSome then none else ps.findSome? (fun p => (s.partVa p.1.1 p.2.pas).map (fun v => (v, none))))
        else ps.findSome? (fun p => if s.ownBytes view p.1.1 p.1.2 then none else (s.badVa p.1.1 p.2.pas).map (fun b => (b.1, some b.2)))
      match bad with
      | some (v, pa) => ((pa.toList.foldl State.logBad s).failRec r cMachineCheck v)
      | none =>
        let bytes := ps.flatMap (fun p => s.viewBytes view p.1.1 p.2.pas)
        let made : Option State := match heldNew r.instr n (ofBytes bytes) data with
          | none => some s
          | some v =>
            let new := toBytes n v
            (s.viewPut view ps new).map (fun s =>
              let s := s.updCtx c.asid (fun c => ps.foldl (fun c p => c.markWritten own p.1.1 p.1.2) c)
              match r.instr with
              | .mcst _ => (runsOf ((r.spots.zip new).foldl (fun ov b => cellPut ov b.1 b.2) [])).foldl
                  (fun (s : State) (p : Nat × List Byte) => s.mcstBy r.wave { lane := 0, va := p.1, n := p.2.length } p.2) s
              | _ => s)
        match made with
        | none => s.failRec r cNondeterministic (r.spots.headD 0)
        | some s =>
          let lane := (lanesOf r.lanes).headD 0
          let s := s.endRec r (some bytes)
          match r.instr with
          | .pldRed _ =>
            let t := match c.shards.find? (fun p => p.1 == idx) with | some p => tensorOf p.2.toNat | none => tensorOf 0
            let free := s.redFree r.wave idx s.fresh lane (r.spots.headD 0)
            ({ s with fresh := s.fresh + 131072 } : State).fillHeld r.wave (r.nums.getD 3 0) lane
              (toBytes 4 (redValue c (pentryOf (c.entry idx)) t free (ofBytes bytes)))
          | _ => s.fillHeld r.wave (r.nums.getD 3 0) lane bytes

/-- The released accesses of a context are made in the order of their arrival, each once those before it have made theirs of its bytes
(R320; log 111). -/
def State.runHeld (s : State) (asid : Nat) : State :=
  (s.waiting.filter (fun r => r.freed && asidOf r.wave == asid)).foldl (fun s r =>
    match s.ctx? asid with
    | none => s
    | some c => if r.spots.any (fun a => s.behind (recWork r.id) 0 asid a 1) then s else s.heldDo c r) s

/-- A numbered demand fails (R319): every issuer is told, the entry keeps its states, and what it held is performed. -/
def State.failDemand (s : State) (asid : Nat) (m : Demand) (cause va : Nat) : State :=
  let s := (s.demandFault asid m cause va).updCtx asid (fun c => c.dropDemand m)
  match s.ctx? asid with
  | none => s
  | some c =>
    let e := pentryOf (c.entry m.idx)
    match c.shards.find? (fun p => p.1 == m.idx) with
    | some p => if e.conv then s else (s.releaseAll c m.idx (tensorOf p.2.toNat) e some).runHeld asid
    | none => s

/-- `CONVERSION_START` (R318, R319): the entry's next demand, once every member's has arrived and the one before has ended. -/
def startConversion (asid idx : Nat) (s : State) : State :=
  match s.ctx? asid with
  | none => s
  | some c =>
    let e := pentryOf (c.entry idx)
    let me := field c.drank 11 0
    let others := e.ranks.filter (· != me)
    match c.demands.find? (fun m => m.idx == idx && !m.ended) with
    | none => s
    | some m =>
      if m.started || c.stopped then s else
      match others.find? (fun r => !s.reaches c r) with
      | some r => s.failDemand asid m cMachineCheck r
      | none =>
        if others.any (fun r => (s.offer asid m r).isNone) then s
        else if others.any (fun r => (s.offer asid m r).any (fun p => p.words.drop 1 != m.target)) ||
            (List.range 3).any (fun k => !convListed (e.st.getD k 0) (m.target.getD k 0)) then
          s.failDemand asid m cPlacement m.dstVa
        else
          s.updCtx asid (fun c => { c with demands := c.demands.map (fun q =>
            if q.idx = m.idx ∧ q.number = m.number then { q with started := true } else q) })

/-- `CONVERSION_START` (R319). -/
def execConversionStart (asid idx : Nat) (s : State) : Host.Outcome State Fault Refusal := commit s (startConversion asid idx s)

/-- The entry as a conversion leaves it (R318, R464). -/
def newEntryWord (w : BitVec 512) (m : Demand) (conv : Bool) : BitVec 512 :=
  let keep := w.toNat - nfield w.toNat 55 0 - nfield w.toNat 292 278 * 2 ^ 278 - nfield w.toNat 305 305 * 2 ^ 305
  BitVec.ofNat 512 (keep + m.dstVa % 2 ^ 56 + (m.target.getD 0 0 + m.target.getD 1 0 * 2 ^ 5 + m.target.getD 2 0 * 2 ^ 10) * 2 ^ 278
    + (if conv then 2 ^ 305 else 0))

/-- The increments of an ended conversion (R320, R238), and the end of its demand when all are made. -/
def State.convIncs (s : State) (asid : Nat) (m : Demand) : List (Issuer × Nat) → State
  | [] => s.updCtx asid (fun c => { c with demands := c.demands.filter (fun q => !(q.idx == m.idx && q.number == m.number)) })
  | o :: os =>
    let done (s : State) : State :=
      let s := s.updCtx asid (fun c => { c with demands := c.demands.map (fun q =>
        if q.idx = m.idx ∧ q.number = m.number then { q with objs := os } else q) })
      match o.1 with | .wave w => (s.owe w.team false).pushDue (.teamRetirement w.team) | .node _ _ => s
    match s.increment asid o.1 (asid + 1, m.idx) (s.viewIss o.1) o.2 1 with
    | .made s => (done s).convIncs asid m os
    | .heldOn s _ => s
    | .failed s cause va =>
      (done (match o.1 with | .wave w => s.postCause w.team (some w.wave) cause va 0 | .node _ _ => s)).convIncs asid m os

/-- The elements of the new shard (R316, R318): those of the old shards, combined along each P axis that the demand ends. -/
def convElem (s : State) (c : Ctx) (m : Demand) (eo en : PEntry) (old : Tensor) (rd : Int → Nat → Nat) (free : Nat) (jx : List Nat) :
    Made :=
  let me := field c.drank 11 0
  let g := en.global (en.coords me) jx
  let axes := (List.range 3).filter (fun k => isP (eo.st.getD k 0) && !isP (m.target.getD k 0))
  let holder (a : List Nat) : List Nat :=
    ((rowOrder (eo.ax)).find? (fun q => (eo.toLocal q g).isSome && (List.range 3).all (fun k =>
      isS (eo.st.getD k 0) || q.getD k 0 == a.getD k 0))).getD a
  let get (a : List Nat) : Elem :=
    let a := holder a
    match eo.toLocal a g with
    | none => (.fin false 0, 0, none)
    | some ix =>
      if eo.rankOf a == me then srcElem old rd (.inside ix)
      else match s.offer c.asid m (eo.rankOf a) with
        | some p => peerElem old p.data (rowIndex old.sizes ix)
        | none => (.fin false 0, 0, none)
  let a := holder (eo.coords me)
  { ix := jx, one := axes.isEmpty, elem := alongAxes eo old.fmt old.layout free get axes.reverse (eo.coords me),
    orig := if axes.isEmpty then (eo.toLocal a g).map (fun ix => (eo.rankOf a, ix)) else none }

/-- `CONVERSION_END` (R318, R320): the released accesses of the context are made that still wait; the new shard is written, once none of them
stands in the old one, the entry takes its handle and states, the held accesses are released and made, and the objects are incremented.
With the conversions of a killed context gone, what they held is performed (R264, R346). -/
def endConversion (asid idx : Nat) (s : State) : State :=
  if (s.ctx? asid).any (·.stopped) then s else
  let s := s.runHeld asid
  match s.ctx? asid with
  | none => s
  | some c =>
    match c.demands.find? (fun m => m.idx == idx && (m.started || m.ended)), c.shards.find? (fun p => p.1 == idx) with
    | some m, some (_, sd) =>
      if m.ended then s.convIncs asid m m.objs
      else match s.stallCause (asid + 1, idx) with
      | some (cause, va) => (s.unstall (asid + 1, idx)).failDemand asid m cause va
      | none =>
        let s := s.unstall (asid + 1, idx)
        let eo := pentryOf (c.entry idx)
        let en := eo.withStates m.target
        let old := tensorOf sd.toNat
        let new := tensorOf m.dst.toNat
        let iss : Issuer := match m.objs with | o :: _ => o.1 | [] => .node 0 0
        let own := s.ownOf iss
        let view := s.viewIss iss
        let free := { c with place := cellErase c.place idx, shards := c.shards.filter (fun p => p.1 != idx) }
        let ixs := rowOrder new.sizes
        let work := (asid + 1, idx)
        let reads := s.engAll free own view .read (elemReads old (new.layout == 3) (rowOrder old.sizes))
        let wr := elemWrites new ixs
        let writes := s.engAll free own view .write wr
        if s.releases.any (fun o => o.asid == asid && overlap old.range (o.lo, o.hi)) ||
            wr.any (fun a => s.ownedBefore work m.order asid (wrapN 64 a.1) a.2) then s else
        match engJoin reads writes with
        | .wait _ => (s.engAsk asid iss false (some work) reads.waits).engAsk asid iss true (some work) writes.waits
        | .fault cause va => (s.logCause asid cause va).failDemand asid m cause va
        | .ok =>
          let rd (a : Int) (n : Nat) : Nat := s.viewNum free own view (wrapN 64 a) n
          let es := ixs.map (convElem s c m eo en old rd (Config.freeNat s.fresh))
          let tail := tailCode old rd (· == field c.drank 11 0) s.fresh
          let image := runsOf (imageOf new old rd tail (fun _ _ => true) es)
          match s.engWrite free iss image with
          | .error va => (s.logCause asid cMachineCheck va).failDemand asid m cMachineCheck va
          | .ok s =>
            let s := image.foldl (fun s p => s.mirror iss p.1 p.2.length) s
            let more := c.demands.any (fun q => q.idx == idx && q.number != m.number && !q.ended)
            let s := ({ s with fresh := s.fresh + 2 ^ 64 } : State).updCtx asid (fun c =>
              { (c.setEntry idx (newEntryWord (c.entry idx) m more) m.dst) with
                demands := c.demands.map (fun q => if q.idx = m.idx ∧ q.number = m.number then { q with ended := true } else q) })
            let s := (match s.ctx? asid with
              | some c => s.releaseAll c idx old en (newPlace eo en old new (field c.drank 11 0))
              | none => s).runHeld asid
            s.convIncs asid m m.objs
    | none, some (_, sd) =>
      if c.killed then (s.releaseAll c idx (tensorOf sd.toNat) (pentryOf (c.entry idx)) some).runHeld asid else s
    | _, _ => s

/-- `CONVERSION_END` (R320). -/
def execConversionEnd (asid idx : Nat) (s : State) : Host.Outcome State Fault Refusal := commit s (endConversion asid idx s)

end Sys2Proof.Machine
end

