-- ==== Sys2Proof/Machine/Sync.lean ====
section
/-!
DEFINITION. Synchronisation and lane exchange: team barriers (19 R387 to R389), the decision queue (20 R409 to R412), hardware
queues (21 R466, R467), stage rings (02 R51, R52; 21 R468, R469), and the lane groups `LRED`, `MATCH`, `SLANE` and `VPOLL`
(21 R449 to R451; 22 R479 to R481).
-/
namespace Sys2Proof.Machine

/-- The instructions that raise `ILLEGAL_OPERAND` in a handler (R340); the log gives `TADDR`. -/
def outsideHandler (x : Iss) (go : Unit → Res) : Res :=
  if x.w.tlevel ≥ 1 then .trap cIllegalOperand x.actMask 0 else go ()

/-- The operand of a field that may be absent. -/
def Iss.optS (x : Iss) (code : RegCode) (absent : Nat) : Nat := if code.toNat == 511 then absent else x.rd x.first code 2

/-- `BAR`, waiting or `.ARV` (R387, R389). A wave whose arrival stands in the phase waits until it releases, and then arrives in the
next. -/
def semBar (f : FmtR) (arv : Bool) (x : Iss) (s : State) : Res :=
  outsideHandler x (fun _ =>
    match s.team? x.wid.team with
    | none => .go s []
    | some t =>
      let n := f.fn.toNat % 16
      let a := if f.a.toNat == 511 then 0 else x.rd x.first f.a 1 % 2 ^ 32
      let m := x.optS f.b t.everyone.toNat % 2 ^ 33
      let k := x.wid.wave
      if arv && (t.bar n).arr.getLsbD k then .wait (.barPhase n) else
      let s := s.updTeam x.wid.team (fun t =>
        let b := t.bar n
        let seen := match b.arvs.find? (fun p => p.1 == k) with | some p => p.2 | none => 0
        t.setBar n { b with
          ops := b.ops.filter (fun p => p.1 != k) ++ [(k, m, a)]
          arvs := if arv then b.arvs.filter (fun p => p.1 != k) ++ [(k, seen ||| x.actMask)] else b.arvs })
      let s := advance s x.wid (if arv then x.group else x.group.filter (fun l => !x.act.contains l)) x.pc
      let s := if arv then s else s.block x.wid x.act (.bar n false)
      .jump (s.settle x.wid))

/-- `BAR` (R389). -/
def execBar (f : FmtR) (s : State) : Host.Outcome State Fault Refusal := issue (.bar f) f.h (semBar f false) s

/-- `BAR.ARV` (R389). -/
def execBarArv (f : FmtR) (s : State) : Host.Outcome State Fault Refusal := issue (.barArv f) f.h (semBar f true) s

/-- The waves a mask of 32 bits names. -/
def wavesIn (m : Nat) : List Nat := bitsSet 32 m

/-- The oldest claim of a wave on the decision queue that has no entry yet. -/
def State.oldestClaim (s : State) (w : WaveId) : Option Req :=
  s.reqs.find? (fun r => r.wave == w && match r.kind with
    | .decision _ => !r.hasDecision
    | _ => false)

/-- Give an appended value to a wave's oldest claim (R411, R412): the V form's pairs become full; the S form's claim holds
the value, marked by code 512, until the wave issues again. The second value says whether a claim took it. -/
def State.giveDecision (s : State) (w : WaveId) (v : DWord) : Bool × State :=
  match s.oldestClaim w with
  | none => (false, s)
  | some r =>
    if r.fills.isEmpty then
      (true, { s with reqs := s.reqs.map (fun q => if q.id = r.id then { q with fills := [{ lane := 0, code := 512, val := v }] } else q) })
    else
      let fills := r.fills.map (fun f =>
        { f with val := if f.code % 2 = 0 then (v.setWidth 32).setWidth 64 else (v >>> 32) })
      let s := (s.reqs.filter (fun q => q.id == r.id)).foldl (fun s q => s.updWave q.wave (fun w => w.install r.id fills)) s
      (true, { s with reqs := s.reqs.filter (fun q => q.id != r.id) })

/-- `DECP` (R409, R410). The copies of a redundant team have one queue, to which the copy on the lower core appends (log 25). -/
def semDecp (f : FmtR) (x : Iss) (s : State) : Res :=
  outsideHandler x (fun _ =>
    match s.team? x.wid.team with
    | none => .go s []
    | some t =>
      let m := x.optS f.b (2 ^ t.nwaves - 1) % 2 ^ 32
      if t.decisions.length ≥ 64 then .wait .full
      else if m == 0 || m ≥ 2 ^ t.nwaves then .trap cIllegalOperand x.actMask m
      else if s.secondCopy t then .go s []
      else
        let v := BitVec.ofNat 64 (x.rd x.first f.a 2)
        let live := (BitVec.ofNat 32 m) &&& ~~~t.gone
        let (left, s) := (wavesIn live.toNat).foldl (fun (p : LaneMask × State) k =>
          let (took, s) := p.2.giveDecision { team := t.id, wave := k } v
          (if took then p.1 &&& ~~~(1#32 <<< k) else p.1, s)) (live, s)
        .go (if left == 0 then s else s.updTeam t.id (fun t => { t with
          decisions := t.decisions ++ [{ seq := t.decNext, value := v, mask := left }]
          decNext := t.decNext + 1 })) [])

/-- `DECP` (R409). -/
def execDecp (f : FmtR) (s : State) : Host.Outcome State Fault Refusal := issue (.decp f) f.h (semDecp f) s

/-- The claim a waiting group repeats. -/
def Iss.claim (x : Iss) (s : State) : Option Req :=
  match (x.w.thread x.first).run with
  | .blocked (.decision k) => s.reqs.find? (fun r => r.wave == x.wid && r.kind == .decision k)
  | _ => none

/-- A lane-wide result of a wave in 64 bits. -/
def State.putAll (s : State) (x : Iss) (d v : Nat) : State := s.updWave x.wid (fun w => x.lanes.foldl (fun w l => w.writeReg l d 2 v) w)

/-- A claim on the decision queue (R411, R412): the entry there is, or a place in the order of claims, numbered in the order of issue, and
entries go to them in that order; an S form waits for its entry. -/
def claimEntry (d : Nat) (x : Iss) (s : State) : Res :=
  match s.team? x.wid.team with
  | none => .go s []
  | some t =>
    let mine (e : Decision) : Bool := e.mask.getLsbD x.wid.wave
    match (if (s.oldestClaim x.wid).isSome then none else t.decisions.find? mine) with
    | some e =>
      .go ((s.updTeam t.id (fun t => ({ t with decisions := t.decisions.map (fun (g : Decision) =>
        if g.seq = e.seq then { g with mask := g.mask &&& ~~~(1#32 <<< x.wid.wave) } else g) } : Team).sweep)).putAll x d e.value.toNat) []
    | none =>
      if t.leadEnded then .trap cQueue x.actMask 0x40
      else
        let k := x.w.decPos
        let (id, s) := s.newId
        let s := s.updWave x.wid (fun w => { w with decPos := k + 1 })
        let fills := if d < 320 then x.lanes.flatMap (fun l =>
          [{ lane := l, code := d, val := 0 }, { lane := l, code := d + 1, val := 0 : Fill }]) else []
        let s := { s with reqs := s.reqs ++ [{ id := id, wave := x.wid, core := x.w.core, bay := x.w.bay, slots := [], carry := Carry.none, kind := .decision k, fills := fills }] }
        if d < 320 then .go (s.updWave x.wid (fun w => x.lanes.foldl (fun w l => w.markEmpty l d 2 id) w)) []
        else .jump ((advance s x.wid (x.group.filter (fun l => !x.act.contains l)) x.pc).block x.wid x.act (.decision k))

/-- `DECT` (R411, R412): a waiting S form looks for its entry; any other claims, once for both copies of a redundant team (R301, R413). -/
def semDect (f : FmtR) (x : Iss) (s : State) : Res :=
  outsideHandler x (fun _ =>
    match s.team? x.wid.team with
    | none => .go s []
    | some t =>
      let d := f.d.toNat
      match x.claim s with
      | some r =>
        (match r.fills.head? with
        | some g => .go (({ s.putAll x d g.val.toNat with reqs := s.reqs.filter (fun q => q.id != r.id) } : State).twinGo x (.dect f)
            s.nextId) []
        | none => match r.kind with
          | .decision k => .wait (.decision k)
          | _ => .go s [])
      | none =>
        if !t.hasLead then .trap cQueue x.actMask 0x40
        else match (x.w.thread x.first).run with
          | .blocked (.decision _) =>
            if t.red then .jump (s.raiseBoth x (fun w s => s.raisePrecise w cQueue x.actMask 0x40)) else .trap cQueue x.actMask 0x40
          | _ => together (.dect f) [] (claimEntry d) x s)

/-- `DECT` (R411). -/
def execDect (f : FmtR) (s : State) : Host.Outcome State Fault Refusal := issue (.dect f) f.h (semDect f) s

/-- Values go to the pops that wait for entries, oldest first, and the rest joins the queue (R467). -/
def State.queuePut (s : State) (asid q : Nat) : List DWord → State
  | [] => s
  | v :: vs =>
    match s.ctx? asid with
    | none => s
    | some c =>
      let pops := cellGet [] c.pops q
      match pops with
      | [] =>
        (s.updCtx asid (fun c => { c with hwq := cellSet [] c.hwq q (cellGet [] c.hwq q ++ [v]) })).queuePut asid q vs
      | r :: rs =>
        let s := s.updCtx asid (fun c => { c with pops := cellSet [] c.pops q rs })
        let mine := s.reqs.filter (fun x => x.id == r)
        let s := mine.foldl (fun s x => s.updWave x.wave (fun w => w.install x.id (x.fills.map (fun f =>
          { f with val := if f.code % 2 = 0 then (v.setWidth 32).setWidth 64 else (v >>> 32) })))) s
        ({ s with reqs := s.reqs.filter (fun x => x.id != r) } : State).queuePut asid q vs

/-- Entries of a queue and its size. -/
def Ctx.queue (c : Ctx) (q : Nat) : List DWord := cellGet [] c.hwq q
def Ctx.queueSize (c : Ctx) (q : Nat) : Nat := c.qsize.getD q 0

/-- `QPUSH` (R466, R467). -/
def semQpush (f : FmtR) (x : Iss) (s : State) : Res :=
  let q := f.fn.toNat
  match s.ctx? (asidOf x.wid) with
  | none => .go s []
  | some c =>
    let vals := x.lanes.map (fun l => BitVec.ofNat 64 (x.rd l f.a 2))
    if c.queueSize q == 0 then .trap cQueue x.actMask q
    else together (.qpush f) (q :: vals.map BitVec.toNat) (fun x s =>
      if (c.queue q).length + vals.length > c.queueSize q then .wait (.room q vals.length)
      else .go (s.queuePut (asidOf x.wid) q vals) []) x s

/-- `QPUSH` (R466). -/
def execQpush (f : FmtR) (s : State) : Host.Outcome State Fault Refusal := issue (.qpush f) f.h (semQpush f) s

/-- The claims of a pop (R467): the entries there are now, and positions of those to come. -/
def claimPops (f : FmtR) (x : Iss) (q : Nat) : List Nat → List DWord → State → State
  | [], rest, s => s.updCtx (asidOf x.wid) (fun c => { c with hwq := cellSet [] c.hwq q rest })
  | l :: ls, v :: rest, s =>
    claimPops f x q ls rest (s.updWave x.wid (fun w => w.writeReg l f.d.toNat 2 v.toNat))
  | l :: ls, [], s =>
    let (id, s) := s.newId
    let d := f.d.toNat
    let s := { s.updWave x.wid (fun w => w.markEmpty l d 2 id) with
      reqs := s.reqs ++ [{ id := id, wave := x.wid, core := x.w.core, bay := x.w.bay, slots := [], carry := Carry.none, kind := .pop q,
                           fills := [{ lane := l, code := d, val := 0 }, { lane := l, code := d + 1, val := 0 : Fill }] : Req }] }
    claimPops f x q ls [] (s.updCtx (asidOf x.wid) (fun c => { c with pops := cellSet [] c.pops q (cellGet [] c.pops q ++ [id]) }))

/-- `QPOP` (R466, R467). -/
def semQpop (f : FmtR) (x : Iss) (s : State) : Res :=
  let q := f.fn.toNat
  match s.ctx? (asidOf x.wid) with
  | none => .go s []
  | some c =>
    if c.queueSize q == 0 then .trap cQueue x.actMask q
    else together (.qpop f) [q] (fun x s =>
      if (c.queue q).isEmpty then .wait (if f.d.toNat < 320 then .entry q else .entryS q)
      else .go (claimPops f x q x.lanes (c.queue q) s) []) x s

/-- `QPOP` (R466). -/
def execQpop (f : FmtR) (s : State) : Host.Outcome State Fault Refusal := issue (.qpop f) f.h (semQpop f) s

/-- The configuration of the ring an instruction names. -/
def ringOf (t : Team) (f : FmtR) : RingCfg := t.rings.getD (f.fn.toNat % 8) (ringOfWord 0)

/-- A slot of a ring. -/
def Team.slot (t : Team) (n k : Nat) : RingSlot := cellGet RingSlot.none t.ringSlots (16 * n + k)

/-- Whether a side may acquire a slot at a phase (R52). -/
def ringReady (b : RingSlot) (cons e : Bool) : Bool := b.full == cons && b.ph == e

/-- `RACQ` (R52, R468). -/
def semRacq (f : FmtR) (x : Iss) (s : State) : Res :=
  outsideHandler x (fun _ =>
    match s.team? x.wid.team with
    | none => .go s []
    | some t =>
      let n := f.fn.toNat % 8
      let cons := f.fn.toNat / 8 % 2 == 1
      let c := ringOf t f
      let key := 2 * n + (if cons then 1 else 0)
      let pos := cellGet 0 x.w.ring key
      let k := pos / 2
      if c.n == 0 then .trap cIllegalOperand x.actMask n
      else if !ringReady (t.slot n k) cons (pos % 2 == 1) then .wait (.ring n cons)
      else
        let next := if k + 1 ≥ c.n then 1 - pos % 2 else 2 * (k + 1) + pos % 2
        .go (s.updWave x.wid (fun w => ({ w with ring := cellSet 0 w.ring key next }).writeReg x.first f.d.toNat 2 k)) [])

/-- `RACQ` (R468). -/
def execRacq (f : FmtR) (s : State) : Host.Outcome State Fault Refusal := issue (.racq f) f.h (semRacq f) s

/-- `RREL` (R52, R468, R469): a wave counts once per phase of the slot. -/
def semRrel (f : FmtR) (x : Iss) (s : State) : Res :=
  outsideHandler x (fun _ =>
    match s.team? x.wid.team with
    | none => .go s []
    | some t =>
      let n := f.fn.toNat % 8
      let cons := f.fn.toNat / 8 % 2 == 1
      let c := ringOf t f
      let k := x.rd x.first f.a 2
      let b := t.slot n k
      if c.n == 0 then .trap cIllegalOperand x.actMask n
      else if k ≥ c.n || b.full != cons || b.done.contains x.wid.wave then .trap cIllegalOperand x.actMask k
      else
        let done := b.done ++ [x.wid.wave]
        let b := if done.length ≥ (if cons then c.c else c.p) then
            { full := !cons, ph := if cons then !b.ph else b.ph, done := [] }
          else { b with done := done }
        .go (s.updTeam t.id (fun t => { t with ringSlots := cellSet RingSlot.none t.ringSlots (16 * n + k) b })) [])

/-- `RREL` (R468). -/
def execRrel (f : FmtR) (s : State) : Host.Outcome State Fault Refusal := issue (.rrel f) f.h (semRrel f) s

/-- The lanes of a lane's group (R450, R480, R481): its mask, or the active lanes when the field is 511. -/
def groupOf (x : Iss) (code : RegCode) (l : Nat) : List Nat :=
  if code.toNat == 511 then x.act else x.act.filter (fun k => (x.rd l code 1).testBit k)

/-- The pattern a reduction starts from when its group is empty (R449). -/
def lredIdentity (t op : Nat) : Nat :=
  let w := tyWidth t
  match op with
  | 1 => if t == 10 then 0x7F800000 else if tySigned t then 2 ^ (w - 1) - 1 else 2 ^ w - 1
  | 2 => if t == 10 then 0xFF800000 else if tySigned t then 2 ^ (w - 1) else 0
  | 3 => 2 ^ w - 1
  | _ => 0

/-- One step of a reduction. -/
def lredStep (t op a b : Nat) : Nat × BitVec 6 :=
  let w := tyWidth t
  match op with
  | 0 => if t == 10 then fAdd 10 .rne (decVal 10 a) (decVal 10 b) else ((a + b) % 2 ^ w, 0)
  | 1 => if t == 10 then fMinMax 10 false a b else (if intVal t b < intVal t a then b else a, 0)
  | 2 => if t == 10 then fMinMax 10 true a b else (if intVal t a < intVal t b then b else a, 0)
  | 3 => (a &&& b, 0)
  | 4 => (a ||| b, 0)
  | _ => (a ^^^ b, 0)

/-- A reduction in ascending lane order (R450); a NaN result is the canonical one, that of a single lane too (R112). DESIGN CHOICE (log 120):
a group of one lane makes no operation, so that a signalling NaN in it raises no exception. -/
def lredOver (t op : Nat) : List Nat → Nat × BitVec 6
  | [] => (lredIdentity t op, 0)
  | v :: vs =>
    let r := vs.foldl (fun r x => let q := lredStep t op r.1 x; (q.1, r.2 ||| q.2)) (v, 0)
    if t == 10 && (decVal 10 r.1).isNaN then (canonNaN 10, r.2) else r

/-- `LRED` (R449, R450). -/
def semLred (f : FmtR) (x : Iss) (s : State) : Res :=
  let t := tyS f.ty
  let w := tyWidth t
  let op := f.fn.toNat % 8
  let val (l : Nat) : Nat := x.rd l f.a (words t) % 2 ^ w
  let res (l : Nat) : Nat × BitVec 6 := lredOver t op ((groupOf x f.b l).map val)
  arith x s (fun l =>
    { writes := [(f.d.toNat, words t, extendTo 64 t (intVal t (res l).1))], preds := [],
      exc := x.lanes.foldl (fun e i => if (groupOf x f.b i).contains l then e ||| (res i).2 else e) 0, draws := 0 })

/-- `LRED` (R449). -/
def execLred (f : FmtR) (s : State) : Host.Outcome State Fault Refusal := issue (.lred f) f.h (semLred f) s

/-- `MATCH` (R451): a lane's mask is the active lanes with its key; the predicate marks the lowest of each. -/
def semMatch (f : FmtR) (x : Iss) (s : State) : Res :=
  let t := tyS f.ty
  let key (l : Nat) : Nat := x.rd l f.a (words t) % 2 ^ tyWidth t
  let same (l : Nat) : List Nat := x.act.filter (fun k => key k == key l)
  arith x s (fun l =>
    { writes := [(f.d.toNat, 1, (maskOf (same l)).toNat)], preds := [(f.fn.toNat / 8, (same l).head? == some l)], exc := 0, draws := 0 })

/-- `MATCH` (R451). -/
def execMatch (f : FmtR) (s : State) : Host.Outcome State Fault Refusal := issue (.matchR f) f.h (semMatch f) s

/-- The source lane of `SLANE` (R480). -/
def slaneFrom (mode i b : Nat) : Int :=
  match mode with
  | 0 => ((b % 32 : Nat) : Int)
  | 1 => (i : Int) + sext 32 b
  | 2 => ((i : Int) + sext 32 b) % 32
  | _ => ((i ^^^ (b % 32) : Nat) : Int)

/-- `SLANE` (R479, R480). -/
def semSlane (f : FmtR) (x : Iss) (s : State) : Res :=
  let t := tyS f.ty
  let val (l : Nat) : Nat := x.rd l f.a (words t)
  arith x s (fun i =>
    let j := slaneFrom (f.fn.toNat % 4) i (x.rd i f.b 1 % 2 ^ 32)
    let ok := 0 ≤ j && j ≤ 31 && (groupOf x f.c i).contains j.toNat
    { writes := [(f.d.toNat, words t, if ok then val j.toNat else if f.fn.getLsbD 2 then 0 else val i)],
      preds := [(f.fn.toNat / 8, ok)], exc := 0, draws := 0 })

/-- `SLANE` (R479). -/
def execSlane (f : FmtR) (s : State) : Host.Outcome State Fault Refusal := issue (.slane f) f.h (semSlane f) s

/-- `VPOLL` (R481): the value and the predicate of a lane. -/
def vpollOf (op : Nat) (vals : List (Nat × Nat)) : Nat × Bool :=
  let yes := vals.filter (fun p => p.2 != 0)
  let truth (b : Bool) : Nat × Bool := (if b then 2 ^ 64 - 1 else 0, b)
  match op with
  | 0 => truth (yes.length == vals.length)
  | 1 => truth (!yes.isEmpty)
  | 2 => ((maskOf (yes.map (·.1))).toNat, !yes.isEmpty)
  | 3 => truth (vals.all (fun p => some p.2 == vals.head?.map (·.2)))
  | _ => (yes.length, !yes.isEmpty)

/-- `VPOLL` (R481). -/
def semVpoll (f : FmtR) (x : Iss) (s : State) : Res :=
  let t := tyS f.ty
  arith x s (fun l =>
    let r := vpollOf (f.fn.toNat % 8) ((groupOf x f.c l).map (fun k => (k, x.rd k f.a (words t) % 2 ^ tyWidth t)))
    { writes := [(f.d.toNat, 1, r.1)], preds := [(f.fn.toNat / 8, r.2)], exc := 0, draws := 0 })

/-- `VPOLL` (R481). -/
def execVpoll (f : FmtR) (s : State) : Host.Outcome State Fault Refusal := issue (.vpoll f) f.h (semVpoll f) s

end Sys2Proof.Machine
end

