-- ==== Sys2Proof/Machine/Sidings.lean ====
section
/-!
DEFINITION. Expert sidings (16 R321 to R330; 22 R500 to R502): `XENQ` and its enqueue event, firing, `XDEQ`, `XSTAT`, and the
combination of result rows.
-/
namespace Sys2Proof.Machine

/-- A siding's records, oldest first. -/
def ExpertSet.siding (e : ExpertSet) (k : Nat) : List Token := cellGet [] e.sidings k
def ExpertSet.setSiding (e : ExpertSet) (k : Nat) (l : List Token) : ExpertSet := { e with sidings := cellSet [] e.sidings k l }

/-- Fields of a token record (R322). -/
def tokPos (w : Nat) : Nat := nfield w 79 64
def tokSeq (w : Nat) : Nat := nfield w 63 32
def tokSlot (w : Nat) : Nat := nfield w 82 80
def tokWgt (w : Nat) : Nat := nfield w 127 96

/-- Whether R323 rejects a record. -/
def ExpertSet.tokenBad (e : ExpertSet) (w : Nat) : Bool :=
  nfield w 95 83 != 0 || tokSlot w ≥ e.kslots || tokPos w ≥ e.npos || tokSeq w ≥ e.nseq

/-- Free store entries of a siding; the places of the spill area that are taken, and the lowest that is free (R324; log 88). -/
def ExpertSet.room (e : ExpertSet) (k : Nat) : Nat :=
  256 - ((e.siding k).filter (fun t => t.place.isNone)).length -
    ((e.fired.filter (fun f => f.expert == k)).flatMap (fun f => f.spots.filter (·.isNone))).length
def ExpertSet.taken (e : ExpertSet) : List Nat :=
  e.sidings.flatMap (fun p => p.2.filterMap (·.place)) ++ e.fired.flatMap (fun f => f.spots.filterMap id)
def ExpertSet.freePlace (e : ExpertSet) : Option Nat :=
  (List.range (min (e.spsize * 4096) (e.taken.length + 1))).find? (fun p => !e.taken.contains p)

/-- Enqueue the records of an event in lane order (R323, R324): the set, or the expert of the first that does not fit. -/
def ExpertSet.enqueue (e : ExpertSet) (stamp : Nat) : List (Nat × Nat) → Except Nat ExpertSet
  | [] => .ok e
  | (k, w) :: l =>
    let put (p : Option Nat) : ExpertSet := e.setSiding k (e.siding k ++ [{ stamp := stamp, word := w, place := p }])
    if e.room k > 0 then (put none).enqueue stamp l
    else match e.freePlace with
      | some p => (put (some p)).enqueue stamp l
      | none => .error k

/-- The records of an event that spill stand in the spill area, 16 bytes each (R324). -/
def State.spillTokens (s : State) (e : ExpertSet) (stamp : Nat) : State :=
  (e.sidings.flatMap (·.2)).foldl (fun s t => match t.place with
    | some p => if t.stamp = stamp then s.storeBytes (e.spill + 16 * p) (toBytes 16 t.word) else s
    | none => s) s

/-- The first byte of the records that an event spills at which one covers part of a retired block (R224). -/
def State.spillBad (s : State) (e : ExpertSet) (stamp : Nat) : Option Nat :=
  (e.sidings.flatMap (·.2)).findSome? (fun t => match t.place with
    | some p => if t.stamp = stamp then s.partialRetired (e.spill + 16 * p) 16 else none
    | none => none)

/-- A record of a batch where the store holds it: in an entry, or in the spill area, from which it is read; the first byte that cannot be
(R224, R324). -/
def State.batchRecord (s : State) (e : ExpertSet) (spot : Option Nat) (w : Nat) : Except Nat Nat :=
  match spot with
  | none => .ok w
  | some p => match s.badByte (e.spill + 16 * p) 16 with
    | some pa => .error pa
    | none => .ok (ofBytes (s.bytesAt (e.spill + 16 * p) 16))

/-- The records of a firing's batch, each as the store holds it (R324, R326). -/
def State.batchRecords (s : State) (asid number : Nat) (batch : List Nat) : List (Except Nat Nat) :=
  match (s.ctx? asid).bind (·.experts) with
  | none => batch.map .ok
  | some e => match e.fired.find? (fun f => f.number == number) with
    | none => batch.map .ok
    | some f => (List.range batch.length).map (fun i => s.batchRecord e (f.spots.getD i none) (batch.getD i 0))

/-- Whether a siding is eligible (R325): full, aged, or flushed in this evaluation. -/
def ExpertSet.eligible (e : ExpertSet) (now : Nat) (flushed : Nat → Bool) (k : Nat) : Bool :=
  match e.siding k with
  | [] => false
  | h :: t => (h :: t).length ≥ e.t || now - h.stamp ≥ e.a || flushed k

/-- The eligible siding that fires next (R325): the smallest head stamp, then the lowest expert. -/
def ExpertSet.nextFire (e : ExpertSet) (now : Nat) (flushed : Nat → Bool) : Option Nat :=
  let stamp (k : Nat) : Nat := match e.siding k with | h :: _ => h.stamp | [] => 0
  ((e.sidings.map (·.1)).filter (e.eligible now flushed)).foldl (fun (m : Option Nat) k => match m with
    | none => some k
    | some j => if stamp k < stamp j then some k else some j) none

/-- Firings of one set until no siding of it is eligible (R325, R326). -/
def State.fireSet (s : State) (asid : Nat) (flushed : Nat → Bool) : Nat → State
  | 0 => s
  | fuel + 1 =>
    match s.ctx? asid with
    | none => s
    | some c => match c.experts with
      | none => s
      | some e => match e.nextFire s.sidingEvents flushed with
        | none => s
        | some k =>
          let l := e.siding k
          let batch := l.take e.t
          let n := e.firings + 1
          let f : Firing := { number := n, expert := k, spots := batch.map (·.place) }
          let e := { e.setSiding k (l.drop e.t) with firings := n, fired := e.fired ++ [f] }
          let r := e.recs.getD k (parseRec 0)
          let s := s.updCtx asid (fun c => { c with experts := some e })
          (((s.newGrid asid r (.firing k n (batch.map (·.word))) 1 r.prio (cellGet 0 c.qlevel 0)).2).pushDue .teamPlacement).fireSet
            asid flushed fuel

/-- Records of a set that have not fired. -/
def ExpertSet.records (e : ExpertSet) : Nat := (e.sidings.map (fun p => p.2.length)).sum

/-- The evaluation of every set (R325), sets in ascending ASID (log 8). -/
def State.evaluate (s : State) (asid : Nat) (flushed : Nat → Bool) : State :=
  s.ctxs.foldl (fun s c => match c.experts with
    | some e => if c.killed then s else s.fireSet c.asid (fun k => c.asid == asid && flushed k) (e.records + 1)
    | none => s) s

/-- The record a lane offers (R500). -/
def tokenOf (x : Iss) (f : FmtR) (l : Nat) : Nat :=
  (x.w.vreg l f.b.toNat).toNat + (x.w.vreg l (f.b.toNat + 1)).toNat * 2 ^ 32 + (x.w.vreg l (f.b.toNat + 2)).toNat * 2 ^ 64 +
    (x.w.vreg l (f.b.toNat + 3)).toNat * 2 ^ 96

/-- Take an event into the store (R323, R324): one event, whole or not at all. A record that would spill into part of a retired block raises
`MACHINE_CHECK` (R224); DESIGN CHOICE (log 88): the event is then not taken, `TMASK` names every active lane, and `TADDR` is the byte's PA. -/
def enqueueNow (x : Iss) (recs : List (Nat × Nat)) (s : State) : Res :=
  match s.ctx? (asidOf x.wid) with
  | none => .go s []
  | some c => match c.experts with
    | none => .go s []
    | some e => match e.enqueue (s.sidingEvents + 1) recs with
      | .error k => .trap cSidingSpill x.actMask k
      | .ok e => match s.spillBad e (s.sidingEvents + 1) with
      | some pa => .check [pa] x.actMask pa []
      | none =>
        let s := ({ s with sidingEvents := s.sidingEvents + 1 } : State).updCtx c.asid (fun c => { c with experts := some e })
        let s := s.spillTokens e s.sidingEvents
        .go (s.evaluate c.asid (fun _ => false)) []

/-- `XENQ` (R323, R500): the checks, then the offer to the store, which `ENQUEUE_EVENT` accepts. A redundant team's one offer
is accepted when its copies have met (R301). -/
def semXenq (f : FmtR) (x : Iss) (s : State) : Res :=
  match s.ctx? (asidOf x.wid) with
  | none => .go s []
  | some c => match c.experts with
    | none => .trap cIllegalOperand x.actMask f.a.toNat
    | some e =>
      let recs := x.lanes.map (fun l => (x.rd l f.a 1 % 2 ^ 32, tokenOf x f l))
      if recs.any (fun r => r.1 ≥ e.nexp) then .trap cIllegalOperand x.actMask f.a.toNat
      else if recs.any (fun r => e.tokenBad r.2) then .trap cIllegalOperand x.actMask f.b.toNat
      else if (s.team? x.wid.team).any (·.red) then
        together (.xenq f) (recs.flatMap (fun r => [r.1, r.2])) (fun y s => enqueueNow y recs s) x s
      else match x.w.hold with
        | none => holdAt x (.xenq f) x.w.core s
        | some h => enqueueNow x recs (match h.work with | some id => s.dropWork id | none => s)

/-- `XENQ` (R500). -/
def execXenq (f : FmtR) (s : State) : Host.Outcome State Fault Refusal := issue (.xenq f) f.h (semXenq f) s

/-- `ENQUEUE_EVENT` (R323): the store accepts a waiting offer, its checks made again. -/
def acceptEnqueue (id : Nat) (s : State) : State :=
  match s.waiting.find? (fun r => r.id == id && s.waitsAtIssue r) with
  | none => s
  | some r => match r.instr with
    | .xenq f => s.reissue r f.h (semXenq f)
    | _ => s

/-- `ENQUEUE_EVENT` (R323). -/
def execEnqueueEvent (id : Nat) (s : State) : Host.Outcome State Fault Refusal := commit s (acceptEnqueue id s)

/-- `XDEQ` (R326, R501): the batch to scratch, its size to the destination. A record that cannot be read from the spill area raises
`MACHINE_CHECK` (R224), with its PA in `TADDR` (log 88). -/
def semXdeq (f : FmtR) (x : Iss) (s : State) : Res :=
  outsideHandler x (fun _ =>
    match s.grid? x.wid.team.grid, s.team? x.wid.team with
    | some g, some t =>
      let a := x.rd x.first f.a 2
      match g.origin with
      | .firing _ number _ =>
        if a % 16 != 0 then .trap cAlign x.actMask a
        else if a + 16 * t.batch.length > s.scratchSize x.wid then .trap cProtection x.actMask (max a (s.scratchSize x.wid))
        else together (.xdeq f) [a] (fun y s =>
          let recs := s.batchRecords g.id.asid number t.batch
          match recs.findSome? (fun r => match r with | .error pa => some pa | .ok _ => none) with
          | some pa => .check [pa] y.actMask pa []
          | none =>
          let bytes := recs.flatMap (fun r => match r with | .ok w => toBytes 16 w | .error _ => [])
          let put (s : State) (t : TeamId) : State := s.updTeam t (fun t => t.setScratch a bytes)
          let s := put s y.wid.team
          let s := if t.red then put s (TeamId.twin y.wid.team) else s
          .go (s.updWave y.wid (fun w => w.writeReg y.first f.d.toNat 2 t.batch.length)) []) x s
      | _ => .trap cIllegalOperand x.actMask 0
    | _, _ => .go s [])

/-- `XDEQ` (R501). -/
def execXdeq (f : FmtR) (s : State) : Host.Outcome State Fault Refusal := issue (.xdeq f) f.h (semXdeq f) s

/-- The status word of a siding (R328). -/
def ExpertSet.status (e : ExpertSet) (now k : Nat) : Nat :=
  match e.siding k with
  | [] => 0
  | h :: t => (h :: t).length + min (now - h.stamp) (2 ^ 32 - 1) * 2 ^ 32

/-- The index check of `XSTAT` (R328, R502), then its function on the set. -/
def withSidings (i : Instr) (a : RegCode) (all : Bool) (x : Iss) (s : State) (go : Ctx → ExpertSet → Nat → Iss → State → Res) : Res :=
  match s.ctx? (asidOf x.wid) with
  | none => .go s []
  | some c => match c.experts with
    | none => .trap cIllegalOperand x.actMask a.toNat
    | some e =>
      let k := x.rd x.first a 2 % 2 ^ 32
      if k < e.nexp || (all && k == 0x7FF) then together i [k] (go c e k) x s
      else .trap cIllegalOperand x.actMask a.toNat

/-- Whether an index of `XSTAT` names a siding. -/
def namesSiding (k j : Nat) (n : Nat) : Bool := j == k || (k == 0x7FF && k ≥ n)

/-- `XSTAT.QUERY` (R328, R502). -/
def execXstatQuery (f : FmtR) (s : State) : Host.Outcome State Fault Refusal :=
  issue (.xstatQuery f) f.h (fun x s => withSidings (.xstatQuery f) f.a false x s (fun _ e k y s =>
    .go (s.updWave y.wid (fun w => w.writeReg y.first f.d.toNat 2 (e.status s.sidingEvents k))) [])) s

/-- `XSTAT.FLUSH` (R328, R502). -/
def execXstatFlush (f : FmtR) (s : State) : Host.Outcome State Fault Refusal :=
  issue (.xstatFlush f) f.h (fun x s => withSidings (.xstatFlush f) f.a true x s (fun c e k _ s =>
    .go (s.evaluate c.asid (fun j => namesSiding k j e.nexp)) [])) s

/-- `XSTAT.RESET` (R328, R502). -/
def execXstatReset (f : FmtR) (s : State) : Host.Outcome State Fault Refusal :=
  issue (.xstatReset f) f.h (fun x s => withSidings (.xstatReset f) f.a true x s (fun c e k _ s =>
    let e := { e with sidings := e.sidings.filter (fun p => !namesSiding k p.1 e.nexp) }
    .go (s.updCtx c.asid (fun c => { c with experts := some e })) [])) s

/-- The place of a slot row, or of the output row at slot `KSLOTS` (R329). -/
def ExpertSet.rowVa (e : ExpertSet) (entry k : Nat) : Nat := e.cbuf + (entry * (e.kslots + 1) + k) * e.h * 4

/-- The output of a combination (R330): F32 codes. -/
def combineRow (ws : List Nat) (rows : List (List Byte)) (h : Nat) : List Nat :=
  (List.range h).map (fun j =>
    let r (k : Nat) : Val := decVal 10 (ofBytes (((rows.getD k []).drop (4 * j)).take 4))
    let w (k : Nat) : Val := decVal 10 (ws.getD k 0)
    (List.range (ws.length - 1)).foldl (fun acc i => (fFma 10 .rne (w (i + 1)) (r (i + 1)) (decVal 10 acc)).1) (fMul 10 .rne (w 0) (r 0)).1)

/-- Change a context's expert set. -/
def State.updExperts (s : State) (asid : Nat) (f : ExpertSet → ExpertSet) : State :=
  s.updCtx asid (fun c => { c with experts := c.experts.map f })

/-- The names under which a `CCOMP` increment is held. -/
def compWork (asid entry : Nat) : Nat × Nat := (32768 + asid, entry)

/-- One `CCOMP` increment of a combination (R330, R238): made, held, or told. -/
def State.compEntry (s : State) (asid : Nat) (e : ExpertSet) (p : Nat × Nat) : State :=
  let gone (s : State) : State := s.updExperts asid (fun e => { e with comps := e.comps.erase p })
  match s.behalf asid (.node 0 0) (compWork asid p.1) none e.ccomp true (toBytes 8 1) with
  | .made s => gone s
  | .heldOn s _ => s
  | .failed s cause va => (gone s).writeStatus asid (StatusRec.plain cause va p.2) 1 0

/-- One entry's combination (R330, R238, R513): its output is written, its marks are cleared, and `CCOMP` is incremented; or it is held; or
its marks are cleared with a status record. -/
def State.combineEntry (s : State) (c : Ctx) (e : ExpertSet) (m : Mark) : State :=
  let ws := (List.range e.kslots).map (fun k => match m.slots.find? (fun p => p.1 == k) with | some p => p.2 | none => 0)
  let work := combineWork c.asid m.entry
  let clear (s : State) : State := (s.updExperts c.asid (fun e => { e with marks := e.marks.filter (fun n => n.entry != m.entry) })).dropBytes work
  let bad (s : State) (cause va : Nat) : State := (clear s).writeStatus c.asid (StatusRec.plain cause va m.lseq) 1 0
  match s.stallCause work with
  | some (cause, va) => bad (s.unstall work) cause va
  | none =>
  let p := s.placesOf work partIndex
  let as := (List.range e.kslots).map (fun k => ((e.rowVa m.entry k : Int), 4 * e.h))
  match s.engVia c none none .read work partIndex as with
  | .wait on => ((s.unstall work).holdVia c work partIndex as).engAsk c.asid (.node 0 0) false (some work) on
  | .fault cause va => bad (s.logCause c.asid cause va) cause va
  | .ok =>
    let rows := as.map (fun a => toBytes a.2 (p.read (s.engRead c (.node 0 0)) a.1 a.2))
    let out := (combineRow ws rows e.h).flatMap (toBytes 4)
    match s.behalf c.asid (.node 0 0) work none (e.rowVa m.entry e.kslots) false out with
    | .heldOn s _ => s
    | .failed s cause va => bad s cause va
    | .made s =>
      let p := (m.entry, m.lseq)
      ((clear s).updExperts c.asid (fun e => { e with comps := e.comps ++ [p] })).compEntry c.asid e p

/-- Every combination of a context that is ready, and every increment that is held (R330); none of a killed context (R346). -/
def State.combineAll (s : State) (asid : Nat) : State :=
  match s.ctx? asid with
  | none => s
  | some c => match c.experts with
    | none => s
    | some e =>
      if c.killed then s else
      let s := e.comps.foldl (fun s p => s.compEntry asid e p) s
      (e.marks.filter (fun m => m.slots.length ≥ e.kslots)).foldl (fun s m =>
        match s.ctx? asid with | some c => s.combineEntry c e m | none => s) s

/-- A record of a retired firing marks its slot (R330); a slot marked already is told through the status block. -/
def State.markSlot (s : State) (asid lseq w : Nat) : State :=
  match (s.ctx? asid).bind (fun c => c.experts) with
  | none => s
  | some e =>
    let i := tokSeq w * e.npos + tokPos w
    let k := tokSlot w
    match e.marks.find? (fun m => m.entry == i) with
    | some m =>
      if m.slots.any (fun p => p.1 == k) then s.writeStatus asid (StatusRec.plain cIllegalOperand (e.rowVa i k) lseq) 1 0
      else
        let e := { e with marks := e.marks.map (fun n =>
          if n.entry = i then { n with slots := n.slots ++ [(k, tokWgt w)], lseq := lseq } else n) }
        s.updCtx asid (fun c => { c with experts := some e })
    | none =>
      let e := { e with marks := e.marks ++ [{ entry := i, slots := [(k, tokWgt w)], lseq := lseq }] }
      s.updCtx asid (fun c => { c with experts := some e })

/-- The retirement of a firing grid (R324, R330): its places are free, and unless it ended by a fault its records mark
their slots. DESIGN CHOICE (log 88): a record that cannot be read from the spill area marks none and is told through the status block. -/
def State.endFiring (s : State) (g : Grid) (number : Nat) (batch : List Nat) : State :=
  let recs := s.batchRecords g.id.asid number batch
  let s := s.updCtx g.id.asid (fun c => { c with experts := c.experts.map (fun e =>
    { e with fired := e.fired.filter (fun f => f.number != number) }) })
  if g.faulted then s
  else recs.foldl (fun s r => match r with
    | .ok w => (s.markSlot g.id.asid g.id.lseq w).combineAll g.id.asid
    | .error pa => (s.logBad pa).writeStatus g.id.asid (StatusRec.plain cMachineCheck pa g.id.lseq) 1 0) s

end Sys2Proof.Machine
end

