-- ==== Sys2Proof/Machine/Grids.lean ====
section
/-!
DEFINITION. The life of grids: the placement of waiting teams (13 R279 to R281, R288), the retirement of teams and grids
(02 R30), the merge with its write sets, conflicts and deferred updates (14 R296 to R300; 12 R267), the end of generator
fills and frames for the fills that wait (11 R241, R244).
-/
namespace Sys2Proof.Machine

/-- `TEAM_PLACEMENT` (R279, R280, R288): the first waiting team in the order of R280 is placed, or nothing is. -/
def placeNext (s : State) : State :=
  let done (r : Option State) (also : State → State) : State :=
    match r with | some s => (also s).pushDue .teamPlacement | none => s
  match pickSeat s.seats with
  | none => s
  | some (.next g n) => done (s.placeGrid g n) (fun s => s)
  | some (.back g t) => done (s.returnTeams (s.backWith g t)) (fun s' => (s.backWith g t).foldl (fun s t =>
    ((s.pushDue (.engineCauseDelivery t.id)).wake t.id).pushDue (.teamRetirement t.id)) s')

/-- `TEAM_PLACEMENT` (R280). -/
def execTeamPlacement (s : State) : Host.Outcome State Fault Refusal := commit s (placeNext s)

/-- Whether a team has nothing left to do (R30). An access of its that a converting entry still holds keeps it. -/
def State.teamDone (s : State) (t : Team) : Bool :=
  (s.wavesOf t.id).all (fun w => w.live.isEmpty) && (!t.hasLead || t.leadEnded) && t.owed == 0 &&
    !s.waiting.any (fun x => x.wave.team == t.id && x.nums.length ≥ 4)

/-- What a team brings to a merge. -/
def Team.share (t : Team) : Share :=
  { team := t.id.team, copy := t.id.copy, bytes := t.wset, reps := t.wrep, updates := t.updates }

/-- Where the save area of a wave's team stands is kept with the other copy's waves when a copy retires (R299, R339). -/
def State.keepSaver (s : State) (tid : TeamId) : State :=
  { s with waves := s.waves.map (fun w => if w.id.team != TeamId.twin tid then w else
      match s.wave? (twinOf w.id) with
      | some b => { w with saver := some (b.core, b.bay, b.place) }
      | none => w) }

/-- `TEAM_RETIREMENT` (R30, R333): its pending causes go to the status block, unless its handler ended it; its resources
are free, and its write set and updates stay for the merge. -/
def retireTeam (tid : TeamId) (s : State) : State :=
  match s.team? tid with
  | none => s
  | some t =>
    if t.away || s.idleGrid tid.grid || !s.teamDone t then s else
    let s := if t.red then s.keepSaver tid else s
    let s := if t.ended then s else (List.range t.pending.length).foldl (fun s _ => s.deliverPending tid) s
    let s := s.updGrid tid.grid (fun g => { g with
      retired := g.retired ++ [(tid.team, tid.copy)]
      faulted := g.faulted || t.ended
      left := if g.level == 0 then g.left else g.left ++ [t.share] })
    let s := s.dropReqs (fun x => x.wave.team == tid)
    let s : State := { s with
      teams := s.teams.filter (fun x => x.id != tid)
      waves := s.waves.filter (fun x => x.id.team != tid)
      waiting := s.waiting.filter (fun x => x.wave.team != tid) }
    ((s.mergeDue tid.grid).pushDue (.gridRetirement tid.grid)).pushDue .teamPlacement

/-- `TEAM_RETIREMENT` (R30). -/
def execTeamRetirement (t : TeamId) (s : State) : Host.Outcome State Fault Refusal := commit s (retireTeam t s)

/-- The lowest VA at which the shares of two copies differ (R300): in a byte, or in an update's key, VA, operation or value, not in the core
that sent it. -/
def Share.mismatch (a b : Share) : Option Nat :=
  let plain (x : Share) : Share := { x with updates := x.updates.map (fun u => { u with src := 0 }) }
  let a := plain a
  let b := plain b
  let vas := ((a.bytes.filter (fun p => !b.bytes.contains p)) ++ (b.bytes.filter (fun p => !a.bytes.contains p))).map (·.1) ++
    ((a.updates.filter (fun u => !b.updates.contains u)) ++ (b.updates.filter (fun u => !a.updates.contains u))).map (·.va)
  match vas with
  | [] => none
  | v :: vs => some (vs.foldl min v)

/-- Raise a kind E or T cause on every copy of a team; of a retired team it goes to the status block (R298). -/
def State.tellTeam (s : State) (g : GridId) (team cause va : Nat) : State :=
  match s.teams.filter (fun t => t.id.grid == g && t.id.team == team) with
  | [] => s.teamCause { grid := g, team := team, copy := 0 } cause va
  | ts => ts.foldl (fun s t => s.postCause t.id none cause va 0) s

/-- The comparison of redundant copies (R300): one copy's share is left where they agree, neither where they differ.
A copy that has retired in an earlier episode brings nothing. -/
def State.compareCopies (s : State) (g : GridId) (all : List Share) : State × List Share :=
  let red (k : Nat) : Bool := (s.grid? g).any (fun x => flagged x.lrec x.level k)
  let none' (k copy : Nat) : Share := { team := k, copy := copy, bytes := [], reps := [], updates := [] }
  let of (k copy : Nat) : Share := (all.find? (fun a => a.copy == copy && a.team == k)).getD (none' k copy)
  (((all.map (·.team)).filter red).eraseDups).foldl (fun (r : State × List Share) k =>
    match (of k 0).mismatch (of k 1) with
    | none => (r.1, r.2.filter (fun x => !(x.team == k && x.copy == 1)))
    | some va =>
      let tell (s : State) (copy : Nat) : State := s.teamCause { grid := g, team := k, copy := copy } cRedundancy va
      (tell (tell r.1 0) 1, r.2.filter (fun x => x.team != k))) (s, all)

/-- A byte that a merge applies (R297): its team, VA, PA and value, and whether `MCST` wrote it. -/
structure MergeByte where
  team : Nat
  va : Nat
  pa : Nat
  byte : Byte
  rep : Bool
  deriving DecidableEq, Repr

/-- Shares in ascending `TEAM` order. -/
def shareInsert (a : Share) : List Share → List Share
  | [] => [a]
  | b :: l => if a.team ≤ b.team then a :: b :: l else b :: shareInsert a l
def sortShares (l : List Share) : List Share := l.foldr shareInsert []

/-- The VAs that two or more teams wrote. -/
def conflicts (all : List Share) : List Nat :=
  ((all.flatMap (fun a => a.bytes.map (·.1))).filter (fun va =>
    (all.filter (fun a => a.bytes.any (fun p => p.1 == va))).length ≥ 2)).eraseDups

/-- Step 1 of R297 with R298: every byte of one team alone is applied, and marks its procedural block written (R240); a retired block only when covered whole. Each 64-byte block with
bytes that cannot be translated raises the cause on the lowest team that wrote it (log 85); `stop` is that which ended a fill. -/
def State.applySets (s : State) (c : Ctx) (g : GridId) (stop : Nat) (all : List Share) : State :=
  let bad := conflicts all
  let own := s.ownBlock g
  let each := (sortShares all).flatMap (fun a => (a.bytes.filter (fun p => !bad.contains p.1)).map (fun p => (a, p)))
  let cells := each.filterMap (fun x => match s.xlate c own x.2.1 1 .write with
    | .ok pa => some { team := x.1.team, va := x.2.1, pa := pa, byte := x.2.2, rep := x.1.reps.contains x.2.1 : MergeByte }
    | _ => none)
  let failed := each.filterMap (fun x => match s.xlate c own x.2.1 1 .write with
    | .ok _ => none
    | .fault _ cause _ => some (x.1.team, x.2.1, cause)
    | _ => some (x.1.team, x.2.1, stop))
  let inBlock (b : Nat) : List MergeByte := cells.filter (fun x => x.pa / 64 == b)
  let touched := ((cells.map (fun x => x.pa / 64)).filter s.retired.contains).eraseDups
  let covered (b : Nat) : Bool := (List.range 64).all (fun i => (inBlock b).any (fun x => x.pa == 64 * b + i))
  let lost := touched.filter (fun b => !covered b)
  let made := cells.filter (fun x => !lost.contains (x.pa / 64))
  let s := made.foldl (fun s x => if touched.contains (x.pa / 64) then s else s.storeBytes x.pa [x.byte]) s
  let s := (touched.filter covered).foldl (fun s b => s.storeBytes (64 * b) ((List.range 64).map (fun i =>
    match (inBlock b).find? (fun x => x.pa == 64 * b + i) with | some x => x.byte | none => 0))) s
  let s := s.updCtx c.asid (fun c => made.foldl (fun c x => c.markWritten own x.va 1) c)
  let s := (made.filter (·.rep)).foldl (fun s x =>
    let s' := s.multicast c.asid { lane := 0, va := x.va, n := 1 } [x.byte]
    match s.unreached c.asid x.va 1 with | some r => s'.tellTeam g x.team cMachineCheck r | none => s') s
  let s := lost.foldl (fun s b => match inBlock b with
    | [] => s
    | x :: l => (s.logBad (64 * b)).tellTeam g (l.foldl (fun m y => min m y.team) x.team) cMachineCheck
        (l.foldl (fun m y => min m y.va) x.va)) s
  let s := ((failed.map (fun x => x.2.1 / 64)).eraseDups).foldl (fun s b => match failed.filter (fun x => x.2.1 / 64 == b) with
    | [] => s
    | x :: l => (s.logCause c.asid x.2.2 x.2.1).tellTeam g (l.foldl (fun m y => min m y.1) x.1) x.2.2 (l.foldl (fun m y => min m y.2.1) x.2.1)) s
  (sortShares all).foldl (fun s a => match (a.bytes.map (·.1)).filter bad.contains with
    | [] => s
    | v :: vs => s.tellTeam g a.team cMergeConflict (vs.foldl min v)) s

/-- Step 2 of R297 with R267: the updates in key order; a location that cannot be read, or is not translated (log 85), keeps its
contents. -/
def State.drain (s : State) (c : Ctx) (g : GridId) (stop : Nat) (p : Places) (us : List Update) : State :=
  (us.foldl (fun (r : State × List Nat) u =>
    if r.2.contains u.va then r else
    match r.1.applyUpdate c (s.ownBlock g) stop p u with
    | .ok s => (s, r.2)
    | .error (cause, va) => ((r.1.logCause c.asid cause va).tellTeam g (u.t / 1025) cause va, u.va :: r.2)) (s, [])).1

/-- The shares of a grid's retired teams, and of those that live. -/
def State.shares (s : State) (g : Grid) : List Share := g.left ++ (s.teams.filter (fun t => t.id.grid == g.id)).map Team.share

/-- A share whose bytes stand where a conversion has moved them (R320); those that have left the package fall away. -/
def Share.moved (p : Places) (a : Share) : Share :=
  if p.isEmpty then a else { a with
    bytes := a.bytes.filterMap (fun b => (p.of b.1).map (fun va => (va, b.2)))
    reps := a.reps.filterMap p.of }

/-- The teams whose bytes have left the package are told (R320). -/
def State.tellLost (s : State) (g : GridId) (p : Places) (all : List Share) : State :=
  all.foldl (fun s a => match a.bytes.find? (fun b => (p.of b.1).isNone) with
    | some b => s.tellTeam g a.team cPlacement b.1
    | none => s) s

/-- What holds a merge before it writes (R257, R258, R320; R236 and R240 for a block evicted since): lines that other engines own, or an
entry that converts; or the misses it asks for. `none` lets it go on, with the cause that ended a fill it waited on. -/
def State.mergeHeld (s : State) (c : Ctx) (g : Grid) : Option State :=
  let work := drainWork g.id
  let all := s.shares g
  let as := all.flatMap (fun a => (runsOf a.bytes).map (fun r => (r.1, r.2.length))) ++
    (all.flatMap (·.updates)).map (fun u => (u.va, u.width / 8))
  match s.barred c (s.ownBlock g.id) work partDrain as with
  | (true, _) => some (s.holdBytes c work partDrain as)
  | (false, o :: on) => if (s.stallCause work).isSome then none else some ((s.unstall work).engAsk g.id.asid (.wave { team := { grid := g.id, team := 0, copy := 0 }, wave := 0 }) true (some work) (o :: on))
  | (false, []) => none

/-- The merge and drain of a grid (R297, R300): at `MERGE` and at retirement. The flag says whether it is done, or held. -/
def State.mergeGrid (s : State) (gid : GridId) : State × Bool :=
  let s := (s.updates.filter (fun u => u.1 == gid)).foldl (fun s u => arriveUpdate u.2.2.1 s) s
  match s.grid? gid, s.ctx? gid.asid with
  | some g, some c =>
    match s.mergeHeld c g with
    | some s => (s, false)
    | none =>
      let stop := match s.stallCause (drainWork gid) with | some p => p.1 | none => cGeneratorFault
      let p := s.placesOf (drainWork gid) partDrain
      let (s, all) := (s.unstall (drainWork gid)).compareCopies gid (s.shares g)
      let s := s.tellLost gid p all
      let all := all.map (fun a => a.moved p)
      let s := if all.all (fun a => a.bytes.isEmpty) then s else s.applySets c gid stop all
      let s := (s.drain c gid stop p (sortUpdates (all.flatMap (·.updates)))).dropBytes (drainWork gid)
      let s := s.freeAreas gid
      let clear (t : Team) : Team := if t.id.grid = gid then { t with wset := [], wrep := [], updates := [] } else t
      let seen (w : Wave) : Wave := if w.id.team.grid = gid then w.updThreads w.lanes (fun _ t => { t with unseen := false }) else w
      (({ s with teams := s.teams.map clear, waves := s.waves.map seen } : State).updGrid gid (fun g => { g with left := [], heldLines := [], merges := g.merges + 1 }), true)
  | _, _ => (s, true)

/-- `MERGE_PERFORM` (R296, R297): with every team arrived, the merge, and every waiting thread goes on. -/
def performMerge (gid : GridId) (s : State) : State :=
  if s.idleGrid gid || !s.gridMerged gid then s else
  match s.mergeGrid gid with
  | (s, false) => s
  | (s, true) =>
    let go (w : Wave) : Wave :=
      if w.id.team.grid = gid then w.updThreads w.lanes (fun _ t => t.passWait w.tlevel (· == .merge)) else w
    { s with waves := s.waves.map go }

/-- `MERGE_PERFORM` (R297). -/
def execMergePerform (g : GridId) (s : State) : Host.Outcome State Fault Refusal := commit s (performMerge g s)

/-- A command of a queue has completed (R366). -/
def State.countDone (s : State) (asid queue : Nat) : State :=
  s.updCtx asid (fun c => { c with qdone := cellSet 0 c.qdone queue (cellGet 0 c.qdone queue + 1) })

/-- A running command of a queue completes (R271, R356). -/
def State.finishCmd (s : State) (asid queue status value : Nat) : State :=
  match (s.ctx? asid).bind (fun c => c.running.find? (fun p => p.1 == queue)) with
  | none => s
  | some p =>
    (((s.completeCmd p.2.h asid status value).updCtx asid (fun c => { c with
      running := c.running.filter (fun q => q.1 != queue) })).countDone asid queue).dropBytes (cmdWork asid queue)

/-- Whether a grid can retire (R30): every team has, and every child grid. -/
def State.gridDone (s : State) (g : Grid) : Bool :=
  g.unplaced.isNone && g.retired.length ≥ g.placed.length &&
    !s.grids.any (fun x => match x.origin with | .child p _ _ => p == g.id | _ => false)

/-- The grid is gone, and room with it. -/
def State.gridGone (s : State) (g : GridId) : State :=
  ({ s with grids := s.grids.filter (fun x => x.id != g) } : State).pushDue .teamPlacement

/-- The event that makes an access which an entry has released (R320). -/
def Waiting.conversion (r : Waiting) : List Instr := if r.freed then [.conversionEnd (asidOf r.wave) (r.nums.headD 0)] else []

/-- What a context's pages and blocks held is tried again (R236, R238, R513): status blocks, combinations, running commands,
engines, increments, graph work, retirements. -/
def State.retryHeld (s : State) (asid : Nat) : State :=
  let s := (s.retryStatus asid).combineAll asid
  match s.ctx? asid with
  | none => s
  | some c =>
    if c.killed then s else
    let slots := s.cores.flatMap (fun p => (p.2.graph.filter (fun q => q.2.asid == some asid && q.2.state ≥ 3)).map (fun q => (p.1, q.1)))
    let due := c.running.map (fun p => decodeCommand p.2.h p.2.body)
      ++ (s.xfers.filter (fun t => t.asid == asid)).map (fun t => Instr.transferCompletion t.id)
      ++ (s.colls.filter (fun o => o.asid == asid)).map (fun o => Instr.collectiveChunk o.id 0)
      ++ (c.demands.filter (fun m => m.started || m.ended)).map (fun m => Instr.conversionEnd asid m.idx)
      ++ (s.waiting.filter (fun r => asidOf r.wave == asid)).flatMap Waiting.conversion
      ++ (s.csigs.filter (fun g => asidOf g.wave == asid)).map (fun g => Instr.csigEffect g.id)
      ++ slots.map (fun p => Instr.graphWorkCompletion p.1 p.2)
      ++ (s.grids.filter (fun g => g.id.asid == asid && s.gridMerged g.id)).map (fun g => Instr.mergePerform g.id)
      ++ (s.grids.filter (fun g => g.id.asid == asid && s.gridDone g)).map (fun g => Instr.gridRetirement g.id)
    due.foldl State.pushDue s

/-- What the retirement of a grid releases (R30, R241, R271, R277, R330, R441). A held increment leaves the grid where it
is. DEDUCED (log 106): a block that ends FAILED gives its frame back. -/
def State.releaseGrid (s : State) (g : Grid) : State :=
  match g.origin with
  | .host queue _ => (s.gridGone g.id).finishCmd g.id.asid queue 0 0
  | .child parent w obj =>
    let up (s : State) : State := (s.gridGone g.id).pushDue (.gridRetirement parent)
    let view := if (s.team? w.team).isSome then s.viewOf w else none
    (match s.increment g.id.asid (.wave w) (gridWork g.id) view obj 1 with
    | .made s => up (s.mirror (.wave w) obj 8)
    | .heldOn s _ => s
    | .failed s cause va =>
      up (if (s.team? w.team).isSome then s.postCause w.team (some w.wave) cause va 0 else s.teamCause w.team cause va))
  | .graph core slot =>
    if g.faulted then
      let s := match g.endedBy with
        | some (cause, va, team, wave) =>
          s.writeStatus g.id.asid { StatusRec.plain cause va g.id.lseq with team := team, wave := wave } 1 0
        | none => s
      (s.gridGone g.id).setNode core slot NodeSlot.free
    else (s.gridGone g.id).pushDue (.graphWorkCompletion core slot)
  | .generator r k _ =>
    let full := g.gfin && !g.gfail
    let frame := match s.ctx? g.id.asid with | some c => (c.block r k).frame | none => none
    (((s.gridGone g.id).blockEnd g.id.asid r k (if full then 2 else 3) (if full then frame else none)
      (if full then .resolved else .failed cGeneratorFault)).pushDue (.fillFrameAvailable g.id.asid r)).retryHeld g.id.asid
  | .firing _ n batch => (s.gridGone g.id).endFiring g n batch

/-- `GRID_RETIREMENT` (R30). -/
def retireGrid (gid : GridId) (s : State) : State :=
  match s.grid? gid with
  | none => s
  | some g =>
    if s.idleGrid gid || !s.gridDone g then s else
    match s.mergeGrid gid with
    | (s, false) => s
    | (s, true) => match s.grid? gid with
      | some g => s.releaseGrid g
      | none => s

/-- `GRID_RETIREMENT` (R30). -/
def execGridRetirement (g : GridId) (s : State) : Host.Outcome State Fault Refusal := commit s (retireGrid g s)

/-- `FILL_FRAME_AVAILABLE` (R244): the fill that has waited longest takes a frame, or fails, or waits on. -/
def fillWaiting (asid r : Nat) (s : State) : State :=
  match (s.ctx? asid).bind (fun c => c.proc? r) with
  | none => s
  | some p =>
    match p.waiting with
    | [] => s
    | (k, prio) :: rest =>
      let s' := (s.updCtx asid (fun c => c.updProc r (fun p => { p with waiting := rest }))).takeFrame asid r k prio
      let still := match (s'.ctx? asid).bind (fun c => c.proc? r) with
        | some q => q.waiting.any (fun x => x.1 == k)
        | none => false
      if still then s else s'.pushDue (.fillFrameAvailable asid r)

/-- `FILL_FRAME_AVAILABLE` (R244). -/
def execFillFrameAvailable (asid range : Nat) (s : State) : Host.Outcome State Fault Refusal :=
  commit s (fillWaiting asid range s)

end Sys2Proof.Machine
end

