-- ==== Sys2Proof/Machine/System.lean ====
section
/-!
DEFINITION. System instructions: `BKPT` (19 R391), `GFIN` and `GFAIL` (20 R432), `MERGE` (21 R455), `RTT` (21 R473), `TRAP`
(22 R494), and the special registers with `SREG` and `SWR` (22 R482 to R485; 05 R122, R128; 06 R134; 10 R215, R217; 11
R228, R230; 13 R274; 14 R291, R293; 15 R305; 17 R335, R337 to R339).
-/
namespace Sys2Proof.Machine

/-- `BKPT` (R391). -/
def execBkpt (f : FmtR) (s : State) : Host.Outcome State Fault Refusal :=
  issue (.bkpt f) f.h (fun x _ => .trap cBreakpoint x.actMask 0) s

/-- `TRAP` (R494). -/
def execTrap (f : FmtI) (s : State) : Host.Outcome State Fault Refusal :=
  issue (.trap f) f.h (fun x _ => .trap cSoftware x.actMask f.imm.toNat) s

/-- A record for the generator grid of a wave (R432). DEDUCED (log 108): it counts though a handler ends the team later. -/
def generatorRecord (f : Grid → Grid) (x : Iss) (s : State) : Res :=
  match s.ownBlock x.wid.team.grid with
  | none => .trap cIllegalOperand x.actMask 0
  | some _ => .go (s.updGrid x.wid.team.grid f) []

/-- `GFIN` (R432). -/
def execGfin (f : FmtR) (s : State) : Host.Outcome State Fault Refusal :=
  issue (.gfin f) f.h (generatorRecord (fun g => { g with gfin := true })) s

/-- `GFAIL` (R432). -/
def execGfail (f : FmtR) (s : State) : Host.Outcome State Fault Refusal :=
  issue (.gfail f) f.h (generatorRecord (fun g => { g with gfail := true })) s

/-- `MERGE` (R296, R455). -/
def semMerge (x : Iss) (s : State) : Res :=
  outsideHandler x (fun _ =>
    if !(s.recOf x.wid).cor then .trap cIllegalOperand x.actMask 0 else
    .jump (((advance s x.wid (x.group.filter (fun l => !x.act.contains l)) x.pc).block x.wid x.act .merge).settle x.wid))

/-- `MERGE` (R455). -/
def execMerge (f : FmtR) (s : State) : Host.Outcome State Fault Refusal := issue (.merge f) f.h semMerge s

/-- `RTT` (R473): return from a handler by R343. Threads that come back parked with their miss over are due to re-execute; a wave whose
threads have all ended retires (R415). -/
def semRtt (x : Iss) (s : State) : Res :=
  if x.w.tlevel == 0 then .trap cIllegalOperand x.actMask 0 else
  let back := x.w.lanes.filter (fun l => match (if x.w.tlevel == 2 then (x.w.thread l).saved2 else (x.w.thread l).saved1) with
    | .parked _ _ (.failed _) => true
    | _ => false)
  let s := { s with due := s.due ++ back.map (fun l => Instr.parkedThreadReexecute x.wid l) }
  .jump ((s.returnTrap x.wid).afterEnd x.wid)

/-- `RTT` (R473). -/
def execRtt (f : FmtR) (s : State) : Host.Outcome State Fault Refusal := issue (.rtt f) f.h semRtt s

/-- The level that a special register of a bank names: the current one, or 1 outside a handler (R338). -/
def bankLevel (w : Wave) (num : Nat) : Nat := if num < 0x18 then max 1 w.tlevel else if num < 0x20 then 1 else 2

/-- The core, bay and place that give a wave's save area: those of the copy on the lower core (R299, R339). -/
def State.saverAt (s : State) (w : Wave) : Nat × Nat × Nat :=
  let mine := (w.core, w.bay, w.place)
  if !(s.team? w.id.team).any (·.red) then mine else
  match s.wave? (twinOf w.id) with
  | some b => if b.core < w.core then (b.core, b.bay, b.place) else mine
  | none => match w.saver with
    | some p => if p.1 < w.core then p else mine
    | none => mine

/-- The base of a level's save area (R339). -/
def tsave (c : Ctx) (p : Nat × Nat × Nat) (level : Nat) : Nat :=
  c.tsb + (((p.1 * 4 + p.2.1) * 49 + p.2.2) * 2 + (level - 1)) * 512

/-- The 64 bits of a special register as a lane reads it (R482, R483). -/
def State.special (s : State) (w : Wave) (l num : Nat) : Nat :=
  let t := w.thread l
  let bank := if bankLevel w num == 2 then w.bank2 else w.bank1
  let ctx (f : Ctx → Nat) : Nat := match s.ctx? (asidOf w.id) with | some c => f c | none => 0
  let group := if num < 0x18 then num - 0x10 else if num < 0x20 then num - 0x18 else num - 0x20
  if num == 0x000 then t.fen.toNat
  else if num == 0x001 then w.flags.toNat
  else if num == 0x002 then w.srkey.toNat
  else if num == 0x003 then t.srcnt.toNat
  else if num == 0x004 then w.wlrange.toNat
  else if num == 0x005 then w.dslack.toNat
  else if num == 0x006 then w.prioGrid * 256 + w.prioLevel
  else if num == 0x007 then
    s.levelOf w.id.team.grid + (match s.team? w.id.team with | some t => if t.red then 4 else 0 | none => 0)
  else if num == 0x008 then
    (match s.grid? w.id.team.grid with
    | some g => match g.rect with
      | some r => r % 8 + r / 8 * 8 + g.lrec.width * 64 + g.lrec.height * 1024
      | none => 0
    | none => 0)
  else if num == 0x009 then w.handler.toNat
  else if num == 0x00A then w.tlevel
  else if num == 0x00B then w.tskid.toNat
  else if num == 0x030 then ctx (fun c => (cellGet 0 c.missed w.core).toNat)
  else if num == 0x031 then ctx (fun c => c.heapBase.toNat)
  else if num == 0x032 then ctx (fun c => c.heapLimit.toNat)
  else if num == 0x033 then ctx (fun c => c.heapOff.toNat)
  else if num == 0x034 then ctx (fun c => c.ptroot.toNat)
  else if num == 0x035 then ctx (fun c => c.drank.toNat)
  else if group == 0 then bank.cause + (if bank.eng then 256 else 0)
  else if group == 1 then (if bankLevel w num == 2 then t.tret2 else t.tret1).toNat
  else if group == 2 then bank.addr.toNat
  else if group == 3 then bank.mask.toNat
  else ctx (fun c => tsave c (s.saverAt w) (bankLevel w num))

/-- The effect of `SREG` (R483). -/
def readSpecial (f : FmtI) (x : Iss) (s : State) : Res :=
  let n := if f.ty == 0x77 then 2 else 1
  .go (s.updWave x.wid (fun w => x.lanes.foldl (fun w l => w.writeReg l f.d.toNat n
    (if n == 2 then s.special x.w l f.imm.toNat else s.special x.w l f.imm.toNat % 2 ^ 32)) w)) []

/-- `SREG` (R483). A read of `MISSED` is made once for a redundant team (R301). DEDUCED (log 118): so is one of `TSKID`, which the copies'
own halts set apart and which R299 does not except from the equal values of their registers. -/
def semSreg (f : FmtI) (x : Iss) (s : State) : Res :=
  if f.imm.toNat == 0x030 || f.imm.toNat == 0x00B then together (.sreg f) [] (readSpecial f) x s else readSpecial f x s

/-- `SREG` (R482). -/
def execSreg (f : FmtI) (s : State) : Host.Outcome State Fault Refusal := issue (.sreg f) f.h (semSreg f) s

/-- Whether a value may be written to `WLRANGE` (R134): both fields finite and 0 < LMIN < LMAX < 100,000. -/
def wlrangeOk (v : Nat) : Bool :=
  match decVal 10 (v % 2 ^ 32), decVal 10 (v / 2 ^ 32 % 2 ^ 32) with
  | .fin a x, .fin b y => !a && !b && 0 < x && x < y && y < 100000
  | _, _ => false

/-- An `SWR` to a register of a wave or of the core and context (R484), `none` where its check refuses the value. -/
def State.writeSpecial (s : State) (wid : WaveId) (num v : Nat) : Option State :=
  match s.wave? wid with
  | none => none
  | some w =>
    let up (f : Wave → Wave) : Option State := some (s.updWave wid f)
    if num == 0x001 then up (fun w => { w with flags := BitVec.ofNat 6 v })
    else if num == 0x002 then up (fun w => { w with srkey := BitVec.ofNat 64 v })
    else if num == 0x004 then (if wlrangeOk v then up (fun w => { w with wlrange := BitVec.ofNat 64 v }) else none)
    else if num == 0x005 then up (fun w => { w with dslack := BitVec.ofNat 64 v })
    else if num == 0x006 then (if v % 256 ≤ w.prioGrid then up (fun w => { w with prioLevel := v % 256 }) else none)
    else if num == 0x009 then (if pcBad v then none else up (fun w => { w with handler := BitVec.ofNat 64 v }))
    else some (s.updCtx (asidOf wid) (fun c => { c with missed := cellSet 0 c.missed w.core (BitVec.ofNat 64 v) }))

/-- An `SWR` to a register of one thread. -/
def Thread.writeSpecial (t : Thread) (num level v : Nat) : Thread :=
  if num == 0x000 then { t with fen := BitVec.ofNat 6 v }
  else if num == 0x003 then { t with srcnt := BitVec.ofNat 64 v }
  else if level == 2 then { t with tret2 := BitVec.ofNat 64 v }
  else { t with tret1 := BitVec.ofNat 64 v }

/-- `SWR` (R484): an N32 write keeps bits [63:32]. A refused value raises `ILLEGAL_OPERAND` with the register code of `A`. -/
def semSwr (f : FmtI) (x : Iss) (s : State) : Res :=
  let num := f.imm.toNat
  let n := if f.ty == 0x77 then 2 else 1
  let value (l : Nat) : Nat :=
    let v := x.rd (if x.uni then x.first else l) f.a n
    if n == 2 then v else s.special x.w l num / 2 ^ 32 * 2 ^ 32 + v % 2 ^ 32
  if specialsThread.contains num then
    let level := bankLevel x.w num
    if num ≥ 0x010 && (x.w.tlevel == 0 || level > x.w.tlevel) then .trap cIllegalOperand x.actMask num
    else .go (s.updWave x.wid (fun w => w.updThreads x.act (fun l t => t.writeSpecial num level (value l)))) []
  else match s.writeSpecial x.wid num (value x.first) with
    | none => .trap cIllegalOperand x.actMask f.a.toNat
    | some s => .go s []

/-- `SWR` (R482). -/
def execSwr (f : FmtI) (s : State) : Host.Outcome State Fault Refusal := issue (.swr f) f.h (semSwr f) s

end Sys2Proof.Machine
end

