-- ==== Sys2Proof/Machine/Sched.lean ====
section
/-!
DEFINITION. Issue slots and bays: the group that issues (02 R32 to R38, R44, R46; 03 R68, R71), parked threads, join-barrier expiry
and the watchdog (02 R41; 17 R347), the active set and the paddock (13 R282 to R286), skids and causes delivered by engines
(17 R333, R334), and unassigned code points (04 R109).
-/
namespace Sys2Proof.Machine

/-- Whether a wave's team is resident and its context live. -/
def State.liveWave (s : State) (w : Wave) : Bool :=
  !s.shutdown && !s.idleGrid w.id.team.grid && match s.team? w.id.team with | some t => !t.away | none => false

/-- Whether a bay clock counts as an issue slot of a wave (R32). -/
def State.counts (s : State) (w : Wave) : Bool :=
  s.liveWave w && match s.team? w.id.team with
    | some t => (match t.halted with | some k => k == w.id.wave | none => true)
    | none => false

/-- The slot at a PC, of a line that the core's instruction cache holds. -/
def State.slotAt (s : State) (w : Wave) (pc : DWord) : Option Slot :=
  if pcBad pc.toNat then none
  else ((s.core w.core).line? (asidOf w.id) (pc.toNat / 64)).map (fun l => lineSlot l (pc.toNat % 8))

/-- The first register of the quarter that an `MWL` reads from registers (R174). -/
def quarterAt (i : Instr) : Option Nat := match i with | .mwl f => if f.fn.getLsbD 4 then none else some f.a.toNat | _ => none

/-- Whether a thread writes a quarter of registers next: it stands, ready or in a stall, at an instruction that does. -/
def State.writesQuarter (s : State) (w : Wave) (a l : Nat) : Bool :=
  let t := w.thread l
  (t.run == .ready || t.run.isParked || match t.run with | .blocked (.owned _ _) => true | _ => false) &&
    match (s.slotAt w t.pc).map (fun k => (k, decodeSlot k)) with
    | some (k, .ok i) => guardTrue (getHdr k) w l && (operandsOf i).any (fun o => o.dst && o.isV && o.code < a + 64 && a < o.code + o.count)
    | _ => false

/-- Whether a thread's next instruction would block on an empty register (R33, R90, R91). DEDUCED (log 95): an `MWL` that reads registers
waits too for the threads of its wave that stand elsewhere and write its quarter next: it is uniform work of the wave (R174), and no order
of replies may show in what it stages (R508, R512). -/
def State.emptyWait (s : State) (w : Wave) (l : Nat) : Bool :=
  match s.slotAt w (w.thread l).pc with
  | none => false
  | some k => match decodeSlot k with
    | .error _ => false
    | .ok i => (operandFault i w).isNone && guardTrue (getHdr k) w l && !s.roleRefused i w && 
        (blockedAt i w l || match quarterAt i with
          | some a => w.lanes.any (fun m => (w.thread m).pc != (w.thread l).pc && s.writesQuarter w a m)
          | none => false)

/-- Whether a completion object in a wave's view has reached a threshold, or its read would not simply wait (R404). -/
def State.objectOver (s : State) (w : Wave) (va threshold : Nat) : Bool :=
  match s.ctx? (asidOf w.id) with
  | none => false
  | some c => match s.xlateAll c (s.ownBlock w.id.team.grid) va 8 .read with
    | .ok pas => (s.badVa va pas).isSome || threshold ≤ ofBytes (s.viewBytes (s.viewOf w.id) va pas)
    | _ => true

/-- Whether what a blocked thread waits on has come (R33, R52, R178, R258, R320, R404, R410, R412, R467). -/
def State.waitOver (s : State) (w : Wave) (v : Wait) : Bool :=
  match v, s.team? w.id.team, s.ctx? (asidOf w.id) with
  | .ring n cons, some t, _ =>
    let pos := cellGet 0 w.ring (2 * n + (if cons then 1 else 0))
    ringReady (t.slot n (pos / 2)) cons (pos % 2 == 1)
  | .object va k, _, _ => s.objectOver w va k
  | .owned va n, _, _ => !s.owned (asidOf w.id) va n
  | .tile n before, some t, _ => !s.tileBusy t.id w.core w.bay n before
  | .full, some t, _ => t.decisions.length < 64
  | .barPhase n, some t, _ => !(t.bar n).arr.getLsbD w.id.wave
  | .decision k, _, _ => !s.reqs.any (fun r => r.wave == w.id && r.kind == .decision k && r.fills.isEmpty)
  | .room q n, _, some c => (c.queue q).length + n ≤ c.queueSize q
  | .entry q, _, some c | .entryS q, _, some c => !(c.queue q).isEmpty
  | .unseen l, _, _ => !s.unseenBy w l
  | .convert l, _, _ => !s.waiting.any (fun r => r.wave == w.id && heldStays r.instr && r.nums.length ≥ 4 && r.lanes.getLsbD l)
  | .slots n, _, _ => s.slotsUsed w.core + n ≤ 768
  | .staging k, some t, _ => !t.staged.any (fun q => q.bay == w.bay && q.slot == k)
  | .channel, _, _ => !s.atChannel (.scalar w.id) && !s.atChannel (.fetch w.id)
  | .reply id _, _, _ => !s.waiting.any (fun r => r.wave == w.id && r.nums.length ≥ 4 && r.nums.getD 3 0 == id)
  | _, _, _ => false

/-- Whether a thread is ready (R33). -/
def State.threadReady (s : State) (w : Wave) (l : Nat) : Bool :=
  match (w.thread l).run with
  | .ready => !s.emptyWait w l
  | .blocked v => s.waitOver w v
  | _ => false

/-- Whether a wait blocks the whole wave: that of an S-form `DECT` or `QPOP` (R55, R412, R467), or for the value of an S register (R320). -/
def Run.holdsWave : Run → Bool
  | .blocked (.decision _) | .blocked (.entryS _) | .blocked (.reply _ true) => true
  | _ => false

/-- Whether a wave waits at issue for work that is to be accepted, or for something that has not come (R176, R207): its next instruction
may not issue. -/
def State.waitsUp (s : State) (w : Wave) : Bool :=
  match w.hold with
  | some h => h.work.isSome || match h.on with | some v => !s.waitOver w v | none => false
  | none => false

/-- The ready threads of a wave (R33): those of an S-form `DECT` or `QPOP` alone while it waits. A wave is ready when it has one, and
blocked otherwise (R282); a stopped wave's next instruction may not issue, nor that of one that waits at issue. -/
def State.readyLanes (s : State) (w : Wave) : List Nat :=
  let held := w.lanes.filter (fun l => (w.thread l).run.holdsWave)
  (if held.isEmpty then w.lanes else held).filter (s.threadReady w)
def State.waveReady (s : State) (w : Wave) : Bool := s.liveWave w && w.halt != .stopped && !s.waitsUp w && !(s.readyLanes w).isEmpty

/-- `oldest_waiting_pc` of R34 over some ready lanes: of those not at BPC, the one longest without issuing. -/
def oldestPc (w : Wave) (ready : List Nat) : DWord :=
  match ready.filter (fun l => (w.thread l).pc != w.bpc) with
  | [] => w.bpc
  | l :: ls => (w.thread (ls.foldl (fun m k => if (w.thread k).idle > (w.thread m).idle then k else m) l)).pc

/-- The start of a slot (R34): BPC moves when no ready thread stands at it, and the ready threads elsewhere may issue from their loop
buffers in this slot (R37), but for those of a group that waits at its instruction and issues again as one. -/
def State.aimBpc (s : State) (w : Wave) : Wave :=
  let ready := s.readyLanes w
  let w := if !ready.isEmpty && ready.all (fun l => (w.thread l).pc != w.bpc) then { w with bpc := oldestPc w ready, fair := 0 } else w
  { w with others := if w.isLead then 0 else maskOf (ready.filter (fun l => (w.thread l).pc != w.bpc && (w.thread l).run == .ready)) }

/-- The claim of `DECT`, or the held access, that a thread waits on; threads of one issue by themselves (R320, R411). -/
def claimOf (t : Thread) : Option Nat :=
  match t.run with | .blocked (.decision k) => some (2 * k) | .blocked (.reply k _) => some (2 * k + 1) | _ => none

/-- The group that issues in a wave's slot, with its PC (R34): that of the instruction that waits at issue by itself, or the
ready threads at BPC. -/
def State.slotGroup (s : State) (w : Wave) : List Nat × DWord :=
  match w.hold with
  | some h => (lanesOf h.lanes, h.pc)
  | none =>
    let ls := (s.readyLanes w).filter (fun l => (w.thread l).pc == w.bpc)
    match ls with
    | [] => ([], w.bpc)
    | k :: _ => (ls.filter (fun l => claimOf (w.thread l) == claimOf (w.thread k)), w.bpc)

/-- Whether a wave may issue now (R32, R62, R282, R284, R334). -/
def State.mayIssue (s : State) (w : Wave) : Bool :=
  s.liveWave w && (s.counts w || (match w.halt with | .skid _ => true | _ => false)) && (w.active || w.isLead) && w.moves.isEmpty &&
    w.yielded == 0 && w.halt != .stopped && !s.waitsUp w

/-- Whether an active wave has still to issue in this clock (R34): a ready group stands at its slot, and no skid, whose issue is
allowed and not asked for (R334). -/
def State.owesSlot (s : State) (w : Wave) : Bool :=
  s.mayIssue w && !w.issued && w.halt == .running && (w.hold.isSome || !(s.readyLanes w).isEmpty)

/-- The wave whose slot comes first when a wave's does: the waves of a team issue in the order of `WAVE` within a clock, so that of
several precise causes of one clock the lowest is taken (R335). -/
def State.slotFirst (s : State) (wid : WaveId) : WaveId :=
  match (List.range wid.wave).find? (fun k => match s.wave? { wid with wave := k } with | some w => s.owesSlot w | none => false) with
  | some k => { wid with wave := k }
  | none => wid

/-- Whether the line of a PC must be fetched and checked before the group may issue (R68, R71, R342). -/
def State.needsFetch (s : State) (w : Wave) (pc : DWord) : Bool :=
  (s.slotAt w pc).isNone || w.firstFetch || (w.entry && w.tlevel == 0)

/-- A cause of the fetch itself (R68, R69): at the first fetch of a handler it kills the context (R342). -/
def State.fetchCause (s : State) (wid : WaveId) (cause : Nat) (lanes : LaneMask) (pc addr : Nat) : State :=
  match s.wave? wid with
  | none => s
  | some w =>
    if !w.firstFetch then s.raisePrecise wid cause lanes addr else
    let b := if w.tlevel == 2 then w.bank2 else w.bank1
    s.killCtx (asidOf wid) cHandlerFetch
      { c1 := b.cause, c2 := cause, c3 := 0, a1 := b.addr.toNat, a2 := pc, a3 := 0, team := wid.team.team, wave := wid.wave,
        lseq := wid.team.grid.lseq,
        pc := causePc w b.eng b.cause b.mask (fun t => if w.tlevel == 2 then t.tret2 else t.tret1) }

/-- `LINE_FETCH` (R68, R69, R71, R342) for the group that would issue, once its request is past the pseudo-channels (R217). -/
def fetchFor (c : Cur) (w : Wave) (s : State) : State :=
  let pc := c.pc.toNat
  let entry := if w.isLead then (s.recOf c.wid).lpc else (s.recOf c.wid).kpc
  if pcShapeBad pc then s.fetchCause c.wid cIllegalOpcode c.lanes pc pc
  else if pc ≥ 2 ^ 56 then s.fetchCause c.wid cTranslation c.lanes pc pc
  else if s.lineWaits w.core c.wid (pc / 64) then s
  else match s.fetchLine w.core (asidOf c.wid) (pc / 64) with
    | .bad cause s => s.fetchCause c.wid cause c.lanes pc (pc / 64 * 64)
    | .miss on => s.park c.wid false ((lanesOf c.lanes).map (fun l => (l, pc / 64 * 64, on)))
    | .ok line s =>
      if w.entry && w.tlevel == 0 && c.pc == entry && !(lineWord line).testBit (pc % 8) then
        s.raisePrecise c.wid cBranchTarget c.lanes pc
      else s.updWave c.wid (fun w => { w with firstFetch := false, entry := w.entry && w.tlevel != 0 })

/-- `LINE_FETCH` (R68). -/
def execLineFetch (s : State) : Host.Outcome State Fault Refusal :=
  match s.cur with
  | none => .fault .noIssuingGroup
  | some c => match s.wave? c.wid with
    | none => .fault .noIssuingGroup
    | some w => commit s (fetchFor c w s)

/-- `ILLEGAL_OPCODE` on the issuing group (R76, R109). -/
def badOpcode (opc : Nat) (s : State) : Host.Outcome State Fault Refusal :=
  match s.cur with
  | none => .fault .noIssuingGroup
  | some c => match s.wave? c.wid with
    | none => .fault .noIssuingGroup
    | some _ => commit s (s.raisePrecise c.wid cIllegalOpcode c.lanes opc)

/-- `UNASSIGNED_CODE_POINT` (R109). -/
def execUnassignedCodePoint (word : Slot) (s : State) : Host.Outcome State Fault Refusal := badOpcode (opcOf word) s

/-- Put a PC at the head of a loop buffer of 48 distinct ones (R37). -/
def Thread.remember (t : Thread) (pc : DWord) : Thread := { t with loop := (pc :: t.loop.filter (· != pc)).take 48 }

/-- Whether a thread has issued the instruction it stands at or behind: one that waits to issue it again has not (R37). -/
def Run.hasIssued : Run → Bool
  | .ended => false
  | .blocked (.rcv _ _) | .blocked (.bar _ _) | .blocked .merge => true
  | .blocked _ => false
  | _ => true

/-- After an issue: the lanes have issued, their loop buffers hold the instruction unless it waits to issue again, BPC follows the
lowest lane of a broadcast group, and a skid instruction is counted (R34, R37, R54, R334). DESIGN CHOICE (log 100): where that lane has
ended or waits, the next PC that BPC takes is the PC at which it stands. -/
def State.afterIssue (s : State) (c : Cur) (before : Wave) : State :=
  let s := { s with cur := none }
  match s.wave? c.wid with
  | none => s
  | some w =>
    let same := w.tlevel == before.tlevel && w.hold.isNone
    let ls := lanesOf c.lanes
    let counted := match before.halt, w.halt with | .skid n, .skid _ => some (n + 1) | _, _ => none
    let s := s.updWave c.wid (fun w =>
      let w := w.updThreads ls (fun _ t =>
        let t := { t with idle := if same then 0 else t.idle }
        if same && t.run.hasIssued && w.halt != .stopped && !w.isLead then t.remember c.pc else t)
      { w with
        issued := w.issued || !c.viaLoop
        others := w.others &&& ~~~c.lanes
        bpc := if c.viaLoop then w.bpc else match ls with | l :: _ => (w.thread l).pc | [] => w.bpc
        halt := match counted with | some n => .skid n | none => w.halt })
    match counted with
    | some n => if n ≥ 8 then s.pushDue (.skidStop c.wid) else s
    | none => s

/-- Issue the instruction at a group's PC, or fetch its line first. -/
def issueCur (run : Instr → State → Host.Outcome State Fault Refusal) (c : Cur) (w : Wave) (s : State) :
    Host.Outcome State Fault Refusal :=
  let s' := { s with cur := some c }
  let after (r : Host.Outcome State Fault Refusal) (f : State → State) : Host.Outcome State Fault Refusal :=
    match r with | .next t => .next (f t) | r => r
  if s.needsFetch w c.pc then after (run .lineFetch s') (fun t => { t with cur := none })
  else match s.slotAt w c.pc with
    | none => .next s
    | some k => after (match decodeSlot k with | .ok i => run i s' | .error _ => badOpcode (opcOf k) s') (fun t => t.afterIssue c w)

/-- One issue slot of a wave (R34). -/
def slotOf (run : Instr → State → Host.Outcome State Fault Refusal) (wid : WaveId) (s : State) :
    Host.Outcome State Fault Refusal :=
  match s.wave? wid with
  | none => .next s
  | some w =>
    if !s.mayIssue w || w.issued then .next s else
    let w := s.aimBpc w
    let s := s.updWave wid (fun _ => w)
    match s.slotGroup w with
    | ([], _) => .next s
    | (ls, pc) => issueCur run { wid := wid, lanes := maskOf ls, pc := pc, viaLoop := false } w s

/-- The issue slot of a wave, or of one of its team that comes before it (R34, R335). -/
def slotTurn (run : Instr → State → Host.Outcome State Fault Refusal) (wid : WaveId) (s : State) :
    Host.Outcome State Fault Refusal := slotOf run (s.slotFirst wid) s

/-- An issue from a loop buffer, after the slot's broadcast issue (R34, R37): a ready thread that stood diverged at its start, alone. -/
def loopTurn (run : Instr → State → Host.Outcome State Fault Refusal) (wid : WaveId) (lane : Nat) (s : State) :
    Host.Outcome State Fault Refusal :=
  match s.wave? wid with
  | none => .next s
  | some w =>
    let t := w.thread lane
    if !s.mayIssue w || !w.issued || w.hold.isSome || !w.others.getLsbD lane || !(s.readyLanes w).contains lane || t.pc == w.bpc ||
        !t.loop.contains t.pc || s.needsFetch w t.pc then .next s
    else issueCur run { wid := wid, lanes := maskOf [lane], pc := t.pc, viaLoop := true } w s

/-- The counts of a join barrier at the end of a clock that is an issue slot or not (R41, R347): the slot of an episode's first
arrival is not counted. -/
def Join.tick (counts : Bool) (b : Join) : Join :=
  if b.arr == 0 then b else if b.young then { b with young := false }
  else if counts then { b with cnt := b.cnt + 1, wdc := b.wdc + 1 } else b

/-- Whether a join barrier expires, and whether its watchdog count has run out (R41, R347). -/
def Join.expires (b : Join) : Bool := b.arr != 0 && b.bnd != 0 && b.cnt ≥ b.bnd
def Join.overdue (b : Join) (wd : Nat) : Bool := b.arr != 0 && wd != 0 && b.wdc ≥ wd + 1

/-- The end of a clock for one wave (R32, R34, R41, R282, R286, R347). -/
def State.tickWave (s : State) (wid : WaveId) : State :=
  match s.wave? wid with
  | none => s
  | some w =>
    if !s.liveWave w then s else
    let ready := s.readyLanes w
    let counts := s.counts w
    let left := ready.any (fun l => (w.thread l).pc != w.bpc && (w.thread l).idle != 0)
    let fair := if !counts || !(w.active || w.isLead) then w.fair else if left then w.fair + 1 else 0
    let s := s.updWave wid (fun w =>
      let w := w.updThreads w.lanes (fun _ t => if t.run = .ended then t else { t with idle := t.idle + 1 })
      { w with
        fair := fair
        age := w.age + 1
        blockedFor := if w.active && !w.issued && !s.waveReady w then w.blockedFor + 1 else 0
        yielded := if w.yielded = 0 then 0 else w.yielded + 1
        issued := false
        others := 0
        joins := w.joins.map (fun p => (p.1, p.2.tick (counts && w.tlevel == 0))) })
    let s := if counts then s.settle wid else s
    match s.wave? wid, s.ctx? (asidOf wid) with
    | some w, some c =>
      let s := if counts && w.fair ≥ c.f then s.pushDue (.fairnessTimerExpiry wid) else s
      if !counts || w.tlevel != 0 then s else
      (List.range 16).foldl (fun s j =>
        if (w.join j).expires then s.pushDue (.joinBarrierExpiry wid j)
        else if (w.join j).overdue c.wd then (s.pushDue (.watchdog wid j)).pushDue (.engineCauseDelivery wid.team) else s) s
    | _, _ => s

/-- The end of a clock of a core: every wave's counts, then at most one exchange in each bay (R283), and the next kind E or T cause of
each team that runs (R333). -/
def State.endOfClock (s : State) (core : Nat) : State :=
  let ws := (s.waves.filter (fun w => w.core == core)).map (·.id)
  let s := ws.foldl (fun s w => s.tickWave w) s
  let s := s.updCore core (fun c => { c with clocks := c.clocks + 1 })
  let s := (List.range 4).foldl (fun s b => s.pushDue (.activeSetExchange core b)) s
  (s.teams.filter (fun t => t.core == core && t.halted.isNone && !t.pending.isEmpty)).foldl (fun s t =>
    s.pushDue (.engineCauseDelivery t.id)) s

/-- `FAIRNESS_TIMER_EXPIRY` (R34). -/
def expireFairness (wid : WaveId) (s : State) : State :=
  match s.wave? wid, s.ctx? (asidOf wid) with
  | some w, some c => if w.fair ≥ c.f then s.updWave wid (fun w => { w with bpc := oldestPc w (s.readyLanes w), fair := 0 }) else s
  | _, _ => s

/-- `FAIRNESS_TIMER_EXPIRY` (R34). -/
def execFairnessTimerExpiry (w : WaveId) (s : State) : Host.Outcome State Fault Refusal := commit s (expireFairness w s)

/-- `JOIN_BARRIER_EXPIRY` (R41): the waiting threads proceed with the predicate set, and the barrier is broken. -/
def expireJoin (wid : WaveId) (j : Nat) (s : State) : State :=
  match s.wave? wid with
  | none => s
  | some w =>
    if !(w.join j).expires then s else
    s.updWave wid (fun w => (w.joinGo j true).setJoin j { w.join j with arr := 0, brk := true, bnd := 0, cnt := 0, wdc := 0, young := false })

/-- `JOIN_BARRIER_EXPIRY` (R41). -/
def execJoinBarrierExpiry (w : WaveId) (j : Nat) (s : State) : Host.Outcome State Fault Refusal := commit s (expireJoin w j s)

/-- `WATCHDOG` (R347). -/
def raiseWatchdog (wid : WaveId) (j : Nat) (s : State) : State :=
  match s.wave? wid, s.ctx? (asidOf wid) with
  | some w, some c =>
    if !(w.join j).overdue c.wd then s else
    (s.updWave wid (fun w => w.setJoin j { w.join j with wdc := 0 })).postCause wid.team (some wid.wave) cWatchdog j (w.join j).arr
  | _, _ => s

/-- `WATCHDOG` (R347). -/
def execWatchdog (w : WaveId) (j : Nat) (s : State) : Host.Outcome State Fault Refusal := commit s (raiseWatchdog w j s)

/-- `PARKED_THREAD_REEXECUTE` (R44, R46): the parked threads of a wave that stand with one at its instruction are ready to
execute it again, or receive the fault that their miss became. -/
def reexecute (wid : WaveId) (lane : Nat) (s : State) : State :=
  match s.wave? wid with
  | none => s
  | some w =>
    if !s.liveWave w || w.halt == .stopped then s else
    let t := w.thread lane
    match t.run with
    | .parked _ va st =>
      let ls := w.lanes.filter (fun l => (w.thread l).pc == t.pc && match (w.thread l).run with | .parked _ _ r => r == st | _ => false)
      let back := s.updWave wid (fun w => w.updThreads ls (fun _ t => { t with run := .ready }))
      (match st with
      | .waiting => s
      | .resolved => back.settle wid
      | .failed cause => match w.halt with
        | .skid n => s.updWave wid (fun w => w.stopSkid n)
        | _ => back.fetchCause wid cause (maskOf ls) t.pc.toNat va)
    | _ => s

/-- `PARKED_THREAD_REEXECUTE` (R44). -/
def execParkedThreadReexecute (w : WaveId) (lane : Nat) (s : State) : Host.Outcome State Fault Refusal :=
  commit s (reexecute w lane s)

/-- `SKID_STOP` (R334). -/
def stopInSkid (wid : WaveId) (s : State) : State :=
  s.updWave wid (fun w => match w.halt with | .skid n => w.stopSkid n | _ => w)

/-- `SKID_STOP` (R334). -/
def execSkidStop (w : WaveId) (s : State) : Host.Outcome State Fault Refusal := commit s (stopInSkid w s)

/-- `ENGINE_CAUSE_DELIVERY` (R333). -/
def deliverCause (tid : TeamId) (s : State) : State :=
  match s.team? tid with
  | none => s
  | some t =>
    if t.halted.isSome || t.away || s.idleGrid tid.grid || t.pending.isEmpty then s else
    let s := s.deliverPending tid
    if (s.team? tid).any (fun t => t.halted.isNone && !t.pending.isEmpty) then s.pushDue (.engineCauseDelivery tid) else s

/-- `ENGINE_CAUSE_DELIVERY` (R333). -/
def execEngineCauseDelivery (t : TeamId) (s : State) : Host.Outcome State Fault Refusal := commit s (deliverCause t s)

/-- The waves of a bay that can be exchanged, active or not (R282): the lead thread is none of them. -/
def State.bayWaves (s : State) (core bay : Nat) (active : Bool) : List Wave :=
  s.waves.filter (fun w => w.core == core && w.bay == bay && !w.isLead && w.active == active && s.liveWave w)

/-- The order of launch of a wave's team, then `WAVE` (R283). -/
def State.earlier (s : State) (a b : Wave) : Bool :=
  let o (w : Wave) : Nat := match s.grid? w.id.team.grid with | some g => g.order | none => 0
  o a < o b || (o a == o b && (a.id.team.team < b.id.team.team ||
    (a.id.team.team == b.id.team.team && (a.id.team.copy < b.id.team.copy ||
      (a.id.team.copy == b.id.team.copy && a.id.wave < b.id.wave)))))

/-- The wave of greatest key, ties to the earliest team and lowest `WAVE` (R283). -/
def State.bestBy (s : State) (key : Wave → Nat × Nat) : List Wave → Option Wave
  | [] => none
  | w :: ws => match s.bestBy key ws with
    | none => some w
    | some v =>
      let a := key w
      let b := key v
      if a.1 > b.1 || (a.1 == b.1 && (a.2 > b.2 || (a.2 == b.2 && s.earlier w v))) then some w else some v

/-- A clock of a core (R32, R34, R36): it ends only when every active wave with a ready group has issued, the waves in the order of
their teams' launches and of `WAVE`. -/
def clockTurn (run : Instr → State → Host.Outcome State Fault Refusal) (core : Nat) (s : State) : Host.Outcome State Fault Refusal :=
  match s.bestBy (fun _ => (0, 0)) (s.waves.filter (fun w => w.core == core && s.owesSlot w)) with
  | some w => slotOf run w.id s
  | none => commit s (s.endOfClock core)

/-- The ready waves of a paddock, and the best of some of them (R283). -/
def State.paddock (s : State) (core bay : Nat) : List Wave := (s.bayWaves core bay false).filter s.waveReady
def State.best (s : State) (ws : List Wave) : Option Wave := s.bestBy (fun w => (w.prioUse, w.age)) ws

/-- A wave takes part in a move of registers (R284), which empties its loop buffers (R38). -/
def Wave.move (w : Wave) (data : Bool) (k : Nat) : Wave :=
  if data then { (w.updThreads w.lanes (fun _ t => { t with loop := [] })) with moves := w.moves ++ [k] } else w

/-- An exchange (R283, R284): one wave enters, one may leave. Where one of them is not resident, data moves, and neither issues until the
move completes. -/
def State.exchange (s : State) (inw : Wave) (out : Option Wave) : State :=
  let data := !inw.resident || out.any (fun o => !o.resident)
  let (k, s) := s.newId
  let s := match out with
    | none => s
    | some o => s.updWave o.id (fun w => { w.move data k with
        active := false, age := 0, blockedFor := 0, yielded := 0, resident := w.resident && !data })
  s.updWave inw.id (fun w => { w.move data k with active := true, age := 0, blockedFor := 0 })

/-- The end of a bay's clock after the exchange: a mark lapses when no paddock wave is ready (R62), and a change of `LEVEL`
is taken up (R274). -/
def State.endClock (s : State) (core bay : Nat) (lapse : Bool) : State :=
  { s with waves := s.waves.map (fun w => if w.core = core ∧ w.bay = bay then
      { w with prioUse := w.prioLevel, yielded := if lapse then 0 else w.yielded } else w) }

/-- `ACTIVE_SET_EXCHANGE` (R283): rules 1 and 2, and rule 3 for a yielded wave; else the rules after them. -/
def exchangeBay (core bay : Nat) (s : State) : State :=
  let act := s.bayWaves core bay true
  match s.best (s.paddock core bay) with
  | none => s.endClock core bay true
  | some b =>
    if act.length < 8 then (s.exchange b none).endClock core bay false else
    let low := act.foldl (fun m w => min m w.prioUse) 256
    if b.prioUse > low then
      (s.exchange b (s.bestBy (fun w => (w.age, 0)) (act.filter (fun w => w.prioUse == low)))).endClock core bay false
    else match s.bestBy (fun w => (w.yielded, 0)) (act.filter (fun w => w.yielded != 0)) with
      | some o => (s.exchange b (some o)).endClock core bay false
      | none => s.pushDue (.blockedWaveSwap core bay)

/-- `ACTIVE_SET_EXCHANGE` (R283). -/
def execActiveSetExchange (core bay : Nat) (s : State) : Host.Outcome State Fault Refusal := commit s (exchangeBay core bay s)

/-- `BLOCKED_WAVE_SWAP` (R283, rule 3): the active wave blocked longest, for 33 clocks or more, is replaced. -/
def swapBlocked (core bay : Nat) (s : State) : State :=
  match s.best (s.paddock core bay), s.bestBy (fun w => (w.blockedFor, 0)) ((s.bayWaves core bay true).filter (fun w => w.blockedFor ≥ 33)) with
  | some b, some o => (s.exchange b (some o)).endClock core bay false
  | _, _ => s.pushDue (.rotation core bay)

/-- `BLOCKED_WAVE_SWAP` (R283). -/
def execBlockedWaveSwap (core bay : Nat) (s : State) : Host.Outcome State Fault Refusal := commit s (swapBlocked core bay s)

/-- `ROTATION` (R283, rule 4): of the active waves of 4,096 clocks that have a ready paddock wave of equal `LEVEL`, the one
longest in the set is replaced by the best such wave. DESIGN CHOICE (log 122): among several, the one longest in the set. -/
def rotate (core bay : Nat) (s : State) : State :=
  let pad := s.paddock core bay
  let able := (s.bayWaves core bay true).filter (fun w => w.age ≥ 4096 && pad.any (fun p => p.prioUse == w.prioUse))
  match s.bestBy (fun w => (w.age, 0)) able with
  | none => s.endClock core bay false
  | some o => match s.best (pad.filter (fun p => p.prioUse == o.prioUse)) with
    | some b => (s.exchange b (some o)).endClock core bay false
    | none => s.endClock core bay false

/-- `ROTATION` (R283). -/
def execRotation (core bay : Nat) (s : State) : Host.Outcome State Fault Refusal := commit s (rotate core bay s)

/-- A move is over for a wave (R284): with none left, one that has entered has its registers. -/
def Wave.moved (w : Wave) (k : Nat) : Wave :=
  if w.moves.contains k then
    { w with moves := w.moves.filter (· != k), resident := w.resident || (w.active && (w.moves.filter (· != k)).isEmpty) }
  else w

/-- The first move that a wave takes part in completes, for both of its waves (R284). -/
def moveDone (wid : WaveId) (s : State) : State :=
  match s.wave? wid with
  | none => s
  | some w => match w.moves with
    | [] => s
    | k :: _ => { s with waves := s.waves.map (fun w => w.moved k) }

/-- `REGISTER_MOVE_COMPLETE` (R284). -/
def execRegisterMoveComplete (w : WaveId) (s : State) : Host.Outcome State Fault Refusal := commit s (moveDone w s)

end Sys2Proof.Machine
end

