-- ==== Sys2Proof/Machine/Spectral.lean ====
section
/-!
DEFINITION. Spectral instructions with operands in scratch or memory: `WSPAN` (06 R135), `MUEL` (06 R136, R137; 21 R457), the leaf
test and `LEAFX` (06 R152; 21 R447, R448), texture sampling (06 R138 to R146; 22 R489 to R491), and `TRACE` with its walk
(06 R147 to R157; 22 R492, R493), with the events that end a sample and a walk.
-/
namespace Sys2Proof.Machine

/-- F32 operations under `RNE` that set no flags (R131), on codes. -/
def d32 (w : Nat) : Val := decVal 10 (w % 2 ^ 32)
def add32 (a b : Nat) : Nat := (fAdd 10 .rne (d32 a) (d32 b)).1
def sub32 (a b : Nat) : Nat := (fSub 10 .rne (d32 a) (d32 b)).1
def mul32 (a b : Nat) : Nat := (fMul 10 .rne (d32 a) (d32 b)).1
def fma32 (a b c : Nat) : Nat := (fFma 10 .rne (d32 a) (d32 b) (d32 c)).1
def div32 (a b : Nat) : Nat := (fDiv 10 .rne (d32 a) (d32 b)).1
def neg32 (a : Nat) : Nat := a ^^^ 2 ^ 31
def lt32 (a b : Nat) : Bool := valLt false (d32 a) (d32 b)
def le32 (a b : Nat) : Bool := valLt false (d32 a) (d32 b) || valEq (d32 a) (d32 b)
def nan32 (a : Nat) : Bool := (d32 a).isNaN

/-- `WSPAN` (R135). -/
def wspanOf (r : Rnd) (range : DWord) (u : Nat) : List (Nat × BitVec 6) :=
  let e0 : BitVec 6 := if nan32 u then nvBit else 0
  let u := if nan32 u then 0 else u
  let u := if lt32 u 0 then 0 else u
  let u := if le32 0x3F800000 u then 0x3F7FFFFF else u
  let lmin := d32 (range.toNat % 2 ^ 32)
  let w := fSub 10 r (d32 (range.toNat / 2 ^ 32)) lmin
  (List.range 8).map (fun (j : Nat) =>
    let t := fAdd 10 r (.fin false (j : Rat)) (d32 u)
    let t8 : Val := match d32 t.1 with | .fin n m => .fin n (m / 8) | v => v
    let y := fFma 10 r t8 (d32 w.1) lmin
    (y.1, e0 ||| w.2 ||| t.2 ||| y.2))

/-- `WSPAN` (R135). -/
def execWspan (f : FmtW) (s : State) : Host.Outcome State Fault Refusal :=
  issue (.wspan f) f.h (fun x s => arith x s (fun l =>
    packOut f.wd (wspanOf (rndOf f.mode.toNat) x.w.wlrange (x.rd l f.vs 1 % 2 ^ 32)))) s

/-- A polarised packet through one Mueller matrix per wavelength (R136): element 8k + j of the result. -/
def muelOf (r : Rnd) (q m : Nat → Nat) : List (Nat × BitVec 6) :=
  (List.range 32).map (fun i =>
    let k := i / 8
    let j := i % 8
    let c (n : Nat) : Val := d32 (m (16 * j + 4 * k + n))
    let sv (n : Nat) : Val := d32 (q (8 * n + j))
    let y0 := fMul 10 r (c 0) (sv 0)
    let y1 := fFma 10 r (c 1) (sv 1) (d32 y0.1)
    let y2 := fFma 10 r (c 2) (sv 2) (d32 y1.1)
    let y3 := fFma 10 r (c 3) (sv 3) (d32 y2.1)
    (y3.1, y0.2 ||| y1.2 ||| y2.2 ||| y3.2))

/-- `MUEL` (R136, R137). -/
def semMuel (f : FmtW) (x : Iss) (s : State) : Res :=
  let as := x.lanes.map (fun l => { lane := l, va := x.rd l f.vs 1 % 2 ^ 32, n := 512 : LaneAcc })
  match x.misaligned 64 as with
  | some (m, a) => .trap cAlign m a
  | none => match x.beyond (s.scratchSize x.wid) as with
    | some (m, a) => .trap cProtection m a
    | none => match s.team? x.wid.team with
      | none => .go s []
      | some t => match poolCheck x t 1 as with
        | some (m, a) => .check [] m a []
        | none => arith x s (fun l =>
          let a := x.rd l f.vs 1 % 2 ^ 32
          packOut f.wd (muelOf (rndOf f.mode.toNat) (pk x l f.wa) (fun i => ofBytes (t.scratchBytes (a + 4 * i) 4))))

/-- `MUEL` (R136). -/
def execMuel (f : FmtW) (s : State) : Host.Outcome State Fault Refusal := issue (.muel f) f.h (semMuel f) s

/-- A ray: origin, least t, direction, greatest t, as F32 codes (R155). -/
structure Ray where
  o : List Nat
  tmin : Nat
  d : List Nat
  tmax : Nat
  deriving DecidableEq, Repr

def rayOf (v : List Nat) : Ray :=
  { o := v.take 3, tmin := v.getD 3 0, d := (v.drop 4).take 3, tmax := v.getD 7 0 }

/-- Component i of an origin or a direction through a transform of twelve words (R152). -/
def moveO (m o : List Nat) (i : Nat) : Nat :=
  fma32 (m.getD (4 * i + 2) 0) (o.getD 2 0) (fma32 (m.getD (4 * i + 1) 0) (o.getD 1 0)
    (fma32 (m.getD (4 * i) 0) (o.getD 0 0) (m.getD (4 * i + 3) 0)))
def moveD (m d : List Nat) (i : Nat) : Nat :=
  fma32 (m.getD (4 * i + 2) 0) (d.getD 2 0) (fma32 (m.getD (4 * i + 1) 0) (d.getD 1 0)
    (mul32 (m.getD (4 * i) 0) (d.getD 0 0)))

/-- The leaf test (R152): t, u, v and whether it is a hit. -/
def leafTest (r : Ray) (m : List Nat) : Nat × Nat × Nat × Bool :=
  let dz := moveD m r.d 2
  let t := div32 (neg32 (moveO m r.o 2)) dz
  let u := fma32 t (moveD m r.d 0) (moveO m r.o 0)
  let v := fma32 t (moveD m r.d 1) (moveO m r.o 1)
  (t, u, v, (lt32 dz 0 || lt32 0 dz) && le32 r.tmin t && le32 t r.tmax && le32 0 u && le32 0 v && le32 (add32 u v) 0x3F800000)

/-- `LEAFX` (R447, R448). -/
def execLeafx (f : FmtR) (s : State) : Host.Outcome State Fault Refusal :=
  issue (.leafx f) f.h (fun x s => .go (s.updWave x.wid (fun w => x.lanes.foldl (fun w l =>
    let r := leafTest (rayOf ((x.w.vregs l f.a.toNat 8).map BitVec.toNat)) ((x.w.vregs l f.b.toNat 12).map BitVec.toNat)
    w.setVs l f.d.toNat [BitVec.ofNat 32 r.1, BitVec.ofNat 32 r.2.1, BitVec.ofNat 32 r.2.2.1, if r.2.2.2 then 1 else 0]) w)) []) s

/-- A spectral texture descriptor (R138). -/
structure Texture where
  base : Nat
  rowp : Nat
  slcp : Nat
  size : List Nat
  nl : Nat
  dims : Nat
  fmt : Nat
  lin : Bool
  mode : List Nat
  lmin : Nat
  lmax : Nat
  border : Nat
  marks : Nat
  nmark : Nat
  deriving DecidableEq, Repr

def textureOf (d : Nat) : Texture :=
  { base := nfield d 63 0, rowp := nfield d 95 64, slcp := nfield d 127 96,
    size := [nfield d 143 128 + 1, nfield d 159 144 + 1, nfield d 175 160 + 1], nl := nfield d 181 176 + 1,
    dims := nfield d 183 182, fmt := nfield d 185 184, lin := d.testBit 186,
    mode := [nfield d 188 187, nfield d 190 189, nfield d 192 191], lmin := nfield d 255 224, lmax := nfield d 287 256,
    border := nfield d 319 288, marks := nfield d 383 320, nmark := nfield d 415 384 }

/-- Whether R139 rejects a descriptor. DESIGN CHOICE (log 76): `ROWP` is checked for every `DIMS`, 1 included, where the rule both lists
the check and ignores the fields of the axes above `DIMS`. -/
def textureBad (d : Nat) : Bool :=
  let t := textureOf d
  let finite (w : Nat) : Bool := match d32 w with | .fin _ _ => true | _ => false
  nfield d 511 416 != 0 || nfield d 223 193 != 0 || t.dims == 0 || t.fmt == 3 || t.base % 64 != 0 || t.base ≥ 2 ^ 56
    || t.marks % 8 != 0 || t.marks ≥ 2 ^ 56 || t.rowp % 64 != 0
    || (t.nl > 1 && (!finite t.lmin || !finite t.lmax || !lt32 t.lmin t.lmax))

/-- The element size (R140). -/
def Texture.es (t : Texture) : Nat := if t.fmt == 0 then 4 else 2

/-- A texel index on an axis under its mode (R141); `none` reads the border. -/
def Texture.wrap (t : Texture) (a : Nat) (i : Int) : Option Nat :=
  let n := t.size.getD a 1
  match t.mode.getD a 0 with
  | 0 => some (i % (n : Int)).toNat
  | 1 => some (max 0 (min i ((n : Int) - 1))).toNat
  | 2 => let m := (i % (2 * n : Nat)).toNat; some (if m < n then m else 2 * n - 1 - m)
  | _ => if 0 ≤ i && i < (n : Int) then some i.toNat else none

/-- The address of λ sample k of a texel given by its index on each axis of `DIMS`; `none` for the border. -/
def Texture.elem (t : Texture) (ix : List Int) (k : Nat) : Option Nat :=
  let at? (a : Nat) : Option Nat := if a < t.dims then t.wrap a (ix.getD a 0) else some 0
  match at? 0, at? 1, at? 2 with
  | some x, some y, some z => some (t.base + z * t.slcp * 64 + y * t.rowp + (x * t.nl + k) * t.es)
  | _, _, _ => none

/-- A number held within bounds. -/
def clampRat (lo hi x : Rat) : Rat := if x < lo then lo else if hi < x then hi else x

/-- An F32 value as a rational, the infinities at ±2^24 where a clamp of R142 puts them. -/
def clampCode (w : Nat) : Rat :=
  match d32 w with
  | .nan _ => 0
  | .inf n => if n then -(2 ^ 24 : Nat) else ((2 ^ 24 : Nat) : Rat)
  | v => clampRat (-((2 ^ 24 : Nat) : Rat)) ((2 ^ 24 : Nat) : Rat) v.real

/-- The code of an exactly representable number, or of the F32 nearest to it. -/
def code32 (x : Rat) : Nat := (roundReal 10 .rne false x false).1

/-- The texel index and the blend weight, exact, of a coordinate on an axis (R142). -/
def Texture.axis (t : Texture) (a c : Nat) : Int × Rat :=
  let c := if nan32 c then 0 else c
  let x := clampCode (mul32 c (code32 ((t.size.getD a 1 : Nat) : Rat)))
  let x := if t.lin then (d32 (code32 (x - mkRat 1 2))).real else x
  (x.floor, if t.lin then x - (x.floor : Rat) else 0)

/-- The λ samples that a wavelength reads and their weight, exact (R142): the first, the second and g. `none` where the
specification states no position: a scale of infinity times a distance of zero. -/
def Texture.lambda (t : Texture) (w : Nat) : Option (Nat × Nat × Rat) :=
  if t.nl == 1 then some (0, 0, 0) else
  let sc := code32 (((t.nl - 1 : Nat) : Rat) / ((d32 t.lmax).real - (d32 t.lmin).real))
  let q := mul32 (sub32 w t.lmin) sc
  match d32 q with
  | .nan _ => none
  | v =>
    let p := match v with | .inf n => if n then 0 else ((t.nl - 1 : Nat) : Rat) | v => clampRat 0 ((t.nl - 1 : Nat) : Rat) v.real
    let k := min p.floor.toNat (t.nl - 2)
    some (k, k + 1, p - ((k : Nat) : Rat))

/-- `lerp(A, B, f)` of R142 at an exact weight. -/
def lerp32 (f : Rat) (a b : Nat) : Nat := (fFma 10 .rne (.fin false f) (d32 (sub32 b a)) (d32 a)).1

/-- The corners of the blend along the axes, the last axis outermost: lists of 0 and 1. -/
def corners : Nat → List (List Nat)
  | 0 => [[]]
  | n + 1 => (corners n).flatMap (fun r => [r ++ [0], r ++ [1]])

/-- The texels that a sample reads. -/
def Texture.texels (t : Texture) (ax : List (Int × Rat)) : List (List Int) :=
  (if t.lin then corners t.dims else [List.replicate t.dims 0]).map (fun c =>
    (List.range t.dims).map (fun a => (ax.getD a (0, 0)).1 + ((c.getD a 0 : Nat) : Int)))

/-- The spatial blend (R142): along x, then y, then z; `L` gives a texel's value, `ix` the axes chosen so far from z down. -/
def Texture.blend (ax : List (Int × Rat)) (lin : Bool) (L : List Int → Nat) : Nat → List Int → Nat
  | 0, ix => L ix
  | n + 1, ix =>
    let i := (ax.getD n (0, 0)).1
    let a := Texture.blend ax lin L n (i :: ix)
    if !lin then a else lerp32 (ax.getD n (0, 0)).2 a (Texture.blend ax lin L n ((i + 1) :: ix))

/-- A lane's sample (R142) through a read of elements: eight words. `free` stands for a value that is not stated. -/
def Texture.sample (t : Texture) (cs waves : List Nat) (free : Nat → Nat) (read : Nat → Nat) : List Nat :=
  let ax := (List.range t.dims).map (fun a => t.axis a (cs.getD a 0))
  (List.range 8).map (fun j =>
    let w := waves.getD j 0
    if nan32 w then canonNaN 10 else
    match t.lambda w with
    | none => free j % 2 ^ 32
    | some (k0, kn, g) =>
      let T (ix : List Int) (k : Nat) : Nat := match t.elem ix k with | some a => read a | none => t.border
      Texture.blend ax t.lin (fun ix => lerp32 g (T ix k0) (T ix kn)) t.dims [])

/-- Put a number into an ascending list without repeats. -/
def ascPut (a : Nat) : List Nat → List Nat
  | [] => [a]
  | b :: l => if a < b then a :: b :: l else if a == b then b :: l else b :: ascPut a l

/-- The footprint of a lane's sample: every element address it reads, ascending (R143, R227). -/
def Texture.footprint (t : Texture) (cs waves : List Nat) : List Nat :=
  let ax := (List.range t.dims).map (fun a => t.axis a (cs.getD a 0))
  let ks := (waves.filter (fun w => !nan32 w)).flatMap (fun w => match t.lambda w with
    | none => []
    | some (k0, kn, _) => if t.nl == 1 then [0] else [k0, kn])
  ((t.texels ax).flatMap (fun ix => ks.filterMap (t.elem ix))).foldr (fun a l => ascPut a l) []

/-- An element's F32 code (R140). -/
def Texture.value (t : Texture) (w : Nat) : Nat :=
  match t.fmt with
  | 0 => w
  | 1 => wrapN 32 (convert 8 10 .rne false (w % 2 ^ 16)).1
  | _ => w % 2 ^ 16 * 2 ^ 16

/-- How a lane's footprint stands (R143): `convert` has the pieces that entries which convert hold, each a VA, a length and the entry;
`lost` is one of which such a piece raised a cause (R320). -/
inductive Foot where
  | fault (step cause va : Nat)
  | border
  | park (va : Nat) (on : List MissOn)
  | owned (va n : Nat)
  | convert (pieces : List (Nat × Nat × Nat))
  | lost
  | ok
  deriving DecidableEq, Repr

/-- R143: protection, then non-residency, then procedural blocks, over the addresses of a footprint, but for the bytes that an entry held
and that have been read (R320). -/
def State.footOf (s : State) (c : Ctx) (own : Option (Nat × Nat)) (es : Nat) (seen : List (Nat × Option Byte)) (as : List Nat) : Foot :=
  if as.any (fun a => seenLost seen a es) then .lost else
  let qs := as.flatMap (fun a => seenRest seen a es)
  let rs := qs.map (fun q => (q.1, s.xlate c own q.1 q.2 .read))
  let hard := rs.filterMap (fun r => match r.2 with
    | .fault st cause va => if st == 5 || (st == 3 && cause == cTranslation) then none else some (st, cause, va)
    | _ => none)
  match hard with
  | f :: fs =>
    let b := fs.foldl (fun b f => if f.1 < b.1 then f else b) f
    .fault b.1 b.2.1 b.2.2
  | [] =>
    if rs.any (fun r => match r.2 with | .miss _ => true | .fault 3 _ _ => true | _ => false) then .border else
    match rs.findSome? (fun r => match r.2 with | .fault _ cause va => some (cause, va) | _ => none) with
    | some (cause, va) => .fault 5 cause va
    | none =>
      match rs.filterMap (fun r => match r.2 with | .blk p k => some (r.1, MissOn.block p k) | _ => none) with
      | b :: bs => .park b.1 ((b :: bs).map (·.2)).eraseDups
      | [] => match qs.find? (fun q => s.owned c.asid q.1 q.2) with
        | some q => .owned q.1 q.2
        | none => match (qs.filterMap (fun q => (c.converting q.1 q.2).map (fun k => (q.1, q.2, k)))).eraseDups with
          | h :: hs => .convert (h :: hs)
          | [] => .ok

/-- The checks of `TEX` and `TEXQ` through the descriptor (R490, R491); the core is the one whose texture unit acts (R24). -/
def withTexture (f : FmtX) (x : Iss) (s : State) (go : Texture → Ctx → Nat → Res) : Res :=
  let d := x.uval f.c 2
  match x.uniformFault f.c 2 with
  | some (m, v) => .trap cUniform m v
  | none => match s.target x f true true with
    | none => placeRange x f
    | some core =>
      if d == 0 then .trap cNullPointer x.actMask 0
      else if d % 64 != 0 then .trap cAlign x.actMask d
      else match s.uload x d 64 with
        | .res r => r
        | .ok w =>
          if textureBad w then .trap cIllegalOperand x.actMask d
          else match s.ctx? (asidOf x.wid) with
            | some c => go (textureOf w) c core
            | none => .go s []

/-- How the atomic OR that sets a mark stands (R144). A lane that meets a non-resident page has no fault and no stall, and takes `BORDER`
at once (R143). DESIGN CHOICE (log 77): a mark whose own byte does not translate for a write, or would need `MCST`, is left unset;
where an engine owns its line the mark alone waits for it (R258). -/
inductive MarkAt where
  | unset
  | set (pas : List (Nat × Nat))
  | owned
  | convert (idx : Nat)
  | bad (va pa : Nat)

/-- R144 for the mark byte at a VA. -/
def State.markAt (s : State) (c : Ctx) (own : Option (Nat × Nat)) (view : Option TeamId) (va : Nat) : MarkAt :=
  match s.xlateAll c own va 1 .write with
  | .fault _ cause _ => if cause == cMachineCheck then .bad va ((s.walkBad c va).getD 0) else .unset
  | .wait _ => .unset
  | .ok pas =>
    if c.needsMcst va 1 then .unset
    else if s.owned c.asid va 1 then .owned
    else match c.converting va 1 with
      | some i => .convert i
      | none => match s.unreadable c own view va 1 with
        | some (a, pa) => .bad a pa
        | none => .set pas

/-- Set the marks of lanes that met a non-resident page (R144): a relaxed atomic OR on the byte that holds each. DESIGN CHOICE (log 121): at D2
and D3 it goes, like the exchange of `TEXQ`, into the team's write set (R295), and is lost where another team writes the byte (R297). -/
def State.setMark (s : State) (w : WaveId) (va : Nat) (pas : List (Nat × Nat)) (bit : Nat) : State :=
  (s.rmw w va pas (fun old => some (old ||| 2 ^ bit))).2

/-- The index that names no entry: a mark under it waits for an engine that owns its line. -/
def lateMarks : Nat := 4096

/-- A mark whose line an engine owned is set once the line is free (R144, R258), or held by an entry that by then converts; the lane has
its `BORDER` (R143). -/
def State.lateMark (s : State) (id : Nat) : State :=
  match s.waiting.find? (fun r => r.id == id && r.nums.length ≥ 4 && r.nums.headD 0 == lateMarks) with
  | none => s
  | some r =>
    let gone : State := ({ s with waiting := s.waiting.filter (fun x => x.id != id) } : State).pushDue (.teamRetirement r.wave.team)
    let va := r.nums.getD 1 0
    match (s.ctx? (asidOf r.wave)).map (fun c => s.markAt c (s.ownBlock r.wave.team.grid) (s.viewOf r.wave) va) with
    | some .owned => s
    | some (.convert i) => { s with waiting := s.waiting.map (fun x => if x.id = id then { x with nums := i :: x.nums.drop 1 } else x) }
    | some (.set pas) => gone.setMark r.wave va pas (r.nums.getD 4 0)
    | some (.bad a pa) => (gone.logBad pa).postCause r.wave.team (some r.wave.wave) cMachineCheck a 0
    | _ => gone

/-- `TEX` (R142 to R144, R490). -/
def semTex (f : FmtX) (x : Iss) (s : State) : Res :=
  withTexture f x s (fun t c core =>
    let own := s.ownBlock x.wid.team.grid
    let view := s.viewOf x.wid
    let reg (l : Nat) (r : RegCode) (n : Nat) : List Nat := (x.w.vregs l r.toNat n).map BitVec.toNat
    let feet := x.act.map (fun l => (l, s.footOf c own t.es (x.seen l) (t.footprint (reg l f.a 3) (reg l f.b 8))))
    let faults := feet.filterMap (fun p => match p.2 with | .fault st cause va => some (p.1, st, cause, va) | _ => none)
    let least := leastOf 9 (faults.map (fun p => p.2.1))
    match faults.filter (fun p => p.2.1 == least) with
    | p :: ps =>
      let mask := maskOf (((p :: ps).filter (fun q => q.2.2.1 == p.2.2.1)).map (·.1))
      if p.2.2.1 == cMachineCheck then .check (s.walkBad c p.2.2.2).toList mask p.2.2.2 ((lanesOf mask).map (fun l => (l, f.d.toNat, 8))) else .trap p.2.2.1 mask p.2.2.2
    | [] =>
      let dark := (feet.filter (fun p => p.2 == .border)).map (·.1)
      let lit := (feet.filter (fun p => p.2 == .ok)).map (·.1)
      let index (l : Nat) : Nat := (x.w.vreg l (f.a.toNat + 3)).toNat
      let marks := (dark.filter (fun l => t.marks != 0 && index l < t.nmark)).map (fun l =>
        (({ lane := l, va := t.marks + index l / 8, n := 1 } : LaneAcc), s.markAt c own view (t.marks + index l / 8)))
      let bad := lit.filterMap (fun l => (((t.footprint (reg l f.a 3) (reg l f.b 8)).flatMap (fun a => seenRest (x.seen l) a t.es)).findSome? (fun q =>
        s.unreadable c own view q.1 q.2)).map (fun b => (l, b.1, b.2))) ++
        marks.filterMap (fun m => match m.2 with | .bad va pa => some (m.1.lane, va, pa) | _ => none)
      match dataCheckTo x f.d.toNat 8 bad with
      | some r => r
      | none =>
        let blocked := feet.filterMap (fun q => match q.2 with | .owned va n => some (q.1, Wait.owned va n) | _ => none)
        let held := feet.filterMap (fun q => match q.2 with | .convert hs => some (q.1, hs) | _ => none)
        let parked := feet.filterMap (fun q => match q.2 with | .park va on => some (q.1, va, on) | _ => none)
        let s1 := blocked.foldl (fun s b => s.block x.wid [b.1] b.2) (s.park x.wid false parked)
        let s1 := held.foldl (fun s q => q.2.foldl (fun s h => s.holdRead x [q.1] { lane := q.1, va := h.1, n := h.2.1 } h.2.2) s) s1
        let stay := blocked.map (·.1) ++ held.map (·.1) ++ parked.map (·.1)
        let s2 := marks.foldl (fun s m => match m.2 with
          | .set pas => s.setMark x.wid m.1.va pas (index m.1.lane % 8)
          | .convert i => s.holdAccess core x.wid x.pc (.tex f) [m.1.lane] i m.1 0 [index m.1.lane % 8] []
          | .owned => s.holdAccess core x.wid x.pc (.tex f) [m.1.lane] lateMarks m.1 0 [index m.1.lane % 8, bayTo x f, core] []
          | _ => s) s1
        let s3 := s2.updWave x.wid (fun w => (dark.filter (fun l => !stay.contains l)).foldl (fun w l =>
          w.setVs l f.d.toNat (List.replicate 8 (BitVec.ofNat 32 t.border))) w)
        let fills := lit.flatMap (fun l =>
          let ws := t.sample (reg l f.a 3) (reg l f.b 8) (fun j => Config.freeNat (s.freeKey x.wid (s.fresh + 8 * l + j)
              (x.pc.toNat :: l :: j :: x.uval f.c 2 :: (reg l f.a 3 ++ reg l f.b 8))))
            (fun a => t.value (ofBytes (seenBytes (x.seen l) a t.es (fun b n => toBytes n (s.viewNum c own view b n)))))
          (List.range 8).map (fun j => { lane := l, code := f.d.toNat + j, val := BitVec.ofNat 64 (ws.getD j 0) : Fill }))
        let s4 := { s3.requestOn core (bayTo x f) x.wid .texture f.d.toNat 8 fills lit with fresh := s.fresh + 256 }
        .go s4 stay)

/-- `TEX` (R489). -/
def execTex (f : FmtX) (s : State) : Host.Outcome State Fault Refusal := issue (.tex f) f.h (semTex f) s

/-- `TEXQ` (R145, R491), clearing or reading: the target's texture unit makes the accesses, as requests of its core (R24, R207). -/
def semTexq (f : FmtX) (clear : Bool) (x : Iss) (s : State) : Res :=
  x.orAnswer f.d.toNat s <| withTexture f x s (fun t _ core =>
    let x : Iss := { x with w := { x.w with core := core, bay := bayTo x f } }
    let word (l : Nat) : Nat := x.rd l f.a 1 % 2 ^ 32
    let hits (l : Nat) : Bool := t.marks != 0 && 32 * word l < t.nmark
    let as := (x.lanes.filter hits).map (fun l => { lane := l, va := t.marks + 4 * word l, n := 4 : LaneAcc })
    match s.phase x as (if clear then .write else .read) (fun c a => clear && c.needsMcst a.va a.n) with
    | .error r => r.emptying x f.d.toNat 1
    | .ok p =>
      match dataCheckTo x f.d.toNat 1 (badLanes p.s x.wid p.go) with
      | some r => r
      | none =>
      let (olds, s) := p.s.rmwLanes x.wid (fun _ _ => if clear then some 0 else none) p.go
      let none0 := (x.lanes.filter (fun l => !hits l)).map (fun l => (l, toBytes 4 0))
      let s := s.deliverOn core x.w.bay x.wid .marks f.d.toNat (olds ++ none0) (p.slots core)
      .go (p.holdAll s x (if clear then .texq f else .texqRead f) .marks f.d.toNat 1 (fun _ => []))
        (p.stay ++ x.awaits f.d.toNat p.held))

/-- `TEXQ` (R491). -/
def execTexq (f : FmtX) (s : State) : Host.Outcome State Fault Refusal := issue (.texq f) f.h (semTexq f true) s

/-- `TEXQ.READ` (R491). -/
def execTexqRead (f : FmtX) (s : State) : Host.Outcome State Fault Refusal := issue (.texqRead f) f.h (semTexq f false) s

/-- `TEX_SAMPLE_COMPLETE` (R142, R146): the packet becomes full; or a mark that waited for its line is set (R144). -/
def execTexSampleComplete (req : Nat) (s : State) : Host.Outcome State Fault Refusal :=
  commit s ((s.reply req (· == .texture)).lateMark req)

/-- `TRACE` (R155, R493): the ray, the root and the mask are read at issue. -/
def semTrace (f : FmtX) (x : Iss) (s : State) : Res :=
  match x.uniformFault f.b 2 with
  | some (m, v) => .trap cUniform m v
  | none => match s.target x f true true with
    | none => placeRange x f
    | some core =>
      let mask (l : Nat) : Nat := if f.c.toNat == 511 then 0xFF else x.rd l f.c 1 % 256
      .go (s.requestOn core (bayTo x f) x.wid (.walk (f.fn.toNat == 1) f.d.toNat (x.act.map (fun l =>
        (l, (x.w.vregs l f.a.toNat 8).map BitVec.toNat ++ [x.uval f.b 2, mask l])))) f.d.toNat 8 [] x.act) []

/-- `TRACE` (R492). -/
def execTrace (f : FmtX) (s : State) : Host.Outcome State Fault Refusal := issue (.trace f) f.h (semTrace f) s

/-- How a read of a walk ends: bytes as a number, a fetch fault, a wait, or an uncorrectable error (R156). -/
inductive Fetch where
  | ok (v : Nat)
  | fault (va : Nat)
  | wait (on : List (MissOn × Nat))
  | held (va n : Nat)
  | bad (va pa : Nat)

/-- A read of `n` bytes for a walk of a team, where they stand now (R320); one that has met a block whose chain of fills was abandoned is a
fetch fault, whatever became of the block since (R242). -/
def State.walkRead (s : State) (c : Ctx) (g : GridId) (view : Option TeamId) (req : Nat) (lost : List Nat) (va n : Nat) : Fetch :=
  if lost.contains va then .fault va else
  let own := s.ownBlock g
  let p := s.placesOf (0, req) partAct
  let xs := (p.spread va n).map (fun q => (q, s.xlateAll c own q.1 q.2 .read))
  match p.lost va n, xs.foldr (fun x r => x.2.join r) (.ok []) with
  | some a, _ => .fault a
  | none, .fault _ cause a => if cause == cMachineCheck then .bad va ((s.walkBad c a).getD 0) else .fault a
  | none, .wait on => .wait (on.map (fun m => (m, va)))
  | none, .ok _ =>
    if xs.any (fun x => s.ownedBut (0, req) partAct c.asid x.1.1 x.1.2 ||
        ((s.viaCtx c (0, req) partAct x.1.1).converting x.1.1 x.1.2).isSome) then .held va n else
    match xs.findSome? (fun x => s.unreadable c own view x.1.1 x.1.2) with
    | some (a, pa) => .bad a pa
    | none => .ok (ofBytes (xs.flatMap (fun x => s.viewBytes view x.1.1 x.2.pas)))

/-- A hit (R154). -/
structure Hit where
  t : Nat
  u : Nat
  v : Nat
  prim : Nat
  inst : Nat
  deriving DecidableEq, Repr

/-- The order of hits: least t as F32, then instance, then primitive (R154). -/
def Hit.before (a b : Hit) : Bool :=
  lt32 a.t b.t || (!lt32 b.t a.t && (a.inst < b.inst || (a.inst == b.inst && a.prim < b.prim)))

/-- A place on a walk's stack: a reference, its level, its tnear, and the instance with the ray in its space. -/
structure Node where
  ref : Nat
  level : Nat
  tnear : Nat
  inst : Option Nat
  ray : Ray
  deriving DecidableEq, Repr

/-- A walk in progress: the status bits, the best hit, the nodes visited, and why it ended. -/
structure WalkState where
  status : Nat
  best : Option Hit
  nodes : Nat
  deriving DecidableEq, Repr

/-- How a walk ends. -/
inductive WalkEnd where
  | done (w : WalkState)
  | fault (w : WalkState) (va : Nat)
  | wait (w : WalkState) (on : List (MissOn × Nat))
  | held (va n : Nat)
  | bad (va pa : Nat)

/-- A structural error (R156 bit 1). -/
def WalkState.wrong (w : WalkState) : WalkState := { w with status := w.status ||| 2 }

/-- Words of a record. -/
def recWords (v n : Nat) : List Nat := (List.range n).map (fun i => nfield v (32 * i + 31) (32 * i))

/-- The slab test of one child (R149): tnear where it may be entered, before the test against tbest. -/
def slab (node : Nat) (r : Ray) (c : Nat) : Option Nat :=
  let axis (a : Nat) : Option (Nat × Nat) :=
    let e := nfield node (103 + 8 * a) (96 + 8 * a)
    let sc : Val := .fin false (pow2 ((e : Int) - 127))
    let org := d32 (nfield node (32 * a + 31) (32 * a))
    let q (k : Nat) : Val := .fin false ((nfield node (48 * c + 128 + 8 * k + 7) (48 * c + 128 + 8 * k) : Nat) : Rat)
    let lo := (fFma 10 .rdn (q a) sc org).1
    let hi := (fFma 10 .rup (q (a + 3)) sc org).1
    let inv := div32 0x3F800000 (r.d.getD a 0)
    let tl := mul32 (sub32 lo (r.o.getD a 0)) inv
    let th := mul32 (sub32 hi (r.o.getD a 0)) inv
    if nan32 tl || nan32 th then none else some (if lt32 th tl then (th, tl) else (tl, th))
  let axes := [axis 0, axis 1, axis 2].filterMap id
  let near := axes.foldl (fun m p => if lt32 m p.1 then p.1 else m) 0xFF800000
  let far := axes.foldl (fun m p => if lt32 p.2 m then p.2 else m) 0x7F800000
  let tnear := if lt32 r.tmin near then near else r.tmin
  let tfar := (fMul 10 .rup (d32 far) (.fin false (1 + pow2 (-20)))).1
  if le32 tnear tfar then some tnear else none

/-- Put a child among those of ascending tnear, after its equals. -/
def byNear (n : Node) : List Node → List Node
  | [] => [n]
  | m :: ms => if lt32 n.tnear m.tnear then n :: m :: ms else m :: byNear n ms

/-- Whether a child reference is well formed (R147), in an instance or not. -/
def refOk (ref : Nat) (inside : Bool) : Bool :=
  let ty := nfield ref 63 62
  let cnt := nfield ref 61 56
  nfield ref 5 0 == 0 && (if ty == 2 then cnt != 0 else cnt == 0) && !(ty == 3 && inside)

/-- A read's result passed on to a walk, or the end of the walk (R156). -/
def Fetch.on (r : Fetch) (w : WalkState) (go : Nat → WalkEnd) : WalkEnd :=
  match r with
  | .ok v => go v
  | .fault a => .fault w a
  | .wait on => .wait w on
  | .held va n => .held va n
  | .bad a pa => .bad a pa

/-- One record of a leaf block (R150, R152, R154). -/
def leafRecord (n : Node) (rec : Nat) (w : WalkState) : WalkState :=
  if nfield rec 511 416 != 0 then w.wrong
  else
    let r := leafTest n.ray (recWords rec 12)
    if !r.2.2.2 then w else
    let h : Hit := { t := r.1, u := r.2.1, v := r.2.2.1, prim := nfield rec 415 384, inst := n.inst.getD 0xFFFFFFFF }
    match w.best with
    | none => { w with best := some h }
    | some b => if h.before b then { w with best := some h } else w

/-- The records of a leaf block at the VAs given, each read when it is tested: in any-hit mode none after the first hit (R154). -/
def leafBlock (read : Nat → Nat → Fetch) (any : Bool) (n : Node) (go : WalkState → WalkEnd) : List Nat → WalkState → WalkEnd
  | [], w => go w
  | va :: vs, w =>
    if any && w.best.isSome then go w
    else (read va 64).on w (fun rec => leafBlock read any n go vs (leafRecord n rec w))

/-- The entered children of a node, in the order of their visits (R148, R149, R154), and the structural errors met. DESIGN CHOICE (log 78):
the root is level 1, and each node, leaf block and instance below counts as a level; a child deeper than level 64 sets bit 1 before
its box is tested. -/
def childrenOf (v : Nat) (n : Node) (w : WalkState) : List Node × WalkState :=
  (List.range 8).foldl (fun (p : List Node × WalkState) c =>
    let ref := nfield v (64 * c + 575) (64 * c + 512)
    let q (k : Nat) : Nat := nfield v (48 * c + 128 + 8 * k + 7) (48 * c + 128 + 8 * k)
    if nfield ref 63 62 == 0 then (if refOk ref n.inst.isSome then p else (p.1, p.2.wrong))
    else if !refOk ref n.inst.isSome || (List.range 3).any (fun a => q a > q (a + 3)) || n.level ≥ 64 then (p.1, p.2.wrong)
    else match slab v n.ray c with
      | none => p
      | some t => (byNear { n with ref := ref, level := n.level + 1, tnear := t } p.1, p.2)) ([], w)

/-- The walk (R154): depth first over a stack; `fuel` bounds the places visited. DESIGN CHOICE (log 78): a walk ends, with bit 4, only
where a node after the 1,048,576th would be visited; blocks and instances that stand before it are still tested. DESIGN CHOICE
(log 79): an instance whose `INST` is 0xFFFF_FFFF is entered like any other, with no status bit. -/
def walkFrom (read : Nat → Nat → Fetch) (any : Bool) (mask tmax : Nat) : Nat → List Node → WalkState → WalkEnd
  | 0, _, w => .done w
  | _, [], w => .done w
  | fuel + 1, n :: ns, w =>
    let tbest := match w.best with | some b => if any then tmax else b.t | none => tmax
    let ty := nfield n.ref 63 62
    let va := nfield n.ref 55 0
    if any && w.best.isSome then .done w
    else if !le32 n.tnear tbest then walkFrom read any mask tmax fuel ns w
    else if ty == 0 then walkFrom read any mask tmax fuel ns w
    else if ty == 2 then
      leafBlock read any n (walkFrom read any mask tmax fuel ns) ((List.range (nfield n.ref 61 56)).map (fun i => va + 64 * i)) w
    else if ty == 1 then
      if w.nodes ≥ 1048576 then .done { w with status := w.status ||| 16, best := if any then none else w.best }
      else (read va 128).on w (fun v =>
        let w := { w with nodes := w.nodes + 1 }
        if nfield v 127 120 != 0 || nfield v 103 96 == 255 || nfield v 111 104 == 255 || nfield v 119 112 == 255 then
          walkFrom read any mask tmax fuel ns w.wrong
        else
          let (cs, w) := childrenOf v n w
          walkFrom read any mask tmax fuel (cs ++ ns) w)
    else (read va 64).on w (fun v =>
      let root := nfield v 447 384
      if nfield v 511 488 != 0 || (nfield root 63 62 != 1 && nfield root 63 62 != 2) || !refOk root true then
        walkFrom read any mask tmax fuel ns w.wrong
      else if nfield v 487 480 &&& mask == 0 then walkFrom read any mask tmax fuel ns w
      else if n.level ≥ 64 then walkFrom read any mask tmax fuel ns w.wrong
      else
        let m := recWords v 12
        let ray := { n.ray with o := (List.range 3).map (moveO m n.ray.o), d := (List.range 3).map (moveD m n.ray.d) }
        walkFrom read any mask tmax fuel
          ({ ref := root, level := n.level + 1, tnear := n.tnear, inst := some (nfield v 479 448), ray := ray } :: ns) w)

/-- The eight result words of a walk (R155, R156). -/
def walkWords (status : Nat) (best : Option Hit) (va : Nat) : List Nat :=
  match best with
  | some h => [h.t, h.u, h.v, h.prim, h.inst, status ||| 1, va % 2 ^ 32, va / 2 ^ 32 % 2 ^ 32]
  | none => [0x7F800000, 0, 0, 0xFFFFFFFF, 0xFFFFFFFF, status, va % 2 ^ 32, va / 2 ^ 32 % 2 ^ 32]

/-- The walk of a lane from its ray, root and mask (R154 to R156): the words, or why there are none yet. -/
def walkLane (read : Nat → Nat → Fetch) (any : Bool) (v : List Nat) : List Nat ⊕ WalkEnd :=
  let r := rayOf v
  let root := v.getD 8 0
  if (v.take 8).any nan32 || lt32 r.tmax r.tmin then .inl (walkWords 4 none 0)
  else if !refOk root false then .inl (walkWords 2 none 0)
  else match walkFrom read any (v.getD 9 0) r.tmax (2 ^ 25) [{ ref := root, level := 1, tnear := r.tmin, inst := none, ray := r }]
      { status := 0, best := none, nodes := 0 } with
    | .done w => .inl (walkWords w.status w.best 0)
    | .fault w a => .inl (walkWords (w.status ||| 8) none a)
    | e => .inr e

/-- `TRACE_WALK_END` (R154 to R157): every lane's walk ends and the eight registers become full, or a read holds the walk. A block whose
chain of fills was abandoned ends the walk as a fetch fault (R242). It ends once its requests are past the pseudo-channels (R217). -/
def endWalk (req : Nat) (s : State) : State :=
  match s.reqs.find? (fun r => r.id == req) with
  | none => s
  | some r => match r.kind, s.ctx? (asidOf r.wave) with
    | .walk any d rays, some c =>
      let g := r.wave.team.grid
      if s.idleGrid g || s.atChannel (.request req) then s else
      let kept := s.stalls.filter (fun h => h.work == (0, req) && match h.st with | .failed _ => true | _ => false)
      let s := s.unstall (0, req)
      let res := rays.map (fun p => (p.1, walkLane (s.walkRead c g (s.viewOf r.wave) req (kept.map (·.va))) any p.2))
      let on := res.flatMap (fun p => match p.2 with | .inr (.wait _ on) => on | _ => [])
      let stuck := res.any (fun p => match p.2 with | .inr (.wait _ _) | .inr (.held _ _) => true | _ => false)
      let s := if stuck then s.holdBytes c (0, req) partAct (res.filterMap (fun p => match p.2 with | .inr (.held va n) => some (va, n) | _ => none))
        else s.dropBytes (0, req)
      if stuck then ({ s with stalls := s.stalls ++ kept } : State).engAsk (asidOf r.wave) (.wave r.wave) false (some (0, req)) on else
      let fills := res.flatMap (fun p => match p.2 with
        | .inl ws => (List.range 8).map (fun j => { lane := p.1, code := d + j, val := BitVec.ofNat 64 (ws.getD j 0) : Fill })
        | .inr _ => [])
      let bad := res.filterMap (fun p => match p.2 with | .inr (.bad va pa) => some (p.1, va, pa) | _ => none)
      let dead := bad.map (·.1)
      let s := s.updWave r.wave (fun w =>
        let keep := w.empties.filter (fun e => e.2 == req && dead.contains (vkeyLane e.1))
        let w := w.install req fills
        { w with empties := w.empties ++ keep.map (fun e => (e.1, 0)) })
      ({ s with reqs := s.reqs.filter (fun q => q.id != req) } : State).dataError r.wave bad
    | _, _ => s

/-- `TRACE_WALK_END` (R157). -/
def execTraceWalkEnd (req : Nat) (s : State) : Host.Outcome State Fault Refusal := commit s (endWalk req s)

end Sys2Proof.Machine
end

