-- ==== Sys2Proof/Machine/Contexts.lean ====
section
/-!
DEFINITION. Commands to the part and the contexts they make (18_host_security_power.md R354 to R360; 11 R229, R234 to R236;
13 R271, R288; 17 R346, R348 to R352, R514): how a command starts, ends and is refused, `CTX_CREATE`, `CTX_DESTROY`, `MAP`, `UNMAP` and
`PREEMPT`.
-/
namespace Sys2Proof.Machine

/-- Word i of a body (R357). -/
def bodyWord (b : List DWord) (i : Nat) : Nat := (b.getD i 0).toNat

/-- Whether a word has a bit set outside the fields of a list, given by their highest and lowest bits (R357). -/
def strayBits (w : Nat) (fields : List (Nat × Nat)) : Bool :=
  (bitsSet 64 w).any (fun i => !fields.any (fun f => f.2 ≤ i && i ≤ f.1))

/-- Whether a body has a reserved bit set: the fields of its words from word 0; words past the list are reserved (R357). -/
def strayBody (b : List DWord) (fields : List (List (Nat × Nat))) : Bool :=
  (List.range b.length).any (fun i => strayBits (bodyWord b i) (fields.getD i []))

/-- The queue and context of a command's header. -/
def hq (h : CmdHeader) : Nat := h.queue.toNat
def ha (h : CmdHeader) : Nat := h.asid.toNat

/-- A running command of a queue completes (R271, R356). -/
def State.endCmd (s : State) (h : CmdHeader) (status value : Nat) : State := s.finishCmd (ha h) (hq h) status value

/-- A read or write on the command's behalf fails (R223, R238, R513): `STATUS` 2, or 4 with a status block record. -/
def State.failCmd (s : State) (h : CmdHeader) (cause va : Nat) : State :=
  if cause == cMachineCheck then (s.logVa (ha h) va).endCmd h 2 0
  else (s.writeStatus (ha h) (StatusRec.plain cause va 0) 1 0).endCmd h 4 0

/-- A command joins the end of its queue. -/
def Ctx.enqueue (c : Ctx) (q : Nat) (k : Cmd) : Ctx :=
  { c with queued := (c.queued.filter (fun p => p.1 != q)) ++ [(q, cellGet [] c.queued q ++ [k])] }

/-- The command that runs in a queue. -/
def Ctx.runs (c : Ctx) (q : Nat) : Option Cmd := (c.running.find? (fun p => p.1 == q)).map (·.2)

/-- Whether a stopped context lets a command go on: a stopping `PREEMPT` alone (R288, R359). -/
def isStop (h : CmdHeader) (b : List DWord) : Bool := h.cmd.toNat == 0x0E && bodyWord b 0 % 2 == 0

/-- A queued command is carried out (R271, R346, R355, R370, R374): refused without a live context and queue, with `STATUS` 3 in a
killed context; it starts, goes on, or waits behind the command that runs and while the context is stopped. -/
def queued (h : CmdHeader) (b : List DWord) (go : Ctx → Cmd → State → State) (s : State) : Host.Outcome State Fault Refusal :=
  commit s (
    if s.shutdown then s
    else if s.recovery then s.completeCmd h (ha h) 1 0
    else match s.ctx? (ha h) with
      | none => s.completeCmd h (ha h) 1 0
      | some c =>
        if hq h ≥ c.nq then s.completeCmd h (ha h) 1 0
        else if c.killed && h.cmd.toNat != 0x10 then (s.countDone c.asid (hq h)).completeCmd h (ha h) 3 0
        else
          let held := c.stopped && !isStop h b
          match c.runs (hq h) with
          | some k =>
            if k.h = h ∧ k.body = b then (if held then s else go c k s)
            else s.updCtx c.asid (fun c => c.enqueue (hq h) { h := h, body := b, step := 0 })
          | none =>
            let k : Cmd := { h := h, body := b, step := 0 }
            if held then s.updCtx c.asid (fun c => c.enqueue (hq h) k)
            else go c k (s.updCtx c.asid (fun c => { c with running := c.running ++ [(hq h, k)] })))

/-- A control command is carried out (R355, R370): in recovery only `QUERY` and `ATTEST` of the package are. -/
def control (h : CmdHeader) (go : State → State) (s : State) : Host.Outcome State Fault Refusal :=
  commit s (if s.recovery && !h.pkg then s.completeCmd h (if h.cmd == 1 then 0 else ha h) 1 0 else go s)

/-- A control command on a context that must be there, and live (R346, R355). -/
def controlCtx (h : CmdHeader) (go : Ctx → State → State) (s : State) : Host.Outcome State Fault Refusal :=
  control h (fun s => match s.ctx? (ha h) with
    | none => s.completeCmd h (ha h) 1 0
    | some c => go c s) s

/-- `UNKNOWN_CMD_MESSAGE` (R354, R356): refused on its header. -/
def execUnknownCmdMessage (h : CmdHeader) (s : State) : Host.Outcome State Fault Refusal :=
  commit s (if s.shutdown then s else s.completeCmd h (if h.cmd == 1 then 0 else ha h) 1 0)

/-- A read that a command makes on its context's behalf (R513): the number read, or what to do instead; a block that it meets is filled
(R240, R242). -/
def State.cmdRead (s : State) (c : Ctx) (h : CmdHeader) (va n : Nat) (go : State → Nat → State) : State :=
  let work := cmdWork c.asid (hq h)
  match s.stallCause work with
  | some (cause, v) => (s.unstall work).failCmd h cause v
  | none =>
    let s := s.unstall work
    match s.workRead c work va n with
    | (.ok, v) => go s v
    | (.wait on, _) => (s.holdBytes c work partAct [(va, n)]).engAsk c.asid (.node 0 0) false (some work) on
    | (.fault cause v, _) => s.failCmd h cause v

/-- Whether two ranges of a base and a length overlap. -/
def overlaps (a m b n : Nat) : Bool := a < b + n && b < a + m && m != 0 && n != 0

/-- The physical range of a context's heap, empty without one (R228). -/
def heapPa (base limit off : Nat) : Nat × Nat := if limit == 0 then (0, 0) else ((base + off) % 2 ^ 64, limit)

/-- A context's areas named by physical address (R219, R358). -/
def Ctx.areas (c : Ctx) : List (Nat × Nat) :=
  [(c.savePa, c.saveSz * 2 ^ 16), (c.spillPa, c.spillSz * 2 ^ 16), (c.mergePa, c.mergeSz * 2 ^ 16), (c.qAreaPa, c.qAreaSz * 2 ^ 16)] ++
    (match c.experts with | some e => [(e.spill, e.spsize * 2 ^ 16)] | none => [])

/-- The frame pool of a range. -/
def ProcRange.poolRange (p : ProcRange) : Nat × Nat := (p.pool, p.nfrm * (if p.big then 2 ^ 21 else 2 ^ 16))
def ProcRange.vaRange (p : ProcRange) : Nat × Nat := (p.base, p.nblk * (if p.big then 2 ^ 21 else 2 ^ 16))

/-- Fields of the `CTX_CREATE` body (R358): the named bits of each word. -/
def ctxFields : List (List (Nat × Nat)) :=
  [[(51, 13)], [(55, 16)], [(56, 16)], [(63, 16)], [(55, 16)], [(51, 16)], [(63, 0)], [(51, 16)], [(55, 16)], [(63, 0)],
   [(51, 16)], [(51, 16)], [(55, 6)], [(55, 8)], [(4, 0)], [(51, 0)], [(63, 0)], [(63, 0)], [(27, 16), (11, 0)], [(55, 0)],
   [(63, 0)], [(63, 0)], [(63, 0)], [(63, 0)]]

/-- The entries of each hardware queue (R57, R358), `none` for a code above 11. -/
def queueSizes (b : List DWord) : List (Option Nat) :=
  (List.range 64).map (fun i =>
    let k := nfield (bodyWord b (20 + i / 16)) (4 * (i % 16) + 3) (4 * (i % 16))
    if k == 0 then some 0 else if k ≤ 11 then some (2 ^ (k + 5)) else none)

/-- The context that a body describes (R358), its rank table still to be read. -/
def newCtx (asid : Nat) (b : List DWord) : Ctx :=
  let w := bodyWord b
  let f := nfield (w 15) 47 32
  let q (i : Nat) : Nat := nfield (w (16 + i / 8)) (8 * (i % 8) + 7) (8 * (i % 8))
  { asid := asid, ptroot := BitVec.ofNat 64 (w 0), heapBase := BitVec.ofNat 64 (w 1), heapLimit := BitVec.ofNat 64 (w 2),
    heapOff := BitVec.ofNat 64 (w 3), tsb := w 4, savePa := w 5, saveSz := nfield (w 6) 31 0, spillPa := w 7, spillVa := w 8,
    spillSz := nfield (w 9) 31 0, mergePa := w 10, mergeSz := nfield (w 9) 63 32, qAreaPa := w 11, qAreaSz := nfield (w 6) 63 32,
    statusVa := w 12, ring := w 13, ringN := w 14, wd := nfield (w 15) 31 0, f := if f == 0 then 256 else f,
    nq := nfield (w 15) 51 48 + 1, qprio := (List.range 16).map q, drank := BitVec.ofNat 64 (w 18), ranks := [],
    qsize := (queueSizes b).map (·.getD 0), queued := [], running := [], qlevel := [], qdone := [], hwq := [], pops := [],
    missed := [], spillUsed := 0, mergeUsed := 0, trigN := 0, lseq := 0, place := [], shards := [], demands := [], demanded := [],
    procs := [], experts := none, nrec := 0, stState := 0, kcause := 0, stopped := false, acks := [], graphLog := [],
    pageReqs := [], killed := false }

/-- Whether a list of ranges has two that overlap. -/
def anyOverlap : List (Nat × Nat) → Bool
  | [] => false
  | a :: l => l.any (fun b => overlaps a.1 a.2 b.1 b.2) || anyOverlap l

/-- Whether R358, R229 or R166 refuses a body, apart from its rank table and the ASIDs. -/
def State.ctxRefused (s : State) (b : List DWord) : Bool :=
  let c := newCtx 0 b
  let hb := c.heapBase.toNat
  let hl := c.heapLimit.toNat
  let hp := heapPa hb hl c.heapOff.toNat
  let f := nfield (bodyWord b 15) 47 32
  let areas := c.areas.filter (fun a => a.2 != 0)
  let ndev := field c.drank 27 16
  strayBody b ctxFields || c.saveSz < 9216 || c.statusVa == 0 || (c.ringN != 0 && (c.ringN < 4 || c.ringN > 16)) ||
    (1 ≤ f && f ≤ 15) || (queueSizes b).any (·.isNone) || field c.drank 11 0 > ndev || (bodyWord b 19 == 0 && ndev != 0) ||
    (hl != 0 && (hb + hl > 2 ^ 56 || !inDevice hp.1 hp.2 || s.touchesRemoved hp.1 hp.2)) ||
    c.areas.any (fun a => if a.2 == 0 then a.1 != 0 else !inDevice a.1 a.2 || s.touchesRemoved a.1 a.2) ||
    anyOverlap areas || areas.any (fun a => overlaps a.1 a.2 hp.1 hp.2) ||
    areas.any (fun a => s.ctxs.any (fun d => d.procs.any (fun p => overlaps a.1 a.2 p.2.poolRange.1 p.2.poolRange.2))) ||
    c.qAreaSz * 2 ^ 16 < 8 * c.qsize.sum || overlaps c.spillVa (c.spillSz * 2 ^ 16) hb hl

/-- The rank table (R358), `none` when some entry of it cannot be read. -/
def State.rankTable (s : State) (c : Ctx) (va n : Nat) : Option (List Nat) :=
  if va == 0 then some [] else
  match s.xlateAll c none va (4 * n) .read with
  | .ok pas =>
    if (s.badPas pas).isSome then none else
    let bytes := s.readPas pas
    some ((List.range n).map (fun i => ofBytes ((bytes.drop (4 * i)).take 4)))
  | _ => none

/-- The lowest ASID that no context holds (R234). -/
def State.freeAsid (s : State) : Option Nat := (List.range 2048).find? (fun a => !s.ctxs.any (fun c => c.asid == a))

/-- `CTX_CREATE` (R358). -/
def semCtxCreate (h : CmdHeader) (b : List DWord) (s : State) : State :=
  match s.freeAsid with
  | none => s.completeCmd h 0 1 0
  | some asid =>
    if s.ctxRefused b then s.completeCmd h 0 1 0 else
    let c := newCtx asid b
    match s.rankTable c (bodyWord b 19) (field c.drank 27 16 + 1) with
    | none => s.completeCmd h 0 1 0
    | some ranks => ({ s with ctxs := s.ctxs ++ [{ c with ranks := ranks }] } : State).completeCmd h asid 0 asid

/-- `CTX_CREATE` (R358). -/
def execCtxCreate (h : CmdHeader) (b : List DWord) (s : State) : Host.Outcome State Fault Refusal := control h (semCtxCreate h b) s

/-- What the end of a context releases (R514, steps 3 and 4). -/
def State.releaseCtx (s : State) (asid : Nat) : State :=
  let keep (n : NodeSlot) : NodeSlot := if n.asid = some asid then NodeSlot.free else n
  let free (k : Core) : Core := { k with
    fifo := k.fifo.filter (fun e => asidOf e.wave != asid)
    graph := (k.graph.map (fun p => (p.1, keep p.2))).filter (fun p => p.2 != NodeSlot.free) }
  let s : State := { s with
    grids := s.grids.filter (fun g => g.id.asid != asid)
    teams := s.teams.filter (fun t => t.id.grid.asid != asid)
    waves := s.waves.filter (fun w => asidOf w.id != asid)
    waiting := s.waiting.filter (fun r => asidOf r.wave != asid)
    heldBytes := s.heldBytes.filter (fun b => b.asid != asid)
    updates := s.updates.filter (fun u => u.1.asid != asid)
    stalls := s.stalls.filter (fun h => h.asid != asid)
    due := s.due.filter (fun i => match i with | .conversionEnd a _ => a != asid | _ => true)
    held := s.held.filter (fun x => x.asid != asid)
    peers := s.peers.filter (fun p => p.asid != asid)
    tlb := s.tlb.filter (fun e => e.asid != asid)
    ctxs := s.ctxs.filter (fun c => c.asid != asid)
    cores := (s.cores.map (fun p => (p.1, free p.2))).filter (fun p => p.2 != Core.reset) }
  s.pushDue .teamPlacement

/-- What a killed context still has in progress ends now (R264, R346): the matrix entries that have started complete, and what its
converting entries hold is performed. -/
def State.finishKilled (s : State) (asid : Nat) : State :=
  let es := s.cores.flatMap (fun k => (k.2.fifo.filter (fun e => e.started && asidOf e.wave == asid)).map (fun e => (k.1, e.bay)))
  let held := s.waiting.filter (fun r => asidOf r.wave == asid && r.nums.length ≥ 4)
  let s := es.foldl (fun s e => completeMatrix e.1 e.2 s) s
  let s := (held.map (fun r => r.nums.headD 0)).eraseDups.foldl (fun s k => endConversion asid k s) s
  held.foldl (fun s r => s.lateMark r.id) s

/-- `CTX_DESTROY` (R514). -/
def semCtxDestroy (h : CmdHeader) (c : Ctx) (s : State) : State :=
  let s := (s.stopContext c.asid).finishKilled c.asid
  let s := c.queued.foldl (fun s p => p.2.foldl (fun s k => s.completeCmd k.h c.asid 3 0) s) s
  (s.releaseCtx c.asid).completeCmd h c.asid 0 0

/-- `CTX_DESTROY` (R514). -/
def execCtxDestroy (h : CmdHeader) (_ : List DWord) (s : State) : Host.Outcome State Fault Refusal :=
  controlCtx h (semCtxDestroy h) s

/-- How the walk towards a level ends (R360): the table it reaches, nothing it may write, or an uncorrectable error at a PA. -/
inductive Reach where
  | at (table : Nat)
  | nowhere
  | check (pa : Nat)
  deriving DecidableEq, Repr

/-- The table of a level that the walk of R231 reaches for a VA; `n` levels remain. -/
def State.tableFor (s : State) (va : Nat) : Nat → Nat → Nat → Reach
  | 0, _, table => .at table
  | n + 1, level, table =>
    let a := pteAddr table level va
    match s.badByte a 8 with
    | some pa => .check pa
    | none => match s.pteAt level a with
    | .table t => s.tableFor va n (level + 1) t
    | _ => .nowhere

/-- The pages under a table: VA, size and PA; `fuel` levels remain (R230). -/
def State.leaves (s : State) : Nat → Nat → Nat → Nat → List (Nat × Nat × Nat)
  | 0, _, _, _ => []
  | fuel + 1, level, table, va => (List.range 1024).flatMap (fun i =>
      let at' := va + i * 2 ^ pageBits level
      match s.pteAt level (table + 8 * i) with
      | .page pa _ _ => [(at', 2 ^ pageBits level, pa)]
      | .table t => s.leaves fuel (level + 1) t at'
      | _ => [])

/-- The pages that an entry maps. -/
def State.leavesOf (s : State) (level a va : Nat) : List (Nat × Nat × Nat) :=
  match s.pteAt level a with
  | .page pa _ _ => [(va, 2 ^ pageBits level, pa)]
  | .table t => s.leaves (3 - level) (level + 1) t va
  | _ => []

/-- The pages a context's tables map. -/
def State.ctxLeaves (s : State) (c : Ctx) : List (Nat × Nat × Nat) := s.leaves 4 0 c.ptroot.toNat 0

/-- Fill a range with zeros: every byte of it that does not read zero is written, and blocks it covers are restored (R224). -/
def State.zeroRange (s : State) (pa n : Nat) : State :=
  let inside (a : Nat) : Bool := pa ≤ a && a < pa + n
  let hit := ((s.stores.map (·.1)) ++ (s.mem.map (·.1))).filter inside
  let whole (k : Nat) : Bool := pa ≤ 64 * k && 64 * k + 64 ≤ pa + n
  { s with stores := hit.map (fun a => (a, 0)) ++ s.stores,
           retired := s.retired.filter (fun k => !whole k), badBlocks := s.badBlocks.filter (fun k => !whole k) }

/-- What a page command does at the entries it names, once R357 and R360 accept its fields: their addresses and VAs. -/
structure PteOp where
  level : Nat
  va : Nat
  count : Nat
  table : Nat
  deriving DecidableEq, Repr

def PteOp.addr (o : PteOp) (i : Nat) : Nat := pteAddr o.table o.level (o.va + i * 2 ^ pageBits o.level)
def PteOp.addrs (o : PteOp) : List Nat := (List.range o.count).map o.addr
def PteOp.size (o : PteOp) : Nat := o.count * 2 ^ pageBits o.level

/-- The common part of `MAP` and `UNMAP` (R360): the fields, the walk, and the entries readable and writable. -/
def State.pteOp (s : State) (c : Ctx) (h : CmdHeader) (b : List DWord) (go : PteOp → State) : State :=
  let level := nfield (bodyWord b 3) 1 0
  let va := bodyWord b 0
  let count := bodyWord b 2
  let index := va / 2 ^ pageBits level % 1024
  if va % 2 ^ pageBits level != 0 || count == 0 || count > 1024 || index + count > 1024 then s.endCmd h 1 0 else
  match s.tableFor va level 0 c.ptroot.toNat with
  | .nowhere => s.endCmd h 1 0
  | .check pa => (s.logBad pa).endCmd h 2 0
  | .at table =>
    let o : PteOp := { level := level, va := va, count := count, table := table }
    if o.addrs.any (fun a => !s.backed a) then s.endCmd h 1 0
    else match o.addrs.findSome? (fun a => s.badByte a 8) with
      | some pa => (s.logBad pa).endCmd h 2 0
      | none => go o

/-- Whether a miss is on a 64 KiB range within another range. -/
def onPages (va n : Nat) : MissOn → Bool
  | .page base => va ≤ base && base < va + n
  | .block _ _ => false

/-- The requesters held on a range go on, or receive a cause (R235, R236). -/
def State.pagesEnd (s : State) (asid va n : Nat) (st : MissState) : State :=
  ((s.updCtx asid (fun c => { c with pageReqs := c.pageReqs.filter (fun p => !(va ≤ p && p < va + n)) })).resolve asid
    (onPages va n) st).retryHeld asid

/-- `MAP` (R235, R236, R360). -/
def semMap (h : CmdHeader) (b : List DWord) (c : Ctx) (_ : Cmd) (s : State) : State :=
  let flags := bodyWord b 3
  let leaf := flags.testBit 2
  let pa := bodyWord b 1
  if strayBody b [[(55, 16)], [(51, 13)], [(31, 0)], [(4, 0)]] then s.endCmd h 1 0 else
  s.pteOp c h b (fun o =>
    let step := if leaf then 2 ^ pageBits o.level else 8192
    let total := o.count * step
    let hit (r : Nat × Nat) : Bool := overlaps o.va o.size r.1 r.2
    if (leaf && o.level == 0) || (!leaf && o.level == 3) || (leaf && pa % step != 0)
        || o.addrs.any (fun a => match s.pteAt o.level a with | .invalid _ => false | _ => true)
        || !(inDevice pa total || (leaf && 2 ^ 50 ≤ pa && pa + total ≤ 2 ^ 51)) || s.touchesRemoved pa total
        || hit (c.heapBase.toNat, c.heapLimit.toNat) || hit (c.spillVa, c.spillSz * 2 ^ 16)
        || c.procs.any (fun p => hit p.2.vaRange) then s.endCmd h 1 0
    else if o.addrs.any (fun a => (s.partialRetired a 8).isSome) then s.endCmd h 2 0
    else
      let s := if leaf then s else s.zeroRange pa total
      let s := (List.range o.count).foldl (fun s i =>
        s.storeBytes (o.addr i) (toBytes 8 (pa + i * step + flags / 8 % 4 * 4 + (if leaf then 3 else 1)))) s
      (s.endCmd h 0 o.count).pagesEnd c.asid o.va o.size .resolved)

/-- `MAP` (R360). -/
def execMap (h : CmdHeader) (b : List DWord) (s : State) : Host.Outcome State Fault Refusal := queued h b (semMap h b) s

/-- Whether accesses already translated through pages have still to be performed (R235): write sets, deferred updates and
matrix entries of the context, and accesses of its waves that an entry holds or has released. -/
def State.inFlight (s : State) (asid va n : Nat) (pages : List (Nat × Nat × Nat)) : Bool :=
  let at' (a : Nat) : Bool := va ≤ a && a < va + n
  let share (a : Share) : Bool := a.bytes.any (fun p => at' p.1) || a.updates.any (fun u => at' u.va)
  let phys (l : List (Nat × List (Nat × Nat))) : Bool :=
    l.any (fun x => x.2.any (fun p => pages.any (fun g => overlaps p.1 p.2 g.2.2 g.2.1)))
  s.teams.any (fun t => t.id.grid.asid == asid && share t.share) ||
    s.grids.any (fun g => g.id.asid == asid && g.left.any share) ||
    s.updates.any (fun u => u.1.asid == asid && at' u.2.2.2.va) ||
    s.cores.any (fun k => k.2.fifo.any (fun e => asidOf e.wave == asid && (phys e.dst || phys e.res))) ||
    s.waiting.any (fun r => asidOf r.wave == asid && phys [(0, r.pas.map (fun a => (a, 1)))])

/-- `UNMAP` (R235, R360). It waits for accesses under way before it writes its entries (log 13). -/
def semUnmap (h : CmdHeader) (b : List DWord) (c : Ctx) (_ : Cmd) (s : State) : State :=
  let rpl := (bodyWord b 3).testBit 5
  if strayBody b [[(55, 16)], [], [(31, 0)], [(1, 0), (5, 5)]] then s.endCmd h 1 0 else
  s.pteOp c h b (fun o =>
    let pages := (List.range o.count).flatMap (fun i => s.leavesOf o.level (o.addr i) (o.va + i * 2 ^ pageBits o.level))
    if o.addrs.any (fun a => match s.pteAt o.level a with | .invalid r => !r | _ => false) then s.endCmd h 1 0
    else if o.addrs.any (fun a => (s.partialRetired a 8).isSome) then s.endCmd h 2 0
    else if s.inFlight c.asid o.va o.size pages then s
    else
      let s := o.addrs.foldl (fun s a => s.storeBytes a (toBytes 8 (if rpl then 16 else 0))) s
      let s : State := { s with tlb := s.tlb.filter (fun e =>
        !(e.asid == c.asid && e.level ≥ o.level && overlaps o.va o.size (e.va / 2 ^ pageBits e.level * 2 ^ pageBits e.level) (2 ^ pageBits e.level))) }
      let s := s.endCmd h 0 0
      if rpl then s else s.pagesEnd c.asid o.va o.size (.failed cTranslation))

/-- `UNMAP` (R235, R360). -/
def execUnmap (h : CmdHeader) (b : List DWord) (s : State) : Host.Outcome State Fault Refusal := queued h b (semUnmap h b) s

/-- Whether a piece of a context's work is stopped by `PREEMPT`: all but that of fills (R245, R348). -/
def State.stops (s : State) (asid : Nat) (g : GridId) : Bool := g.asid == asid && !s.filling 11 g

/-- Whether a mark waits of a stopped piece of a context's work (R144, R146). -/
def State.markOf (s : State) (asid : Nat) (r : Waiting) : Bool :=
  r.nums.length ≥ 4 && r.nums.headD 0 == lateMarks && s.stops asid r.wave.team.grid

/-- The units that hold work of a context (R16, R24, R349). -/
def State.unitsOf (s : State) (asid : Nat) : List UnitId :=
  let ours (g : GridId) : Bool := s.stops asid g
  let byIssuer (i : Issuer) (a : Nat) : Bool := match i with | .wave w => ours w.team.grid | .node _ _ => a == asid
  let conv : List Demand := match s.ctx? asid with | some c => c.demands.filter (fun m => m.started) | none => []
  ((s.waves.filter (fun w => ours w.id.team.grid && (match s.team? w.id.team with | some t => !t.away | none => false))).map (fun w =>
      UnitId.issue w.core (if w.isLead then 0 else w.bay))
    ++ s.cores.flatMap (fun k => (k.2.fifo.filter (fun e => ours e.wave.team.grid)).map (fun e => UnitId.array k.1 e.bay))
    ++ (s.xfers.filter (fun t => byIssuer t.issuer t.asid)).map (fun t => UnitId.copy t.core)
    ++ (s.colls.filter (fun o => byIssuer o.issuer o.asid)).map (fun o => UnitId.collective o.die)
    ++ conv.map (fun m => UnitId.placement (m.idx % 2))
    ++ (s.reqs.filter (fun r => ours r.wave.team.grid)).flatMap (fun r => match r.kind with
        | .walk _ _ _ => [UnitId.ray r.core r.bay]
        | .texture | .marks => [UnitId.texture r.core r.bay]
        | _ => [])
    ++ (s.waiting.filter (s.markOf asid)).map (fun r => UnitId.texture (r.nums.getD 6 0) (r.nums.getD 5 0))).eraseDups

/-- The stopping `PREEMPT`s of a context complete (R349), and what they free can be taken. -/
def State.stopDone (s : State) (asid : Nat) : State :=
  match s.ctx? asid with
  | none => s
  | some c =>
    ((c.running.filter (fun p => isStop p.2.h p.2.body)).foldl (fun s p => s.finishCmd asid p.1 0 0) s).pushDue .teamPlacement

/-- Save the resident teams of a context (R288, R348, R350): their waves leave the active set and their loop buffers empty
(R37). -/
def State.saveTeams (s : State) (asid : Nat) : State :=
  let leave (w : Wave) : Wave :=
    let w := { w with active := false, age := 0, blockedFor := 0, yielded := 0, moves := [], issued := false }
    w.updThreads w.lanes (fun _ t => { t with loop := [] })
  { s with
    teams := s.teams.map (fun t => if s.stops asid t.id.grid then { t with away := true } else t)
    waves := s.waves.map (fun w => if s.stops asid w.id.team.grid then leave w else w) }

/-- `PREEMPT`, stopping (R288, R348, R349, R359). -/
def semPreemptStop (h : CmdHeader) (b : List DWord) (c : Ctx) (_ : Cmd) (s : State) : State :=
  if strayBody b [[(0, 0)]] then s.endCmd h 1 0
  else if c.stopped then (if c.acks.isEmpty then s.endCmd h 0 0 else s)
  else
    let units := s.unitsOf c.asid
    let s := (s.saveTeams c.asid).updCtx c.asid (fun c => { c with stopped := true, acks := units })
    if units.isEmpty then s.stopDone c.asid else s

/-- `PREEMPT`, stopping (R348). -/
def execPreemptStop (h : CmdHeader) (b : List DWord) (s : State) : Host.Outcome State Fault Refusal :=
  queued h b (semPreemptStop h b) s

/-- Whether a unit has stopped (R348): an array once the entry it started is complete, a texture unit once its samples are;
the others stop where they stand. -/
def State.hasStopped (s : State) (asid : Nat) (u : UnitId) : Bool :=
  match u with
  | .array core bay => !(s.core core).fifo.any (fun e => e.bay == bay && e.started && s.stops asid e.wave.team.grid)
  | .texture core bay =>
    !s.reqs.any (fun r => (r.kind == .texture || (r.kind == .marks && !s.heldReq r.id)) && s.stops asid r.wave.team.grid && r.core == core && r.bay == bay) &&
      !s.waiting.any (fun r => s.markOf asid r && r.nums.getD 6 0 == core && r.nums.getD 5 0 == bay)
  | _ => true

/-- `PREEMPT_ACKNOWLEDGEMENT` (R349). -/
def acknowledge (asid : Nat) (u : UnitId) (s : State) : State :=
  match s.ctx? asid with
  | none => s
  | some c =>
    if !c.stopped || !c.acks.contains u || !s.hasStopped asid u then s else
    let rest := c.acks.filter (· != u)
    let s := s.updCtx asid (fun c => { c with acks := rest })
    if rest.isEmpty then s.stopDone asid else s

/-- `PREEMPT_ACKNOWLEDGEMENT` (R349). -/
def execPreemptAcknowledgement (asid : Nat) (u : UnitId) (s : State) : Host.Outcome State Fault Refusal :=
  commit s (acknowledge asid u s)

/-- `PREEMPT`, resuming (R288, R352, R359): the teams wait for their places, and everything held goes on. -/
def semPreemptResume (h : CmdHeader) (b : List DWord) (c : Ctx) (s : State) : State :=
  if c.killed then s.completeCmd h c.asid 3 0
  else if strayBody b [[(0, 0)]] || !c.stopped || !c.acks.isEmpty then s.completeCmd h c.asid 1 0
  else
    let s := s.retake c.asid (fun i => match i with | .node _ _ => true | .wave _ => false) (fun m => !m.ended)
    let s := (s.updCtx c.asid (fun c => { c with stopped := false })).completeCmd h c.asid 0 0
    let s := (s.grids.filter (fun g => g.id.asid == c.asid)).foldl (fun s g =>
      (s.pushDue (.mergePerform g.id)).pushDue (.gridRetirement g.id)) s
    (s.pushDue .teamPlacement).retryHeld c.asid

/-- `PREEMPT`, resuming (R352). -/
def execPreemptResume (h : CmdHeader) (b : List DWord) (s : State) : Host.Outcome State Fault Refusal :=
  controlCtx h (semPreemptResume h b) s

end Sys2Proof.Machine
end

