-- ==== Sys2Proof/Machine/Control.lean ====
section
/-!
DEFINITION. Control instructions: `NOP`, `EXIT`, `YIELD` (21 R460; 20 R414; 22 R503), transfers (19 R392 to R394; 20 R437, R438;
21 R472), join barriers (02 R40, R41; 21 R470, R471) and `LAUNCH` (21 R440 to R442).
-/
namespace Sys2Proof.Machine

/-- The issuing threads named go to their targets, the rest of the group to the next PC. -/
def goTo (x : Iss) (s : State) (ts : List (Nat × Nat)) : Res :=
  .jump ((advance s x.wid (x.group.filter (fun l => !ts.any (fun p => p.1 == l))) x.pc).updWave x.wid (fun w =>
    ts.foldl (fun w p => w.updThread p.1 (fun t => { t with pc := BitVec.ofNat 64 p.2, run := .ready })) w))

/-- The lanes that a transfer moves: all of the group for a uniform instruction that acts on the group, else the active
lanes (R75). -/
def Iss.moving (x : Iss) : List Nat := if x.uni then x.group else x.act

/-- The direct target of a branch (R82). -/
def directTarget (f : FmtB) (pc : DWord) : Nat :=
  wrapN 64 (((pc.toNat / 64 : Nat) : Int) * 64 + f.loff.toInt * 64 + (f.slot.toNat : Int))

/-- The check of a uniform-required register under `U` (R82, R60). -/
def uniformB (f : FmtB) (n : Nat) (x : Iss) (go : Unit → Res) : Res :=
  match (if f.u && f.a.toNat != 511 then x.uniformFault f.a n else none) with
  | some (m, v) => .trap cUniform m v
  | none => go ()

/-- `NOP` (R460). -/
def execNop (f : FmtR) (s : State) : Host.Outcome State Fault Refusal := issue (.nop f) f.h (fun _ s => .go s []) s

/-- `EXIT` (R414 to R416). -/
def semExit (x : Iss) (s : State) : Res :=
  .jump ((advance s x.wid (x.group.filter (fun l => !x.act.contains l)) x.pc).endThreads x.wid x.act)

/-- `EXIT` (R414). -/
def execExit (f : FmtR) (s : State) : Host.Outcome State Fault Refusal := issue (.exit f) f.h semExit s

/-- `YIELD` (R503). -/
def execYield (f : FmtR) (s : State) : Host.Outcome State Fault Refusal :=
  issue (.yield f) f.h (fun x s => .go (if x.w.isLead then s else s.updWave x.wid (fun w => { w with yielded := 1 })) []) s

/-- `BRA` (R393, R394): a V condition is tested over 32 bits, an S register over 64. -/
def semBra (f : FmtB) (x : Iss) (s : State) : Res :=
  uniformB f 1 x (fun _ =>
    let t := directTarget f x.pc
    let taken := (x.act.filter (fun l => f.a.toNat == 511 || x.rd l f.a 1 != 0)).map (fun l => (l, t))
    transfer x s taken (fun s => goTo x s taken))

/-- `BRA` (R393). -/
def execBra (f : FmtB) (s : State) : Host.Outcome State Fault Refusal := issue (.bra f) f.h (semBra f) s

/-- `BRU` (R393): the whole group on one condition, which is uniform-required (R82, R392). -/
def semBru (f : FmtB) (x : Iss) (s : State) : Res :=
  uniformB f 1 x (fun _ =>
    if f.a.toNat == 511 || x.rd x.first f.a 1 != 0 then
      let ts := x.group.map (fun l => (l, directTarget f x.pc))
      transfer x s ts (fun s => goTo x s ts)
    else .go s [])

/-- `BRU` (R393). -/
def execBru (f : FmtB) (s : State) : Host.Outcome State Fault Refusal := issue (.bru f) f.h (semBru f) s

/-- `CALL` (R393): the link is the next PC of the `CALL`. -/
def semCall (f : FmtB) (x : Iss) (s : State) : Res :=
  let ts := x.moving.map (fun l => (l, directTarget f x.pc))
  transfer x s ts (fun s =>
    goTo x (s.updWave x.wid (fun w => x.lanes.foldl (fun w l => w.writeReg l f.a.toNat 2 (nextPc x.pc).toNat) w)) ts)

/-- `CALL` (R393). -/
def execCall (f : FmtB) (s : State) : Host.Outcome State Fault Refusal := issue (.call f) f.h (semCall f) s

/-- `RET` (R472): no `TGT` check. -/
def semRet (f : FmtB) (x : Iss) (s : State) : Res :=
  uniformB f 2 x (fun _ => goTo x s (x.moving.map (fun l => (l, x.rd (if x.uni then x.first else l) f.a 2))))

/-- `RET` (R472). -/
def execRet (f : FmtB) (s : State) : Host.Outcome State Fault Refusal := issue (.ret f) f.h (semRet f) s

/-- `JMPI` (R438). -/
def semJmpi (f : FmtB) (x : Iss) (s : State) : Res :=
  uniformB f 2 x (fun _ =>
    let ts := x.moving.map (fun l => (l, x.rd (if x.uni then x.first else l) f.a 2))
    transfer x s ts (fun s => goTo x s ts))

/-- `JMPI` (R438). -/
def execJmpi (f : FmtB) (s : State) : Host.Outcome State Fault Refusal := issue (.jmpi f) f.h (semJmpi f) s

/-- `RCVSET` (R40). -/
def semRcvset (f : FmtB) (x : Iss) (s : State) : Res :=
  let j := f.j.toNat
  let hit (v : Wait) : Bool := match v with | .rcv k _ => k == j | _ => false
  if x.w.lanes.any (fun l => (x.w.thread l).waits x.w.tlevel hit) then .trap cIllegalOperand x.actMask j
  else .go (s.updWave x.wid (fun w => w.setJoin j { w.join j with exp := x.actMask, arr := 0, ext := 0, brk := false })) []

/-- `RCVSET` (R40). -/
def execRcvset (f : FmtB) (s : State) : Host.Outcome State Fault Refusal := issue (.rcvset f) f.h (semRcvset f) s

/-- `RCV` (R41, R471): late and unexpected threads pass at once, the others join `ARR` and wait; then the release check. -/
def semRcv (f : FmtB) (x : Iss) (s : State) : Res :=
  let j := f.j.toNat
  let p := f.slot.toNat
  let b := x.w.join j
  let pass := x.act.filter (fun l => b.brk || !b.exp.getLsbD l)
  let stay := x.act.filter (fun l => !(b.brk || !b.exp.getLsbD l))
  let s := advance s x.wid (x.group.filter (fun l => !stay.contains l)) x.pc
  let s := s.updWave x.wid (fun w =>
    let w := pass.foldl (fun w l => w.setPred l p b.brk) w
    let w := w.updThreads stay (fun _ t => { t with run := .blocked (.rcv j p) })
    if stay.isEmpty then w else
    if b.arr == 0 then
      w.setJoin j { b with
        arr := maskOf stay
        bnd := if x.w.tlevel ≥ 1 then 0 else f.bound.toNat
        cnt := 0
        wdc := 0
        young := true }
    else w.setJoin j { b with arr := b.arr ||| maskOf stay })
  .jump (if stay.isEmpty then s else s.settle x.wid)

/-- `RCV` (R41). -/
def execRcv (f : FmtB) (s : State) : Host.Outcome State Fault Refusal := issue (.rcv f) f.h (semRcv f) s

/-- The creation of a child grid (R441), once its checks have passed. -/
def launchChild (f : FmtR) (r obj : Nat) (g : Grid) (x : Iss) (s : State) : Res :=
  let l := parseRec r
  let (id, s) := s.newGrid g.id.asid l (.child g.id x.wid obj) (g.depth + 1) (min l.prio g.prio) g.level
  .go ((s.updWave x.wid (fun w => x.lanes.foldl (fun w k => w.writeReg k f.d.toNat 2 id.lseq) w)).pushDue .teamPlacement) []

/-- `LAUNCH` (R441). -/
def semLaunch (f : FmtR) (x : Iss) (s : State) : Res :=
  let a := x.uval f.a 2
  let b := if f.b.toNat == 511 then 0 else x.uval f.b 2
  match x.uniformFaults ((f.a, 2) :: (if f.b.toNat == 511 then [] else [(f.b, 2)])) with
  | some (m, v) => .trap cUniform m v
  | none =>
    if a == 0 || (f.b.toNat != 511 && b == 0) then .trap cNullPointer x.actMask 0
    else if a % 64 != 0 then .trap cAlign x.actMask a
    else if b % 8 != 0 then .trap cAlign x.actMask b
    else match s.uload x a 128 with
      | .res r => r
      | .ok r => match s.grid? x.wid.team.grid with
        | none => .go s []
        | some g =>
          if recRefused r g.level false then .trap cIllegalOperand x.actMask a
          else if g.depth ≥ 10 then .trap cLaunchDepth x.actMask 0
          else together (.launch f) [a, b] (launchChild f r b g) x s

/-- `LAUNCH` (R441). -/
def execLaunch (f : FmtR) (s : State) : Host.Outcome State Fault Refusal := issue (.launch f) f.h (semLaunch f) s

end Sys2Proof.Machine
end

