-- ==== Sys2Proof/Machine/Queues.lean ====
section
/-!
DEFINITION. The commands of a context's queues that start or order work (13_scheduling.md R271, R276, R290; 18 R359, R361, R363,
R364, R369; 07 R166 to R168; 15 R315; 16 R321): `LAUNCH`, `GRAPH_NODE`, `SIGNAL`, `WAIT`, `SET_DLEVEL`, `PLACEMENT_SET`, `TRIGGER` and
`EXPERT_SET`.
-/
namespace Sys2Proof.Machine

/-- The number in some words of a body. -/
def bodyNum (b : List DWord) (first n : Nat) : Nat :=
  (List.range n).foldl (fun x i => x + bodyWord b (first + i) * 2 ^ (64 * i)) 0

/-- The level a launch takes (R290): its field, or the queue's current level. -/
def levelFor (c : Ctx) (queue dlvl : Nat) : Nat := if dlvl == 7 then cellGet 0 c.qlevel queue else dlvl

/-- `LAUNCH` (R29, R290, R369); it completes when its grid retires (R271). -/
def semLaunchCommand (h : CmdHeader) (b : List DWord) (c : Ctx) (_ : Cmd) (s : State) : State :=
  let ours (o : Origin) : Bool := match o with | .host q _ => q == hq h | _ => false
  if s.grids.any (fun g => g.id.asid == c.asid && ours g.origin) then s else
  let r := bodyNum b 0 16
  let l := parseRec r
  let level := levelFor c (hq h) l.dlvl
  if recRefused r level true then s.endCmd h 1 0
  else (s.newGrid c.asid l (.host (hq h) h.tag.toNat) 1 l.prio level).2.pushDue .teamPlacement

/-- `LAUNCH` (R369). -/
def execLaunchCommand (h : CmdHeader) (b : List DWord) (s : State) : Host.Outcome State Fault Refusal :=
  queued h b (semLaunchCommand h b) s

/-- `GRAPH_NODE` (R276, R361, R513). -/
def semGraphNode (h : CmdHeader) (b : List DWord) (c : Ctx) (_ : Cmd) (s : State) : State :=
  let core := nfield (bodyWord b 1) 5 0
  if strayBody b [[(55, 6)], [(5, 0), (15, 8)]] || core ≥ 48 then s.endCmd h 1 0 else
  s.cmdRead c h (bodyWord b 0) 64 (fun s d =>
    match s.enterNode core (nfield (bodyWord b 1) 15 8) c.asid (BitVec.ofNat 512 d) with
    | none => s.endCmd h 1 0
    | some s => s.endCmd h 0 0)

/-- `GRAPH_NODE` (R276). -/
def execGraphNode (h : CmdHeader) (b : List DWord) (s : State) : Host.Outcome State Fault Refusal := queued h b (semGraphNode h b) s

/-- An increment of a completion object that a command makes (R238, R261). -/
def State.cmdIncrement (s : State) (c : Ctx) (h : CmdHeader) (va : Nat) : State :=
  match s.behalf c.asid (.node 0 0) (cmdWork c.asid (hq h)) none va true (toBytes 8 1) with
  | .made s => s.endCmd h 0 0
  | .heldOn s _ => s
  | .failed s cause v => s.failCmd h cause v

/-- `SIGNAL` (R271, R359). -/
def semSignal (h : CmdHeader) (b : List DWord) (c : Ctx) (_ : Cmd) (s : State) : State :=
  if strayBody b [[(55, 3)]] then s.endCmd h 1 0 else s.cmdIncrement c h (bodyWord b 0)

/-- `SIGNAL` (R359). -/
def execSignal (h : CmdHeader) (b : List DWord) (s : State) : Host.Outcome State Fault Refusal := queued h b (semSignal h b) s

/-- `WAIT` (R271, R359): it runs until `WAIT_COMPLETION` finds the value. -/
def semWait (h : CmdHeader) (b : List DWord) (c : Ctx) (_ : Cmd) (s : State) : State :=
  if strayBody b [[(55, 3)], [(63, 0)]] then s.endCmd h 1 0 else s.pushDue (.waitCompletion c.asid (hq h))

/-- `WAIT` (R271). -/
def execWait (h : CmdHeader) (b : List DWord) (s : State) : Host.Outcome State Fault Refusal := queued h b (semWait h b) s

/-- `WAIT_COMPLETION` (R271, R513): the acquire read of a running `WAIT`. -/
def completeWait (asid queue : Nat) (s : State) : State :=
  match s.ctx? asid with
  | none => s
  | some c => match c.runs queue with
    | none => s
    | some k =>
      if k.h.cmd.toNat != 0x08 || c.stopped then s else
      s.cmdRead c k.h (bodyWord k.body 0) 8 (fun s v => if v ≥ bodyWord k.body 1 then s.endCmd k.h 0 0 else s)

/-- `WAIT_COMPLETION` (R271). -/
def execWaitCompletion (asid queue : Nat) (s : State) : Host.Outcome State Fault Refusal := commit s (completeWait asid queue s)

/-- `SET_DLEVEL` (R290, R359). -/
def semSetDlevel (h : CmdHeader) (b : List DWord) (c : Ctx) (_ : Cmd) (s : State) : State :=
  if strayBody b [[(1, 0)]] then s.endCmd h 1 0 else
  (s.updCtx c.asid (fun c => { c with qlevel := cellSet 0 c.qlevel (hq h) (bodyWord b 0) })).endCmd h 0 0

/-- `SET_DLEVEL` (R290). -/
def execSetDlevel (h : CmdHeader) (b : List DWord) (s : State) : Host.Outcome State Fault Refusal := queued h b (semSetDlevel h b) s

/-- `PLACEMENT_SET` (R315, R364): the entry's shard descriptor is read through the context. -/
def semPlacementSet (h : CmdHeader) (b : List DWord) (c : Ctx) (_ : Cmd) (s : State) : State :=
  let idx := bodyWord b 0
  let w := BitVec.ofNat 512 (bodyNum b 4 8)
  let va := (pentryOf w).shard
  if strayBody b ([[(11, 0)], [], [], []] ++ List.replicate 8 [(63, 0)]) || va == 0 || va % 64 != 0 ||
      (pentryOf (c.entry idx)).conv || imageRefused c w then s.endCmd h 1 0 else
  s.cmdRead c h va 64 (fun s d =>
    let d := BitVec.ofNat 512 d
    if shardRefused c idx w d || (tensorOf d.toNat).base == 0 then s.endCmd h 1 0
    else (s.updCtx c.asid (fun c => c.setEntry idx w d)).endCmd h 0 0)

/-- `PLACEMENT_SET` (R315). -/
def execPlacementSet (h : CmdHeader) (b : List DWord) (s : State) : Host.Outcome State Fault Refusal :=
  queued h b (semPlacementSet h b) s

/-- The bytes of a trigger record past `SEQ` (R167). -/
def triggerFields (b : List DWord) : Nat :=
  bodyWord b 0 + bodyWord b 1 * 2 ^ 32 + bodyWord b 2 * 2 ^ 96 + bodyWord b 3 * 2 ^ 160

/-- A running command remembers how far it has come. -/
def State.setStep (s : State) (asid q n : Nat) : State :=
  s.updCtx asid (fun c => { c with running := c.running.map (fun p => if p.1 = q then (q, { p.2 with step := n }) else p) })

/-- `TRIGGER` (R166 to R168, R238, R364): the number, the record's fields, its `SEQ`, then the increment; each is held on a
replayable miss. -/
def semTrigger (h : CmdHeader) (b : List DWord) (c : Ctx) (k : Cmd) (s : State) : State :=
  if strayBody b [[(15, 0)], [(63, 0)], [(47, 0)], [(31, 0)], [(55, 3)]] || c.ringN == 0 || bodyWord b 3 ≥ 10 ^ 9 then s.endCmd h 1 0
  else
    let n := if k.step == 0 then c.trigN + 1 else k.step / 2
    let s := if k.step == 0 then (s.updCtx c.asid (fun c => { c with trigN := n })).setStep c.asid (hq h) (2 * n) else s
    let last (s : State) : State := s.cmdIncrement c h (bodyWord b 4)
    if k.step % 2 == 1 then last s else
    let slot := c.ring + 32 * ((n - 1) % 2 ^ c.ringN)
    let put (s : State) (va : Nat) (bs : List Byte) : Behalf := s.behalf c.asid (.node 0 0) (cmdWork c.asid (hq h)) none va false bs
    match put s (slot + 4) (toBytes 28 (triggerFields b)) with
    | .heldOn s _ => s
    | .failed s cause v => s.failCmd h cause v
    | .made s => match put s slot (toBytes 4 (n % 2 ^ 32)) with
      | .heldOn s _ => s
      | .failed s cause v => s.failCmd h cause v
      | .made s => last (s.setStep c.asid (hq h) (2 * n + 1))

/-- `TRIGGER` (R168). -/
def execTrigger (h : CmdHeader) (b : List DWord) (s : State) : Host.Outcome State Fault Refusal := queued h b (semTrigger h b) s

/-- Whether a set keeps a command from replacing it (R321). -/
def ExpertSet.busy (e : ExpertSet) : Bool := e.records > 0 || !e.fired.isEmpty || !e.marks.isEmpty || !e.comps.isEmpty

/-- The fields of an `EXPERT_SET` body (R363), its launch records still to be read. -/
def expertOf (b : List DWord) : ExpertSet :=
  { nexp := nfield (bodyWord b 0) 26 16, t := nfield (bodyWord b 1) 8 0, a := nfield (bodyWord b 1) 63 32,
    kslots := nfield (bodyWord b 2) 3 0, nseq := nfield (bodyWord b 2) 31 16 + 1, npos := nfield (bodyWord b 2) 47 32 + 1,
    h := nfield (bodyWord b 2) 63 48 + 1, cbuf := bodyWord b 3, ccomp := bodyWord b 4, spill := bodyWord b 5,
    spsize := bodyWord b 6, recs := [], sidings := [], marks := [], comps := [], firings := 0, fired := [] }

/-- Whether R321 or R363 refuses the fields of a set, apart from its launch records. -/
def State.expertRefused (s : State) (c : Ctx) (b : List DWord) : Bool :=
  let e := expertOf b
  strayBody b [[(1, 0), (26, 16)], [(8, 0), (63, 32)], [(3, 0), (63, 16)], [(55, 6)], [(55, 3)], [(51, 16)], [(31, 0)], [(55, 7)]] ||
    bodyWord b 0 % 4 != 0 || e.nexp == 0 || e.nexp > 1024 || e.t == 0 || e.t > 256 || e.a == 0 || e.kslots == 0 || e.kslots > 8 ||
    (if e.spsize == 0 then e.spill != 0
      else !inDevice e.spill (e.spsize * 2 ^ 16) || s.touchesRemoved e.spill (e.spsize * 2 ^ 16)) ||
    (match c.experts with | some e => e.busy | none => false)

/-- Whether an expert's launch record is refused (R321, R369). -/
def expertRecBad (r : Nat) : Bool :=
  let l := parseRec r
  l.gx != 1 || l.gy != 1 || l.gz != 1 || recRefused r 0 false

/-- `EXPERT_SET`, creating or replacing (R321, R363, R513). -/
def semExpertSetCreate (h : CmdHeader) (b : List DWord) (c : Ctx) (_ : Cmd) (s : State) : State :=
  if s.expertRefused c b then s.endCmd h 1 0 else
  let e := expertOf b
  s.cmdRead c h (bodyWord b 7) (128 * e.nexp) (fun s n =>
    let recs := (List.range e.nexp).map (fun i => nfield n (1024 * i + 1023) (1024 * i))
    if recs.any expertRecBad then s.endCmd h 1 0
    else (s.updCtx c.asid (fun c => { c with experts := some { e with recs := recs.map parseRec } })).endCmd h 0 0)

/-- `EXPERT_SET`, creating (R321). -/
def execExpertSetCreate (h : CmdHeader) (b : List DWord) (s : State) : Host.Outcome State Fault Refusal :=
  queued h b (semExpertSetCreate h b) s

/-- `EXPERT_SET`, deleting: a set with pending work is refused as a replacement is (R321, R363). DEDUCED. -/
def semExpertSetDelete (h : CmdHeader) (b : List DWord) (c : Ctx) (_ : Cmd) (s : State) : State :=
  if strayBody b [[(1, 0)]] || (match c.experts with | some e => e.busy | none => false) then s.endCmd h 1 0
  else (s.updCtx c.asid (fun c => { c with experts := none })).endCmd h 0 0

/-- `EXPERT_SET`, deleting (R321). -/
def execExpertSetDelete (h : CmdHeader) (b : List DWord) (s : State) : Host.Outcome State Fault Refusal :=
  queued h b (semExpertSetDelete h b) s

end Sys2Proof.Machine
end

