-- ==== Sys2Proof/Machine/Package.lean ====
section
/-!
DEFINITION. The package around the cores (10_memory_hierarchy.md R213 to R224; 15 R304, R306; 18 R370, R373, R374): the grants of
pseudo-channels, data lanes, row counters, write-backs, UALink, boot, power and heat.
-/
namespace Sys2Proof.Machine

/-- The pseudo-channels of the package, two to a channel and 32 channels to a stack (R7, R213), and that of a device address (R210). -/
def chanCount : Nat := 24 * 32 * 2
def chanOf (pa : Nat) : Nat := ((homeOf pa).stack * 32 + (homeOf pa).channel) * 2 + (homeOf pa).pseudo

/-- A pseudo-channel by number, and a change of one. -/
def State.chan (s : State) (k : Nat) : Chan := cellGet Chan.idle s.chans k
def State.updChan (s : State) (k : Nat) (f : Chan → Chan) : State := { s with chans := cellSet Chan.idle s.chans k (f (s.chan k)) }

/-- The weight of a class (R214): WALK has none. -/
def classWeight (c : Nat) : Nat := [0, 16, 64, 256].getD c 256

/-- The pass count of a class below WALK (R216). -/
def Chan.passOf (h : Chan) (c : Nat) : Nat := h.pass.getD (c - 1) 0

/-- The requests that may be granted: no earlier request to their block waits (R216). -/
def eligibleFrom : List Nat → List ChanReq → List ChanReq
  | _, [] => []
  | seen, r :: rs => if seen.contains r.block then eligibleFrom seen rs else r :: eligibleFrom (r.block :: seen) rs

/-- Whether the deadline of one request comes before that of another (R216): a slack of 0 is no deadline; ties go to the
earliest arrival. -/
def ChanReq.before (a b : ChanReq) : Bool :=
  if a.slack == 0 then b.slack == 0 && a.arrival < b.arrival
  else b.slack == 0 || a.arrival + a.slack < b.arrival + b.slack ||
    (a.arrival + a.slack == b.arrival + b.slack && a.arrival < b.arrival)

/-- The request of least deadline. -/
def leastDeadline : List ChanReq → Option ChanReq
  | [] => none
  | a :: l => match leastDeadline l with
    | none => some a
    | some b => if b.before a then some b else some a

/-- The class that a grant serves (R216). -/
def Chan.grantClass (h : Chan) : Option Nat :=
  let has (c : Nat) : Bool := (eligibleFrom [] h.waiting).any (fun r => r.cls == c)
  match [1, 2, 3].find? (fun c => has c && h.passOf c ≥ classWeight c) with
  | some c => some c
  | none => [0, 1, 2, 3].find? has

/-- Count a missed deadline (R217): the class's field of `MISSED`, which stops at its greatest value. -/
def missOf (m : DWord) (cls : Nat) : DWord :=
  if nfield m.toNat (16 * cls + 15) (16 * cls) == 0xFFFF then m else m + BitVec.ofNat 64 (2 ^ (16 * cls))
def State.chargeMiss (s : State) (r : ChanReq) : State :=
  match r.charge with
  | none => s
  | some (core, asid) => s.updCtx asid (fun c => { c with missed := cellSet 0 c.missed core (missOf (cellGet 0 c.missed core) r.cls) })

/-- `CHANNEL_GRANT` (R216, R217). A channel whose lanes are lent grants nothing (R218). -/
def grant (k : Nat) (s : State) : State :=
  let h := s.chan k
  if h.lent then s else
  match h.grantClass with
  | none => s
  | some c => match leastDeadline ((eligibleFrom [] h.waiting).filter (fun r => r.cls == c)) with
    | none => s
    | some r =>
      let rest := h.waiting.erase r
      let next (d : Nat) : Nat := if d == c then 0 else if rest.any (fun x => x.cls == d) then h.passOf d + 1 else 0
      let s := s.updChan k (fun h => { h with waiting := rest, pass := [next 1, next 2, next 3] })
      if r.slack != 0 && h.clock > r.arrival + r.slack then s.chargeMiss r else s

/-- `CHANNEL_GRANT` (R216). -/
def execChannelGrant (chan : Nat) (s : State) : Host.Outcome State Fault Refusal := commit s (grant chan s)

/-- A change of both pseudo-channels of a channel. -/
def State.updPair (s : State) (c : Nat) (f : Chan → Chan) : State := (s.updChan (2 * c) f).updChan (2 * c + 1) f

/-- What a request of an origin carries (R214, R215, R217), `none` when there is no such work. DESIGN CHOICE (log 89): the slack of a
write-back is a free value, and no core is charged with it. -/
def State.carried (s : State) : ChanOrigin → Option Carry
  | .request id => (s.reqs.find? (fun r => r.id == id)).map (·.carry)
  | .access core id => ((s.core core).acks.find? (fun a => a.id == id)).map (·.carry)
  | .work n =>
    if n.1 = 0 then ((s.xfers.find? (fun t => t.id == n.2)).map (·.carry)).orElse (fun _ => (s.colls.find? (fun o => o.id == n.2)).map (·.carry))
    else ((s.ctx? (n.1 - 1)).bind (fun c => c.demands.find? (fun m => m.idx == n.2 && m.started))).map (·.carry)
  | .matrix core id => ((s.core core).fifo.find? (fun e => e.id == id)).map (·.carry)
  | .fetch w => (s.wave? w).map (fun _ => s.carryOf w 1)
  | .prefetch w => (s.wave? w).map (fun _ => s.carryOf w 3)
  | .scalar w => (s.wave? w).map (fun _ => s.carryOf w 1)
  | .writeBack => some { cls := 2, dslack := Config.freeSlack s.nextId, charge := none }
  | .tier => some { cls := 3, dslack := 0, charge := none }
  | .command cls => if 1 ≤ cls ∧ cls ≤ 3 then some { cls := cls, dslack := 0, charge := none } else none

/-- A request arrives at the pseudo-channel of a device address (R214 to R216, R218): its class and slack are those of its origin, or of a
walk for it; lanes that are lent are called back. -/
def chanArriveTurn (pa : Nat) (walk : Bool) (o : ChanOrigin) (s : State) : State :=
  match s.carried o with
  | none => s
  | some y =>
    if !inDevice pa 1 then s else
    let k := chanOf pa
    let h := s.chan k
    let cls := if walk then 0 else y.cls
    let r : ChanReq := { arrival := h.clock, cls := cls, slack := nfield y.dslack.toNat (16 * cls + 15) (16 * cls), block := pa / 64,
                         charge := y.charge, origin := o }
    let s := ({ s with nextId := s.nextId + 1 } : State).updChan k (fun h => { h with waiting := h.waiting ++ [r] })
    if h.lent && !h.reclaiming then s.updPair (k / 2) (fun h => { h with reclaiming := true, shake := 0 }) else s

/-- `LANE_RECLAIM` (R218). -/
def reclaim (c : Nat) (s : State) : State :=
  if (s.chan (2 * c)).reclaiming then s.updPair c (fun h => { h with lent := false, reclaiming := false, shake := 0 }) else s

/-- The longest handshake, in channel clocks (R218). -/
def shakeBound : Nat := 4096

/-- A channel clock passes at a pseudo-channel (R213): a handshake under way there ends with its last clock (R218). -/
def chanClockTurn (k : Nat) (s : State) : State :=
  if k ≥ chanCount then s else
  let s := s.updChan k (fun h => { h with clock := h.clock + 1, shake := if h.reclaiming then h.shake + 1 else 0 })
  if (s.chan k).shake ≥ shakeBound then reclaim (k / 2) s else s

/-- `LANE_RECLAIM` (R218). -/
def execLaneReclaim (chan : Nat) (s : State) : Host.Outcome State Fault Refusal := commit s (reclaim chan s)

/-- `DATA_LANE_LENDING` (R218): a channel with no waiting request lends its data lanes to its neighbour, which has its own. -/
def lend (c : Nat) (s : State) : State :=
  if 2 * c < chanCount && !(s.chan (2 * (c ^^^ 1))).lent && (s.chan (2 * c)).waiting.isEmpty && (s.chan (2 * c + 1)).waiting.isEmpty then s.updPair c (fun h => { h with lent := true }) else s

/-- `DATA_LANE_LENDING` (R218). -/
def execDataLaneLending (chan : Nat) (s : State) : Host.Outcome State Fault Refusal := commit s (lend chan s)

/-- The activations of a row. -/
def State.rowCount (s : State) (r : RowId) : Nat := match s.rowCtr.find? (fun p => p.1 == r) with | some p => p.2 | none => 0

/-- Whether a row lies in a stack and pseudo-channel that the package has (R7, R213). -/
def rowThere (r : RowId) : Bool := r.stack < 24 && r.channel < 32 && r.pseudo < 2

/-- A row is activated (R221): one more, and a refresh is due at the threshold. -/
def activateTurn (r : RowId) (s : State) : State :=
  if !rowThere r then s else
  let n := s.rowCount r + 1
  let s : State := { s with rowCtr := s.rowCtr.filter (fun p => p.1 != r) ++ [(r, n)] }
  if n ≥ s.record.threshold then s.pushDue (.rowActivationRefresh r false) else s

/-- `ROW_ACTIVATION_REFRESH` (R221): the counter is reset, the refreshes change no data and are logged. -/
def refreshRow (r : RowId) (checkFailed : Bool) (s : State) : State :=
  if !rowThere r || !checkFailed && s.rowCount r < s.record.threshold then s else
  let e (kind : Nat) : LogEntry := { kind := kind, unit := 3, die := r.stack, chan := r.channel, pa := 0, count := 1 }
  { s with
    rowCtr := s.rowCtr.filter (fun p => p.1 != r)
    errLog := s.errLog ++ (if checkFailed then [e 4] else []) ++ [e 5] }

/-- `ROW_ACTIVATION_REFRESH` (R221). -/
def execRowActivationRefresh (row : RowId) (checkFailed : Bool) (s : State) : Host.Outcome State Fault Refusal :=
  commit s (refreshRow row checkFailed s)

/-- A kill that belongs to no access (R223, R374): its `ADDR1` is stated nowhere and is a free value (log 15). -/
def State.killFor (s : State) (asid cause : Nat) : State :=
  ({ s with fresh := s.fresh + 1 } : State).killCtx asid cause (StatusRec.plain cause (Config.freeNat s.fresh % 2 ^ 64) 0)

/-- `DIRTY_LINE_WRITE_BACK` (R223, R224): a line with an uncorrectable error kills the context it is tagged with, and its block
is retired; any other changes nothing. -/
def writeBack (pa asid : Nat) (bad : Bool) (s : State) : State :=
  if !bad then s else
  let h := homeOf pa
  let s := (s.killFor asid cMachineCheck).logBad pa
  { s with
    retired := if s.retired.contains (pa / 64) then s.retired else s.retired ++ [pa / 64]
    errLog := s.errLog ++ [{ kind := 3, unit := 3, die := h.stack, chan := h.channel, pa := pa / 64 * 64, count := 1 }] }

/-- `DIRTY_LINE_WRITE_BACK` (R223). -/
def execDirtyLineWriteBack (pa asid : Nat) (bad : Bool) (s : State) : Host.Outcome State Fault Refusal :=
  commit s (writeBack pa asid bad s)

/-- End a context's collectives and conversions that need a rank it cannot reach (R306). -/
def State.endUnreached (s : State) (asid : Nat) : State :=
  match s.ctx? asid with
  | none => s
  | some c =>
    let me := field c.drank 11 0
    let lost (ok : Nat → Bool) (ranks : List Nat) : Option Nat := ranks.find? (fun r => r != me && !ok r)
    let s' := (s.colls.filter (fun o => o.asid == asid)).foldl (fun s o =>
      let b := cblockOf o.block.toNat
      match lost (s.reachesFrom c o.die) ((List.range b.count).map b.rank) with
      | some r => s.endColl o cMachineCheck r
      | none => s) s
    (c.demands.filter (fun m => !m.ended)).foldl (fun s m => match lost (s.reaches c) (pentryOf (c.entry m.idx)).ranks with
      | some r => s.failDemand asid m cMachineCheck r
      | none => s) s'

/-- `PORT_LINK_LOSS` (R306). -/
def losePort (p : Nat) (s : State) : State :=
  if p ≥ 6 then s else
  let x := cellGet Port.start s.ports p
  let s : State := { s with ports := cellSet Port.start s.ports p { x with up := false, losses := x.losses + 1 } }
  s.ctxs.foldl (fun s c => s.endUnreached c.asid) s

/-- `PORT_LINK_LOSS` (R306). -/
def execPortLinkLoss (port : Nat) (s : State) : Host.Outcome State Fault Refusal := commit s (losePort port s)

/-- Whether a request received over UALink lies in the subset of R304 and in memory. `CAS` is operation 9 here, its new value
before the value compared. -/
def ualOk (r : UalRequest) (s : State) : Bool :=
  s.backed r.addr && s.backed (r.addr + r.len - 1) &&
  match r.kind with
  | .read => 64 ≤ r.len && r.len ≤ 256
  | .write => 64 ≤ r.len && r.len ≤ 256 && r.data.length == r.len
  | .atomic op signed =>
    (r.len == 4 || r.len == 8) && r.addr % r.len == 0 && op ≤ 9 && (!signed || [0, 2, 3].contains op) && !(op == 1 && r.len == 8) &&
      r.data.length == (if op == 9 then 2 * r.len else r.len)
  | .other => false

/-- The answer to a request (R304): kind 1 done with the data read or the old value, kind 2 an error completion, which is counted. -/
def State.ualAnswer (s : State) (r : UalRequest) (data : List Byte) : State :=
  { s with ualOut := s.ualOut ++ [{ station := r.port, kind := 1, addr := r.addr, data := data }] }
def State.ualError (s : State) (r : UalRequest) : State :=
  let x := cellGet Port.start s.ports r.port
  { s with
    ports := cellSet Port.start s.ports r.port { x with errs := x.errs + 1 }
    ualOut := s.ualOut ++ [{ station := r.port, kind := 2, addr := r.addr, data := [] }] }

/-- A request is performed, or answered with an error completion (R222 to R224, R262, R304). -/
def State.ualDo (s : State) (r : UalRequest) : State :=
  if !ualOk r s then s.ualError r
  else match r.kind with
    | .write => if (s.partialRetired r.addr r.len).isSome then s.ualError r else (s.storeBytes r.addr r.data).ualAnswer r []
    | .atomic op signed =>
      if (s.badByte r.addr r.len).isSome then s.ualError r else
      let old := s.numAt r.addr r.len
      let v := ofBytes (r.data.take r.len)
      let new := if op == 9 then (if old == ofBytes (r.data.drop r.len) then v else old) else atomNew op signed (8 * r.len) old v
      (s.storeBytes r.addr (toBytes r.len new)).ualAnswer r (toBytes r.len old)
    | _ => if (s.badByte r.addr r.len).isSome then s.ualError r else s.ualAnswer r (s.bytesAt r.addr r.len)

/-- Whether a request waits for lines that an engine owns (R258), or behind one of its port that does (R19). DEDUCED (log 110). -/
def State.ualLate (s : State) (before : List UalRequest) (r : UalRequest) : Bool :=
  before.any (fun q => q.port == r.port) || s.paOwned r.addr r.len

/-- `UALINK_REQUEST` (R258, R304): performed at once, or when the lines are free. A port without its link receives nothing. -/
def ualPerform (r : UalRequest) (s : State) : State :=
  if r.port ≥ 6 || !(cellGet Port.start s.ports r.port).up then s
  else if s.ualLate s.ualIn r then { s with ualIn := s.ualIn ++ [r] }
  else s.ualDo r

/-- A request that waits is tried again (R258). -/
def ualRetryTurn (k : Nat) (s : State) : State :=
  match s.ualIn[k]? with
  | none => s
  | some r => if s.ualLate (s.ualIn.take k) r then s else ({ s with ualIn := s.ualIn.eraseIdx k } : State).ualDo r

/-- `UALINK_REQUEST` (R304). -/
def execUalinkRequest (r : UalRequest) (s : State) : Host.Outcome State Fault Refusal := commit s (ualPerform r s)

/-- Physical cores for `n` positions of a die, each picked among those that are free (R9). -/
def pickCores (pick : Nat → Nat) : Nat → List Nat → List Nat
  | 0, _ => []
  | n + 1, free =>
    let x := free.getD (pick n % free.length) 0
    x :: pickCores pick n (free.erase x)

/-- The physical core of each logical core (R9): the 12 positions of a die take 12 of its 14 cores. -/
def assignCores (pick : Nat → Nat) : List Nat :=
  let dies := (List.range 4).map (fun d => pickCores (fun n => pick (12 * d + n)) 12 (List.range 14))
  (List.range 48).map (fun i =>
    (dies.getD (dieOf i) []).getD ((List.range i).filter (fun j => dieOf j == dieOf i)).length 0)

/-- The record that the boot ROM reads from flash, with its digest (R370). -/
def bootRecord : BootRecord :=
  { digest := Config.recordDigest, defects := Config.recordDefects Config.record, steps := Config.recordSteps Config.record,
    threshold := Config.recordThreshold Config.record, limits := Config.recordLimits Config.record }

/-- `BOOT` (R9, R370): the record verifies and gives the core assignment, or the part enters recovery. -/
def bootPart (s : State) : State :=
  if s.booted then s
  else if Config.recordVerifies then
    { s with booted := true, record := bootRecord, assignment := assignCores (Config.recordCores Config.record) }
  else { s with booted := true, recovery := true, record := { BootRecord.none with digest := Config.recordDigest } }

/-- `BOOT` (R370). -/
def execBoot (s : State) : Host.Outcome State Fault Refusal := commit s (bootPart s)

/-- `POWER_LIMIT_SET` (R373): never above 4,000 W. -/
def execPowerLimitSet (mW : Nat) (s : State) : Host.Outcome State Fault Refusal :=
  commit s { s with powerLimit := min mW 4000000 }

/-- The lowest-numbered step whose measured power stays under a limit, the last where none does (R373). -/
def stepFor (limit : Nat) (measured : List Nat) : Nat := ((List.range 8).find? (fun k => measured.getD k 0 < limit)).getD 7

/-- `CLOCK_STEP_CHANGE` (R373): timing alone changes. -/
def execClockStepChange (measured : List Nat) (s : State) : Host.Outcome State Fault Refusal :=
  commit s { s with clockStep := stepFor s.powerLimit measured }

/-- `THERMAL_STEP_DOWN` (R374). -/
def execThermalStepDown (degC : Nat) (s : State) : Host.Outcome State Fault Refusal :=
  commit s (if degC ≥ 105 then { s with clockStep := min 7 (s.clockStep + 1) } else s)

/-- `THERMAL_SHUTDOWN` (R374): every context is killed, and the cores are off until reset. -/
def shutDown (degC : Nat) (s : State) : State :=
  if degC < 115 then s else { s.ctxs.foldl (fun s c => s.killFor c.asid cMachineCheck) s with shutdown := true }

/-- `THERMAL_SHUTDOWN` (R374). -/
def execThermalShutdown (degC : Nat) (s : State) : Host.Outcome State Fault Refusal := commit s (shutDown degC s)

end Sys2Proof.Machine
end

