-- ==== Sys2Proof/Machine/Queries.lean ====
section
/-!
DEFINITION. `QUERY` and `ATTEST` (18_host_security_power.md R366 to R368, R371, R372): their replies.
-/
namespace Sys2Proof.Machine

/-- A list cut or filled with zeros to a length. -/
def sized (n : Nat) (l : List Byte) : List Byte := (List.range n).map (fun i => l.getD i 0)

/-- Send a reply (R356, R368): one record for each 48 bytes. -/
def State.reply48 (s : State) (h : CmdHeader) (asid : Nat) (bytes : List Byte) : State :=
  (List.range (ceilDiv bytes.length 48)).foldl (fun s i =>
    s.emit (mkRecord 5 0 asid h.tag.toNat (i + bytes.length % 2 ^ 32 * 2 ^ 32) (ofBytes ((bytes.drop (48 * i)).take 48)))) s

/-- A query of the package (R366): refused without `PKG` or with a body it rejects, and answered otherwise. -/
def packageQuery (h : CmdHeader) (b : List DWord) (bad : Bool) (bytes : State → List Byte) (s : State) :
    Host.Outcome State Fault Refusal :=
  if h.pkg then
    control h (fun s => if bad then s.completeCmd h 0 1 0 else (s.reply48 h 0 (bytes s)).completeCmd h 0 0 0) s
  else queued h b (fun _ _ s => s.endCmd h 1 0) s

/-- A query of a context (R366): refused with `PKG` or with a body it rejects. -/
def contextQuery (h : CmdHeader) (b : List DWord) (bad : Ctx → Bool) (go : Ctx → State → State) (s : State) :
    Host.Outcome State Fault Refusal :=
  if h.pkg then control h (fun s => s.completeCmd h 0 1 0) s
  else queued h b (fun c _ s => if bad c then s.endCmd h 1 0 else go c s) s

/-- Reply to a context's query, then complete it (R368). -/
def State.answer (s : State) (h : CmdHeader) (bytes : List Byte) : State := (s.reply48 h (ha h) bytes).endCmd h 0 0

/-- Whether a body has a bit set outside `WHAT` and some bits of its argument (R357, R366). -/
def queryBad (what : Nat) (arg : List (Nat × Nat)) (b : List DWord) : Bool :=
  strayBody b [[(7, 0)], arg] || bodyWord b 0 != what

/-- The package identity (R366, R371). -/
def identityBytes (s : State) : List Byte :=
  toBytes 4 Config.romVersion ++ [BitVec.ofNat 8 s.clockStep, if s.recovery then 1 else 0] ++ List.replicate 26 0 ++
    sized 32 s.record.digest ++ sized 1312 Config.publicKey

/-- `QUERY`, `WHAT` 0 (R366), and every `WHAT` that no row names. -/
def execQueryIdentity (h : CmdHeader) (b : List DWord) (s : State) : Host.Outcome State Fault Refusal :=
  packageQuery h b (queryBad 0 [] b) identityBytes s

/-- An entry of the error log (R366). -/
def LogEntry.bytes (e : LogEntry) : List Byte :=
  toBytes 8 (e.kind + e.unit * 2 ^ 8 + e.die * 2 ^ 16 + e.chan * 2 ^ 24) ++ toBytes 8 e.pa ++ toBytes 8 e.count ++ toBytes 8 0

/-- `QUERY`, `WHAT` 1 (R366). -/
def execQueryErrorLog (h : CmdHeader) (b : List DWord) (s : State) : Host.Outcome State Fault Refusal :=
  packageQuery h b (queryBad 1 [(63, 0)] b) (fun s =>
    toBytes 8 s.errLog.length ++ ((s.errLog.drop (bodyWord b 1)).take 128).flatMap LogEntry.bytes) s

/-- `QUERY`, `WHAT` 2 (R9, R366). -/
def execQueryCoreAssignment (h : CmdHeader) (b : List DWord) (s : State) : Host.Outcome State Fault Refusal :=
  packageQuery h b (queryBad 2 [] b) (fun s => (List.range 48).map (fun i => BitVec.ofNat 8 (s.assignment.getD i 0))) s

/-- The four bits of a block (R240, R366). -/
def State.blockNibble (s : State) (asid r k : Nat) (p : ProcRange) : Nat :=
  let b := cellGet Block.empty p.blocks k
  b.state % 4 + (if b.written then 4 else 0) + (if s.wanted asid r k then 8 else 0)

/-- `QUERY`, `WHAT` 3 (R240, R366). -/
def execQueryBlockStates (h : CmdHeader) (b : List DWord) (s : State) : Host.Outcome State Fault Refusal :=
  let r := nfield (bodyWord b 1) 5 0
  let first := nfield (bodyWord b 1) 63 32
  contextQuery h b (fun c => queryBad 3 [(5, 0), (63, 32)] b || (c.proc? r).isNone) (fun c s =>
    match c.proc? r with
    | none => s
    | some p =>
      let at' (k : Nat) : Nat := if k < p.nblk then s.blockNibble c.asid r k p else 0
      s.answer h ((List.range 4096).map (fun i => BitVec.ofNat 8 (at' (first + 2 * i) + 16 * at' (first + 2 * i + 1))))) s

/-- `QUERY`, `WHAT` 4 (R276, R366). -/
def execQueryGraphLog (h : CmdHeader) (b : List DWord) (s : State) : Host.Outcome State Fault Refusal :=
  contextQuery h b (fun _ => queryBad 4 [] b) (fun c s =>
    s.answer h ((List.range 48).flatMap (fun k => toBytes 8 (cellGet 0 c.graphLog k)))) s

/-- `QUERY`, `WHAT` 5 (R304, R306, R366). -/
def execQueryLinkLog (h : CmdHeader) (b : List DWord) (s : State) : Host.Outcome State Fault Refusal :=
  packageQuery h b (queryBad 5 [] b) (fun s => (List.range 6).flatMap (fun p =>
    let x := cellGet Port.start s.ports p
    toBytes 8 x.errs ++ toBytes 8 x.losses)) s

/-- `QUERY`, `WHAT` 6 (R366, R513): no reply when the status block cannot be read. -/
def semContextSummary (h : CmdHeader) (c : Ctx) (s : State) : State :=
  let work := cmdWork c.asid (hq h)
  let fail (s : State) (cause : Nat) : State := s.endCmd h (if cause == cMachineCheck then 2 else 4) 0
  match s.stallCause work with
  | some (cause, _) => fail (s.unstall work) cause
  | none =>
  let s := s.unstall work
  match s.workRead c work c.statusVa 64 with
  | (.wait on, _) => (s.holdBytes c work partAct [(c.statusVa, 64)]).engAsk c.asid (.node 0 0) false (some work) on
  | (.fault cause v, _) => fail (if cause == cMachineCheck then s.logVa c.asid v else s) cause
  | (.ok, v) => s.answer h (toBytes 64 v ++ (List.range 16).flatMap (fun q => toBytes 8 (cellGet 0 c.qdone q)) ++
      toBytes 8 (if c.stopped then 1 else 0))

/-- `QUERY`, `WHAT` 6 (R366). -/
def execQueryContextSummary (h : CmdHeader) (b : List DWord) (s : State) : Host.Outcome State Fault Refusal :=
  contextQuery h b (fun _ => queryBad 6 [] b) (semContextSummary h) s

/-- The quote of `ATTEST` (R367, R372). -/
def quote (b : List DWord) (record : List Byte) (recovery : Bool) : List Byte :=
  let body := (List.range 4).flatMap (fun i => toBytes 8 (bodyWord b i)) ++ sized 32 Config.bootDigest ++ sized 32 Config.cpDigest ++
    sized 32 record ++ [if recovery then 1 else 0] ++ List.replicate 31 0
  body ++ sized 2420 (Config.sign (sized 32 (Config.sha3 body)))

/-- `ATTEST` (R367, R372). -/
def execAttest (h : CmdHeader) (b : List DWord) (s : State) : Host.Outcome State Fault Refusal :=
  control h (fun s => if !h.pkg then s.completeCmd h (ha h) 1 0
    else (s.reply48 h 0 (quote b s.record.digest s.recovery)).completeCmd h 0 0 0) s

end Sys2Proof.Machine
end

