-- ==== Sys2Proof/Machine/Ranges.lean ====
section
/-!
DEFINITION. Procedural ranges and layers of memory (11_translation_procedural.md R239, R243; 10 R219, R220; 18 R362, R365):
`PROC_RANGE` and `RETENTION`.
-/
namespace Sys2Proof.Machine

/-- The range that a registering body describes (R239, R362). -/
def procOf (b : List DWord) : ProcRange :=
  { base := bodyWord b 1, big := (bodyWord b 2).testBit 0, nblk := nfield (bodyWord b 2) 52 32, pool := bodyWord b 3,
    nfrm := bodyWord b 4,
    lrec := parseRec ((List.range 16).foldl (fun x i => x + bodyWord b (8 + i) * 2 ^ (64 * i)) 0), blocks := [], waiting := [] }

/-- Whether R239 or R362 refuses the registration of a range; a number that is registered is refused (log 14). -/
def State.procRefused (s : State) (c : Ctx) (b : List DWord) : Bool :=
  let p := procOf b
  let size := if p.big then 2 ^ 21 else 2 ^ 16
  let r := (List.range 16).foldl (fun x i => x + bodyWord b (8 + i) * 2 ^ (64 * i)) 0
  let va := p.vaRange
  let pool := p.poolRange
  strayBody b ([[(1, 0), (13, 8)], [(55, 16)], [(0, 0), (52, 32)], [(51, 16)], [(31, 0)], [], [], []] ++ List.replicate 16 [(63, 0)]) ||
    bodyWord b 0 % 4 != 0 || (c.proc? (nfield (bodyWord b 0) 13 8)).isSome || p.base % size != 0 || p.nblk == 0 || p.nblk > 2 ^ 20 ||
    p.pool % size != 0 || p.nfrm == 0 || !inDevice pool.1 pool.2 || s.touchesRemoved pool.1 pool.2 ||
    s.ctxs.any (fun d => d.procs.any (fun q => overlaps pool.1 pool.2 q.2.poolRange.1 q.2.poolRange.2)) ||
    overlaps va.1 va.2 c.heapBase.toNat c.heapLimit.toNat ||
    c.procs.any (fun q => overlaps va.1 va.2 q.2.vaRange.1 q.2.vaRange.2) ||
    (s.ctxLeaves c).any (fun l => overlaps va.1 va.2 l.1 l.2.1) || p.lrec.dlvl > 3 || recRefused r p.lrec.dlvl true

/-- The pages of blocks become invalid (R239, R243). -/
def State.unmapBlocks (s : State) (asid r : Nat) (ks : List Nat) : State := ks.foldl (fun s k => s.mapBlock asid r k none) s

/-- `PROC_RANGE`, registering (R239): the range's pages are invalid until a block takes a frame. -/
def semProcRegister (h : CmdHeader) (b : List DWord) (c : Ctx) (_ : Cmd) (s : State) : State :=
  if s.procRefused c b then s.endCmd h 1 0 else
  let r := nfield (bodyWord b 0) 13 8
  let s := s.updCtx c.asid (fun c => { c with procs := c.procs ++ [(r, procOf b)] })
  (s.unmapBlocks c.asid r (List.range (procOf b).nblk)).endCmd h 0 0

/-- `PROC_RANGE`, registering (R239). -/
def execProcRangeRegister (h : CmdHeader) (b : List DWord) (s : State) : Host.Outcome State Fault Refusal :=
  queued h b (semProcRegister h b) s

/-- Whether a block keeps `PROC_RANGE` from resetting or releasing it (R243). -/
def State.blockBusy (s : State) (asid r k : Nat) (b : Block) : Bool := b.state == 1 || s.wanted asid r k

/-- `PROC_RANGE`, resetting blocks (R243): their frames are free, and fills that wait may take them. -/
def semProcReset (h : CmdHeader) (b : List DWord) (c : Ctx) (_ : Cmd) (s : State) : State :=
  let r := nfield (bodyWord b 0) 13 8
  let first := bodyWord b 5
  let n := bodyWord b 6
  if strayBody b [[(1, 0), (13, 8)], [], [], [], [], [(31, 0)], [(31, 0)]] || n == 0 then s.endCmd h 1 0 else
  match c.proc? r with
  | none => s.endCmd h 1 0
  | some p =>
    let named (k : Nat) : Bool := first ≤ k && k < first + n
    if first + n > p.nblk || p.blocks.any (fun q => named q.1 && s.blockBusy c.asid r q.1 q.2) then s.endCmd h 1 0 else
    let s := s.unmapBlocks c.asid r ((p.blocks.map (·.1)).filter named)
    ((s.updCtx c.asid (fun c => c.updProc r (fun p => { p with blocks := p.blocks.filter (fun q => !named q.1) }))).endCmd h 0 0).pushDue
      (.fillFrameAvailable c.asid r)

/-- `PROC_RANGE`, resetting (R243). -/
def execProcRangeReset (h : CmdHeader) (b : List DWord) (s : State) : Host.Outcome State Fault Refusal :=
  queued h b (semProcReset h b) s

/-- `PROC_RANGE`, deregistering (R243). -/
def semProcDeregister (h : CmdHeader) (b : List DWord) (c : Ctx) (_ : Cmd) (s : State) : State :=
  let r := nfield (bodyWord b 0) 13 8
  if strayBody b [[(1, 0), (13, 8)]] then s.endCmd h 1 0 else
  match c.proc? r with
  | none => s.endCmd h 1 0
  | some p =>
    if p.blocks.any (fun q => s.blockBusy c.asid r q.1 q.2) then s.endCmd h 1 0
    else ((s.unmapBlocks c.asid r (p.blocks.map (·.1))).updCtx c.asid (fun c => { c with
      procs := c.procs.filter (fun q => q.1 != r) })).endCmd h 0 0

/-- `PROC_RANGE`, deregistering (R243). -/
def execProcRangeDeregister (h : CmdHeader) (b : List DWord) (s : State) : Host.Outcome State Fault Refusal :=
  queued h b (semProcDeregister h b) s

/-- The bytes of a layer, 96 GiB (R219). -/
def layerBytes : Nat := 96 * 2 ^ 30

/-- Whether a live context has a byte in a physical range (R219): a mapped page, its heap, a frame pool, an area. -/
def State.rangeUsed (s : State) (pa n : Nat) : Bool :=
  s.ctxs.any (fun c =>
    let hp := heapPa c.heapBase.toNat c.heapLimit.toNat c.heapOff.toNat
    (s.ctxLeaves c).any (fun l => overlaps pa n l.2.2 l.2.1) || overlaps pa n hp.1 hp.2 ||
      c.procs.any (fun p => overlaps pa n p.2.poolRange.1 p.2.poolRange.2) || c.areas.any (fun a => overlaps pa n a.1 a.2))

/-- Copy a range of physical memory: every byte that either range lists. Blocks of the target are restored (R224). -/
def State.copyRange (s : State) (src dst n : Nat) : State :=
  let addrs := (s.stores.map (·.1)) ++ (s.mem.map (·.1))
  let offs := addrs.filterMap (fun a => if src ≤ a && a < src + n then some (a - src) else if dst ≤ a && a < dst + n then some (a - dst) else none)
  let whole (k : Nat) : Bool := dst ≤ 64 * k && 64 * k + 64 ≤ dst + n
  { s with stores := offs.map (fun o => (dst + o, s.byteAt (src + o))) ++ s.stores,
           retired := s.retired.filter (fun k => !whole k), badBlocks := s.badBlocks.filter (fun k => !whole k) }

/-- Whether a range has a block that cannot be read. -/
def State.anyBad (s : State) (pa n : Nat) : Bool := (s.retired ++ s.badBlocks).any (fun k => overlaps pa n (64 * k) 64)

/-- The capacity status record (R220, R356). -/
def capacityRecord (asid tier pa layer kind seq : Nat) : BitVec 512 :=
  mkRecord 4 0 asid 0 0 (seq % 2 ^ 32 + kind * 2 ^ 32 + layer * 2 ^ 40 + pa * 2 ^ 64 + layerBytes * 2 ^ 128 + tier * 2 ^ 192)

/-- The fields of a `RETENTION` body (R365): the layer, its tier address, and whether the body is refused. -/
def retLayer (b : List DWord) : Nat := nfield (bodyWord b 0) 11 8
def retTier (b : List DWord) : Nat := bodyWord b 1
def retBad (b : List DWord) : Bool :=
  strayBody b [[(0, 0), (11, 8)], [(50, 16)]] || retTier b < 2 ^ 50 || retTier b + layerBytes > 2 ^ 51

/-- `RETENTION`, removing (R219, R220, R223). -/
def semRetentionRemove (h : CmdHeader) (b : List DWord) (c : Ctx) (_ : Cmd) (s : State) : State :=
  let k := retLayer b
  let pa := k * layerBytes
  if retBad b || s.layers.any (fun l => l.layer == k) || s.rangeUsed pa layerBytes then s.endCmd h 1 0
  else if s.anyBad pa layerBytes then s.endCmd h 2 0
  else
    let s := s.copyRange pa (retTier b) layerBytes
    let s : State := { s with layers := s.layers ++ [{ layer := k, tier := retTier b }], capSeq := s.capSeq + 1 }
    (s.emit (capacityRecord c.asid (retTier b) pa k 1 s.capSeq)).endCmd h 0 0

/-- `RETENTION`, removing (R219). -/
def execRetentionRemove (h : CmdHeader) (b : List DWord) (s : State) : Host.Outcome State Fault Refusal :=
  queued h b (semRetentionRemove h b) s

/-- `RETENTION`, restoring (R219, R220, R223). -/
def semRetentionRestore (h : CmdHeader) (b : List DWord) (c : Ctx) (_ : Cmd) (s : State) : State :=
  let k := retLayer b
  let pa := k * layerBytes
  if retBad b || !s.layers.contains { layer := k, tier := retTier b } then s.endCmd h 1 0
  else if s.anyBad (retTier b) layerBytes then s.endCmd h 2 0
  else
    let s := s.copyRange (retTier b) pa layerBytes
    let s : State := { s with layers := s.layers.filter (fun l => l.layer != k), capSeq := s.capSeq + 1 }
    (s.emit (capacityRecord c.asid (retTier b) pa k 2 s.capSeq)).endCmd h 0 0

/-- `RETENTION`, restoring (R219). -/
def execRetentionRestore (h : CmdHeader) (b : List DWord) (s : State) : Host.Outcome State Fault Refusal :=
  queued h b (semRetentionRestore h b) s

end Sys2Proof.Machine
end

