-- ==== Sys2Proof/Machine/Dispatch.lean ====
section
/-!
DEFINITION. The meaning of every operation: one arm for each constructor of `Instr`, one call of its meaning.
-/
namespace Sys2Proof.Machine

def exec (i : Instr) (s : State) : Host.Outcome State Fault Refusal :=
  match i with
  | .nop f => Sys2Proof.Machine.execNop f s
  | .exit f => Sys2Proof.Machine.execExit f s
  | .yield f => Sys2Proof.Machine.execYield f s
  | .bra f => Sys2Proof.Machine.execBra f s
  | .bru f => Sys2Proof.Machine.execBru f s
  | .call f => Sys2Proof.Machine.execCall f s
  | .ret f => Sys2Proof.Machine.execRet f s
  | .jmpi f => Sys2Proof.Machine.execJmpi f s
  | .rcvset f => Sys2Proof.Machine.execRcvset f s
  | .rcv f => Sys2Proof.Machine.execRcv f s
  | .launch f => Sys2Proof.Machine.execLaunch f s
  | .agen f => Sys2Proof.Machine.execAgen f s
  | .andR f => Sys2Proof.Machine.execAnd f s
  | .andImm f => Sys2Proof.Machine.execAndImm f s
  | .bfi f => Sys2Proof.Machine.execBfi f s
  | .bfx f => Sys2Proof.Machine.execBfx f s
  | .brev f => Sys2Proof.Machine.execBrev f s
  | .bsel f => Sys2Proof.Machine.execBsel f s
  | .clz f => Sys2Proof.Machine.execClz f s
  | .iabs f => Sys2Proof.Machine.execIabs f s
  | .iadd f => Sys2Proof.Machine.execIadd f s
  | .iaddImm f => Sys2Proof.Machine.execIaddImm f s
  | .isub f => Sys2Proof.Machine.execIsub f s
  | .isubImm f => Sys2Proof.Machine.execIsubImm f s
  | .imul f => Sys2Proof.Machine.execImul f s
  | .imulImm f => Sys2Proof.Machine.execImulImm f s
  | .imulh f => Sys2Proof.Machine.execImulh f s
  | .imulhImm f => Sys2Proof.Machine.execImulhImm f s
  | .imad f => Sys2Proof.Machine.execImad f s
  | .imax f => Sys2Proof.Machine.execImax f s
  | .imaxImm f => Sys2Proof.Machine.execImaxImm f s
  | .imin f => Sys2Proof.Machine.execImin f s
  | .iminImm f => Sys2Proof.Machine.execIminImm f s
  | .idiv f => Sys2Proof.Machine.execIdiv f s
  | .idivImm f => Sys2Proof.Machine.execIdivImm f s
  | .irem f => Sys2Proof.Machine.execIrem f s
  | .iremImm f => Sys2Proof.Machine.execIremImm f s
  | .icmp f => Sys2Proof.Machine.execIcmp f s
  | .icmpImm f => Sys2Proof.Machine.execIcmpImm f s
  | .mov f => Sys2Proof.Machine.execMov f s
  | .movFirst f => Sys2Proof.Machine.execMovFirst f s
  | .movi f => Sys2Proof.Machine.execMovi f s
  | .moviHi f => Sys2Proof.Machine.execMoviHi f s
  | .orR f => Sys2Proof.Machine.execOr f s
  | .orImm f => Sys2Proof.Machine.execOrImm f s
  | .popc f => Sys2Proof.Machine.execPopc f s
  | .rot f => Sys2Proof.Machine.execRot f s
  | .rotImm f => Sys2Proof.Machine.execRotImm f s
  | .sel f => Sys2Proof.Machine.execSel f s
  | .shl f => Sys2Proof.Machine.execShl f s
  | .shlImm f => Sys2Proof.Machine.execShlImm f s
  | .shr f => Sys2Proof.Machine.execShr f s
  | .shrImm f => Sys2Proof.Machine.execShrImm f s
  | .sra f => Sys2Proof.Machine.execSra f s
  | .sraImm f => Sys2Proof.Machine.execSraImm f s
  | .xorR f => Sys2Proof.Machine.execXor f s
  | .xorImm f => Sys2Proof.Machine.execXorImm f s
  | .cvt f => Sys2Proof.Machine.execCvt f s
  | .fadd f => Sys2Proof.Machine.execFadd f s
  | .faddImm f => Sys2Proof.Machine.execFaddImm f s
  | .fsub f => Sys2Proof.Machine.execFsub f s
  | .fsubImm f => Sys2Proof.Machine.execFsubImm f s
  | .fmul f => Sys2Proof.Machine.execFmul f s
  | .fmulImm f => Sys2Proof.Machine.execFmulImm f s
  | .fdiv f => Sys2Proof.Machine.execFdiv f s
  | .fdivImm f => Sys2Proof.Machine.execFdivImm f s
  | .ffma f => Sys2Proof.Machine.execFfma f s
  | .fmax f => Sys2Proof.Machine.execFmax f s
  | .fmaxImm f => Sys2Proof.Machine.execFmaxImm f s
  | .fmin f => Sys2Proof.Machine.execFmin f s
  | .fminImm f => Sys2Proof.Machine.execFminImm f s
  | .fcmp f => Sys2Proof.Machine.execFcmp f s
  | .fcmpImm f => Sys2Proof.Machine.execFcmpImm f s
  | .frnd f => Sys2Proof.Machine.execFrnd f s
  | .fsqrt f => Sys2Proof.Machine.execFsqrt f s
  | .frcp f => Sys2Proof.Machine.execFrcp f s
  | .frsq f => Sys2Proof.Machine.execFrsq f s
  | .fexp2 f => Sys2Proof.Machine.execFexp2 f s
  | .flog2 f => Sys2Proof.Machine.execFlog2 f s
  | .fsin f => Sys2Proof.Machine.execFsin f s
  | .fcos f => Sys2Proof.Machine.execFcos f s
  | .ftsum f => Sys2Proof.Machine.execFtsum f s
  | .pfma f => Sys2Proof.Machine.execPfma f s
  | .muel f => Sys2Proof.Machine.execMuel f s
  | .wadd f => Sys2Proof.Machine.execWadd f s
  | .wmul f => Sys2Proof.Machine.execWmul f s
  | .wfma f => Sys2Proof.Machine.execWfma f s
  | .wscal f => Sys2Proof.Machine.execWscal f s
  | .wexp f => Sys2Proof.Machine.execWexp f s
  | .wspan f => Sys2Proof.Machine.execWspan f s
  | .wsum f => Sys2Proof.Machine.execWsum f s
  | .wdot f => Sys2Proof.Machine.execWdot f s
  | .facc f => Sys2Proof.Machine.execFacc f s
  | .leafx f => Sys2Proof.Machine.execLeafx f s
  | .tex f => Sys2Proof.Machine.execTex f s
  | .texq f => Sys2Proof.Machine.execTexq f s
  | .texqRead f => Sys2Proof.Machine.execTexqRead f s
  | .trace f => Sys2Proof.Machine.execTrace f s
  | .ld f => Sys2Proof.Machine.execLd f s
  | .st f => Sys2Proof.Machine.execSt f s
  | .atom f => Sys2Proof.Machine.execAtom f s
  | .cas f => Sys2Proof.Machine.execCas f s
  | .fence f => Sys2Proof.Machine.execFence f s
  | .fenceWalk f => Sys2Proof.Machine.execFenceWalk f s
  | .cflush f => Sys2Proof.Machine.execCflush f s
  | .pref f => Sys2Proof.Machine.execPref f s
  | .mcst f => Sys2Proof.Machine.execMcst f s
  | .pldConv f => Sys2Proof.Machine.execPldConv f s
  | .pldRed f => Sys2Proof.Machine.execPldRed f s
  | .coll f => Sys2Proof.Machine.execColl f s
  | .copy f => Sys2Proof.Machine.execCopy f s
  | .gath f => Sys2Proof.Machine.execGath f s
  | .scat f => Sys2Proof.Machine.execScat f s
  | .scatAdd f => Sys2Proof.Machine.execScatAdd f s
  | .csig f => Sys2Proof.Machine.execCsig f s
  | .csigNode f => Sys2Proof.Machine.execCsigNode f s
  | .ctest f => Sys2Proof.Machine.execCtest f s
  | .cwait f => Sys2Proof.Machine.execCwait f s
  | .node f => Sys2Proof.Machine.execNode f s
  | .placeSet f => Sys2Proof.Machine.execPlaceSet f s
  | .placeGet f => Sys2Proof.Machine.execPlaceGet f s
  | .mwl f => Sys2Proof.Machine.execMwl f s
  | .mmac f => Sys2Proof.Machine.execMmac f s
  | .mzero f => Sys2Proof.Machine.execMzero f s
  | .mdrn f => Sys2Proof.Machine.execMdrn f s
  | .vxm f => Sys2Proof.Machine.execVxm f s
  | .bar f => Sys2Proof.Machine.execBar f s
  | .barArv f => Sys2Proof.Machine.execBarArv f s
  | .decp f => Sys2Proof.Machine.execDecp f s
  | .dect f => Sys2Proof.Machine.execDect f s
  | .lred f => Sys2Proof.Machine.execLred f s
  | .matchR f => Sys2Proof.Machine.execMatch f s
  | .slane f => Sys2Proof.Machine.execSlane f s
  | .vpoll f => Sys2Proof.Machine.execVpoll f s
  | .qpush f => Sys2Proof.Machine.execQpush f s
  | .qpop f => Sys2Proof.Machine.execQpop f s
  | .racq f => Sys2Proof.Machine.execRacq f s
  | .rrel f => Sys2Proof.Machine.execRrel f s
  | .xenq f => Sys2Proof.Machine.execXenq f s
  | .xdeq f => Sys2Proof.Machine.execXdeq f s
  | .xstatQuery f => Sys2Proof.Machine.execXstatQuery f s
  | .xstatFlush f => Sys2Proof.Machine.execXstatFlush f s
  | .xstatReset f => Sys2Proof.Machine.execXstatReset f s
  | .bkpt f => Sys2Proof.Machine.execBkpt f s
  | .gfin f => Sys2Proof.Machine.execGfin f s
  | .gfail f => Sys2Proof.Machine.execGfail f s
  | .merge f => Sys2Proof.Machine.execMerge f s
  | .rtt f => Sys2Proof.Machine.execRtt f s
  | .sreg f => Sys2Proof.Machine.execSreg f s
  | .swr f => Sys2Proof.Machine.execSwr f s
  | .trap f => Sys2Proof.Machine.execTrap f s
  | .lineFetch => Sys2Proof.Machine.execLineFetch s
  | .parkedThreadReexecute w lane => Sys2Proof.Machine.execParkedThreadReexecute w lane s
  | .fairnessTimerExpiry w => Sys2Proof.Machine.execFairnessTimerExpiry w s
  | .joinBarrierExpiry w j => Sys2Proof.Machine.execJoinBarrierExpiry w j s
  | .watchdog w j => Sys2Proof.Machine.execWatchdog w j s
  | .teamRetirement t => Sys2Proof.Machine.execTeamRetirement t s
  | .gridRetirement g => Sys2Proof.Machine.execGridRetirement g s
  | .teamPlacement => Sys2Proof.Machine.execTeamPlacement s
  | .activeSetExchange core bay => Sys2Proof.Machine.execActiveSetExchange core bay s
  | .blockedWaveSwap core bay => Sys2Proof.Machine.execBlockedWaveSwap core bay s
  | .rotation core bay => Sys2Proof.Machine.execRotation core bay s
  | .registerMoveComplete w => Sys2Proof.Machine.execRegisterMoveComplete w s
  | .skidStop w => Sys2Proof.Machine.execSkidStop w s
  | .engineCauseDelivery t => Sys2Proof.Machine.execEngineCauseDelivery t s
  | .quarterTransfer core bay slot => Sys2Proof.Machine.execQuarterTransfer core bay slot s
  | .matrixFifoAcceptance core => Sys2Proof.Machine.execMatrixFifoAcceptance core s
  | .matrixEntryStart core bay => Sys2Proof.Machine.execMatrixEntryStart core bay s
  | .matrixEntryCompletion core bay => Sys2Proof.Machine.execMatrixEntryCompletion core bay s
  | .transferAcceptance core => Sys2Proof.Machine.execTransferAcceptance core s
  | .sectorWrite xfer sector => Sys2Proof.Machine.execSectorWrite xfer sector s
  | .transferCompletion xfer => Sys2Proof.Machine.execTransferCompletion xfer s
  | .csigEffect id => Sys2Proof.Machine.execCsigEffect id s
  | .collectiveChunk op chunk => Sys2Proof.Machine.execCollectiveChunk op chunk s
  | .conversionStart asid idx => Sys2Proof.Machine.execConversionStart asid idx s
  | .conversionEnd asid idx => Sys2Proof.Machine.execConversionEnd asid idx s
  | .loadReply req => Sys2Proof.Machine.execLoadReply req s
  | .atomicReply req => Sys2Proof.Machine.execAtomicReply req s
  | .texSampleComplete req => Sys2Proof.Machine.execTexSampleComplete req s
  | .traceWalkEnd req => Sys2Proof.Machine.execTraceWalkEnd req s
  | .deferredUpdateArrival id => Sys2Proof.Machine.execDeferredUpdateArrival id s
  | .mergePerform g => Sys2Proof.Machine.execMergePerform g s
  | .fillFrameAvailable asid range => Sys2Proof.Machine.execFillFrameAvailable asid range s
  | .graphWorkCompletion core slot => Sys2Proof.Machine.execGraphWorkCompletion core slot s
  | .enqueueEvent id => Sys2Proof.Machine.execEnqueueEvent id s
  | .channelGrant chan => Sys2Proof.Machine.execChannelGrant chan s
  | .laneReclaim chan => Sys2Proof.Machine.execLaneReclaim chan s
  | .rowActivationRefresh row checkFailed => Sys2Proof.Machine.execRowActivationRefresh row checkFailed s
  | .dirtyLineWriteBack pa asid bad => Sys2Proof.Machine.execDirtyLineWriteBack pa asid bad s
  | .portLinkLoss port => Sys2Proof.Machine.execPortLinkLoss port s
  | .ualinkRequest r => Sys2Proof.Machine.execUalinkRequest r s
  | .boot => Sys2Proof.Machine.execBoot s
  | .powerLimitSet mW => Sys2Proof.Machine.execPowerLimitSet mW s
  | .clockStepChange measured => Sys2Proof.Machine.execClockStepChange measured s
  | .thermalStepDown degC => Sys2Proof.Machine.execThermalStepDown degC s
  | .thermalShutdown degC => Sys2Proof.Machine.execThermalShutdown degC s
  | .preemptAcknowledgement asid u => Sys2Proof.Machine.execPreemptAcknowledgement asid u s
  | .ctxCreate h b => Sys2Proof.Machine.execCtxCreate h b s
  | .ctxDestroy h b => Sys2Proof.Machine.execCtxDestroy h b s
  | .map h b => Sys2Proof.Machine.execMap h b s
  | .unmap h b => Sys2Proof.Machine.execUnmap h b s
  | .launchCommand h b => Sys2Proof.Machine.execLaunchCommand h b s
  | .graphNode h b => Sys2Proof.Machine.execGraphNode h b s
  | .signal h b => Sys2Proof.Machine.execSignal h b s
  | .wait h b => Sys2Proof.Machine.execWait h b s
  | .waitCompletion asid queue => Sys2Proof.Machine.execWaitCompletion asid queue s
  | .setDlevel h b => Sys2Proof.Machine.execSetDlevel h b s
  | .procRangeRegister h b => Sys2Proof.Machine.execProcRangeRegister h b s
  | .procRangeReset h b => Sys2Proof.Machine.execProcRangeReset h b s
  | .procRangeDeregister h b => Sys2Proof.Machine.execProcRangeDeregister h b s
  | .expertSetCreate h b => Sys2Proof.Machine.execExpertSetCreate h b s
  | .expertSetDelete h b => Sys2Proof.Machine.execExpertSetDelete h b s
  | .placementSet h b => Sys2Proof.Machine.execPlacementSet h b s
  | .trigger h b => Sys2Proof.Machine.execTrigger h b s
  | .preemptStop h b => Sys2Proof.Machine.execPreemptStop h b s
  | .preemptResume h b => Sys2Proof.Machine.execPreemptResume h b s
  | .retentionRemove h b => Sys2Proof.Machine.execRetentionRemove h b s
  | .retentionRestore h b => Sys2Proof.Machine.execRetentionRestore h b s
  | .queryIdentity h b => Sys2Proof.Machine.execQueryIdentity h b s
  | .queryErrorLog h b => Sys2Proof.Machine.execQueryErrorLog h b s
  | .queryCoreAssignment h b => Sys2Proof.Machine.execQueryCoreAssignment h b s
  | .queryBlockStates h b => Sys2Proof.Machine.execQueryBlockStates h b s
  | .queryGraphLog h b => Sys2Proof.Machine.execQueryGraphLog h b s
  | .queryLinkLog h b => Sys2Proof.Machine.execQueryLinkLog h b s
  | .queryContextSummary h b => Sys2Proof.Machine.execQueryContextSummary h b s
  | .attest h b => Sys2Proof.Machine.execAttest h b s
  | .unknownCmdMessage h => Sys2Proof.Machine.execUnknownCmdMessage h s
  | .unassignedCodePoint word => Sys2Proof.Machine.execUnassignedCodePoint word s
  | .dataLaneLending chan => Sys2Proof.Machine.execDataLaneLending chan s

end Sys2Proof.Machine
end

