-- ==== Sys2Proof/Machine/Turns.lean ====
section
/-!
DEFINITION. Who moves (log 6): the arrival of command messages and the start of queued commands (18 R354, R355; 13 R271, R272), what
the outside and the caches do, and the turns that units of the machine can take. `run` is the machine's `exec`.
-/
namespace Sys2Proof.Machine

/-- A command message arrives (R354, R355, R370, R374): control commands and refused messages are carried out at once, the others
join the queue they name. -/
def hostTurn (run : Instr → State → Host.Outcome State Fault Refusal) (msg : List Byte) (s : State) :
    Host.Outcome State Fault Refusal :=
  let h := decodeHeader msg
  let b := bodyWords (msg.drop 32)
  let i := decodeCommand h b
  let direct := match i with
    | .unknownCmdMessage _ | .ctxCreate _ _ | .ctxDestroy _ _ | .preemptResume _ _ | .attest _ _ => true
    | _ => h.pkg
  if direct || s.shutdown || s.recovery then run i s
  else match s.ctx? (ha h) with
    | none => run i s
    | some c =>
      if hq h ≥ c.nq then run i s
      else .next (s.updCtx c.asid (fun c => c.enqueue (hq h) { h := h, body := b, step := 0 }))

/-- The queues whose next command can start (R271, R288): priority, ASID and queue. -/
def State.heads (s : State) : List (Nat × Nat × Nat) :=
  s.ctxs.flatMap (fun c => (List.range c.nq).filterMap (fun q =>
    match cellGet [] c.queued q with
    | [] => none
    | k :: _ =>
      if (c.runs q).isSome || (c.stopped && !isStop k.h k.body) then none else some (c.qprio.getD q 0, c.asid, q)))

/-- Whether a pair comes before another in the round after the pair last served (R272). -/
def roundBefore (last a b : Nat × Nat) : Bool :=
  let less (x y : Nat × Nat) : Bool := x.1 < y.1 || (x.1 == y.1 && x.2 < y.2)
  let wrapped (x : Nat × Nat) : Bool := !less last x
  if wrapped a == wrapped b then less a b else !wrapped a

/-- The queue that is served next (R272). -/
def pickQueue (last : Nat × Nat) : List (Nat × Nat × Nat) → Option (Nat × Nat × Nat)
  | [] => none
  | a :: l => match pickQueue last l with
    | none => some a
    | some b => if a.1 > b.1 || (a.1 == b.1 && roundBefore last a.2 b.2) then some a else some b

/-- The command processor starts the next command (R272). -/
def serveTurn (run : Instr → State → Host.Outcome State Fault Refusal) (s : State) : Host.Outcome State Fault Refusal :=
  if s.shutdown then .next s else
  match pickQueue s.lastServed s.heads with
  | none => .next s
  | some (_, asid, q) =>
    match (s.ctx? asid).map (fun c => cellGet [] c.queued q) with
    | some (k :: rest) =>
      let take (c : Ctx) : Ctx := { c with
        queued := if rest.isEmpty then c.queued.filter (fun p => p.1 != q) else (c.queued.filter (fun p => p.1 != q)) ++ [(q, rest)] }
      run (decodeCommand k.h k.body) { s.updCtx asid take with lastServed := (asid, q) }
    | _ => .next s

/-- Whether the package has the unit in which a TLB stands (R8). -/
def placeThere (p : TlbPlace) : Bool :=
  match p with
  | .bay c n => c < 48 && n < 4
  | .core c => c < 48
  | .die d => d < 4

/-- What a walk of a VA reads at a level, when it is a table or a page (R231, R234). -/
def State.walkTo (s : State) (va level : Nat) : Nat → Nat → Nat → Option Pte
  | 0, _, _ => none
  | fuel + 1, at', table =>
    let a := pteAddr table at' va
    if (s.badByte a 8).isSome then none else
    match s.pteAt at' a with
    | .table t => if at' == level then some (.table t) else s.walkTo va level fuel (at' + 1) t
    | .page pa w x => if at' == level then some (.page pa w x) else none
    | _ => none

/-- Whether what one TLB holds serves a walk for another: that of a bay asks its core's and its die's (R234; log 82). -/
def TlbPlace.serves (p q : TlbPlace) : Bool :=
  match p, q with
  | .bay c n, .bay d m => c == d && n == m
  | .core c, .bay d _ | .core c, .core d => c == d
  | .die i, .bay d _ | .die i, .core d => i == dieOf d
  | .die i, .die k => i == k
  | _, _ => false

/-- Where a walk for a TLB towards a level begins: at the deepest walked entry that serves it, else at the root (R231, R234). -/
def State.walkStart (s : State) (c : Ctx) (place : TlbPlace) (va level : Nat) : Nat × Nat :=
  match [2, 1, 0].findSome? (fun k => if k ≥ level then none else s.tlb.find? (fun e =>
      e.asid == c.asid && e.table && e.level == k && va / 2 ^ pageBits k == e.va / 2 ^ pageBits k && e.place.serves place)) with
  | some e => (e.level + 1, e.pa)
  | none => (0, c.ptroot.toNat)

/-- A TLB caches what a walk reads at a level (R234): none of the heap or of the spill area, which no walk serves. -/
def tlbFillTurn (place : TlbPlace) (asid va level : Nat) (s : State) : State :=
  match s.ctx? asid with
  | none => s
  | some c =>
    let a := va % 2 ^ 56
    let inHeap := c.heapLimit.toNat != 0 && c.heapBase.toNat ≤ a && a < c.heapBase.toNat + c.heapLimit.toNat
    let e (table : Bool) (pa : Nat) (w x : Bool) : TlbEntry :=
      { place := place, asid := asid, level := level, table := table, va := a / 2 ^ pageBits level * 2 ^ pageBits level, pa := pa, w := w, x := x }
    if inHeap || (c.spillVa ≤ a && a < c.spillVa + c.spillSz * 2 ^ 16) || !placeThere place then s
    else match s.walkTo a level 4 (s.walkStart c place a level).1 (s.walkStart c place a level).2 with
      | some (.page pa w x) => { s with tlb := s.tlb ++ [e false pa w x] }
      | some (.table t) => { s with tlb := s.tlb ++ [e true t false false] }
      | _ => s

/-- A 64-byte block of memory suffers an uncorrectable error, to be found by whoever reads it (R222). -/
def badTurn (pa : Nat) (s : State) : State :=
  if s.badBlocks.contains (pa / 64) then s else { s with badBlocks := s.badBlocks ++ [pa / 64] }

/-- An uncorrectable error comes to stand in a register of a lane, an S register under lane 0, or in a byte of the pool (R222, R223). -/
def badRegTurn (w : WaveId) (lane code : Nat) (s : State) : State :=
  if (code < 320 && lane < 32) || (384 ≤ code && code < 448 && lane == 0) then
    s.updWave w (fun w => { w with badRegs := w.badRegs ++ [(lane, code)] })
  else s
def badPoolTurn (t : TeamId) (space addr : Nat) (s : State) : State :=
  s.updTeam t (fun t => { t with badPool := t.badPool ++ [(space, addr)] })

/-- A corrected soft error is counted in the error log (R222): of HBM with its stack and channel, of another unit with its die (R7, R366). -/
def softTurn (e : LogEntry) (s : State) : State :=
  if e.unit ≤ 5 && (if e.unit == 3 then e.die < 24 && e.chan < 32 else e.die < 4 && e.chan == 0) then { s with errLog := s.errLog ++ [{ e with kind := 1 }] } else s

/-- Whether an operation is an event that a unit or the outside can bring about by itself: no instruction of a slot, no
command, no fetch. -/
def isEvent (i : Instr) : Bool :=
  match i with
  | .lineFetch | .unassignedCodePoint _ => false
  | .ctxCreate _ _ | .ctxDestroy _ _ | .map _ _ | .unmap _ _ | .launchCommand _ _ | .graphNode _ _ | .signal _ _ | .wait _ _
  | .setDlevel _ _ | .procRangeRegister _ _ | .procRangeReset _ _ | .procRangeDeregister _ _ | .expertSetCreate _ _
  | .expertSetDelete _ _ | .placementSet _ _ | .trigger _ _ | .preemptStop _ _ | .preemptResume _ _ | .retentionRemove _ _
  | .retentionRestore _ _ | .queryIdentity _ _ | .queryErrorLog _ _ | .queryCoreAssignment _ _ | .queryBlockStates _ _
  | .queryGraphLog _ _ | .queryLinkLog _ _ | .queryContextSummary _ _ | .attest _ _ | .unknownCmdMessage _ => false
  | i => (encode i).isNone

/-- One turn. -/
def turn (run : Instr → State → Host.Outcome State Fault Refusal) (t : Turn) (s : State) : Host.Outcome State Fault Refusal :=
  match t with
  | .slot w => slotTurn run w s
  | .loop w l => loopTurn run w l s
  | .clock c => clockTurn run c s
  | .event i => if isEvent i then run i s else .next s
  | .host m => hostTurn run m s
  | .serve => serveTurn run s
  | .retry a => commit s (s.retryHeld a)
  | .tlbFill p a va l => commit s (tlbFillTurn p a va l s)
  | .tlbDrop k => commit s { s with tlb := s.tlb.eraseIdx k }
  | .chanArrive pa walk o => commit s (chanArriveTurn pa walk o s)
  | .chanClock k => commit s (chanClockTurn k s)
  | .peer p => commit s { s with peers := s.peers ++ [p] }
  | .bad pa => commit s (badTurn pa s)
  | .badReg w l c => commit s (badRegTurn w l c s)
  | .badPool t p a => commit s (badPoolTurn t p a s)
  | .soft e => commit s (softTurn e s)
  | .activate r => commit s (activateTurn r s)
  | .ack c id => commit s (s.acknowledge c id)
  | .ualRetry k => commit s (ualRetryTurn k s)
  | .icacheDrop c k => commit s (s.updCore c (fun x => { x with icache := x.icache.eraseIdx k }))

/-- The event of a pending request. -/
def Req.event (r : Req) : Instr :=
  match r.kind with
  | .atomic | .marks => .atomicReply r.id
  | .texture => .texSampleComplete r.id
  | .walk _ _ _ => .traceWalkEnd r.id
  | _ => .loadReply r.id

/-- The turns that units with work can take. -/
def State.able (s : State) : List Turn :=
  let slots := (List.range 48).flatMap (fun c => (List.range 4).map (fun b => (c, b)))
  s.waves.map (fun w => .slot w.id) ++ s.waves.flatMap (fun w => w.lanes.map (fun l => .loop w.id l))
    ++ (List.range 48).flatMap (fun c => ((s.core c).acks.map (·.id) ++ (s.core c).sectors).map (Turn.ack c))
    ++ (List.range s.ualIn.length).map .ualRetry ++ (List.range 48).map .clock ++ [.serve] ++ s.ctxs.map (fun c => .retry c.asid)
    ++ (s.waves.map (fun w => Instr.registerMoveComplete w.id)
      ++ (s.waves.filter (fun w => match w.halt with | .skid _ => true | _ => false)).map (fun w => Instr.skidStop w.id)
      ++ s.grids.flatMap (fun g => [Instr.mergePerform g.id, Instr.gridRetirement g.id]) ++ [Instr.teamPlacement]
      ++ s.teams.map (fun t => Instr.teamRetirement t.id)
      ++ s.cores.flatMap (fun k => k.2.graph.map (fun p => Instr.graphWorkCompletion k.1 p.1))
      ++ s.teams.flatMap (fun t => t.staged.map (fun q => Instr.quarterTransfer t.core q.bay q.slot))
      ++ (List.range 48).flatMap (fun c => [Instr.matrixFifoAcceptance c, Instr.transferAcceptance c])
      ++ slots.flatMap (fun p => [Instr.matrixEntryStart p.1 p.2, Instr.matrixEntryCompletion p.1 p.2])
      ++ s.xfers.flatMap (fun t => (t.sectors.map (fun k => Instr.sectorWrite t.id (sectorName k))) ++ [Instr.transferCompletion t.id])
      ++ s.csigs.map (fun g => Instr.csigEffect g.id)
      ++ s.colls.flatMap (fun o => (List.range (chunkCount (tensorOf o.dst.toNat) + 1)).map (Instr.collectiveChunk o.id))
      ++ s.ctxs.flatMap (fun c => c.demands.flatMap (fun m => [Instr.conversionStart c.asid m.idx, Instr.conversionEnd c.asid m.idx])
          ++ c.procs.map (fun p => Instr.fillFrameAvailable c.asid p.1) ++ c.running.map (fun p => Instr.waitCompletion c.asid p.1) ++ c.acks.map (Instr.preemptAcknowledgement c.asid))
      ++ s.reqs.map Req.event ++ s.updates.map (fun u => Instr.deferredUpdateArrival u.2.2.1)
      ++ s.waiting.flatMap (fun w => [Instr.enqueueEvent w.id, Instr.texSampleComplete w.id] ++ w.conversion)
      ++ s.chans.flatMap (fun h => [Instr.channelGrant h.1, Instr.laneReclaim (h.1 / 2), Instr.dataLaneLending (h.1 / 2)])).map Turn.event

/-- The turn taken when nothing names the next: a free choice among the turns that units can take (log 6). -/
def State.choose (s : State) : Turn := s.able.getD (Config.freeNat s.fresh % s.able.length) .serve

end Sys2Proof.Machine
end

