-- ==== Sys2Proof/Machine/Start.lean ====
section
/-!
DEFINITION. The least state in which a given instruction is the next that runs (log 16): a context, a grid of one team of one wave
whose line the core's instruction cache holds, or a command message about to be carried out.
-/
namespace Sys2Proof.Machine

/-- The wave of a lone slot: wave 0 of team 0 of launch 1 of context 0. -/
def loneWid : WaveId := { team := { grid := { asid := 0, lseq := 1 }, team := 0, copy := 0 }, wave := 0 }

/-- The launch record of a lone wave: one team of one wave of all 320 registers. -/
def loneRec : LaunchRec :=
  { parseRec 0 with gx := 1, gy := 1, gz := 1, rf := 1, nregs := 320, ngen := 1, width := 1, height := 1 }

/-- A role that may run the instruction of a slot (R48), else GENERAL. -/
def loneRole (w : Slot) : Role :=
  match decodeSlot w with
  | .error _ => .general
  | .ok i => ([Role.general, .vector, .matrix, .copy].find? (roleOk i)).getD .general

/-- A state in which the next slot of a lone wave holds `w` at PC 0. -/
def State.withSlot (s : State) (w : Slot) : State :=
  let c := newCtx 0 []
  let (_, t) := ({ s with ctxs := [c], grids := [], teams := [], waves := [] } : State).newGrid 0 loneRec (.host 0 0) 1 0 0
  let t := match t.grids with
    | g :: _ => (t.updGrid g.id (fun g => { g with rect := some 0 })).placeTeam { g with rect := some 0 } 0 0 0
    | [] => t
  let line : BitVec 512 := w.setWidth 512
  let wake (x : Wave) : Wave := { x with role := loneRole w, active := true, entry := false }
  { t.updCore 0 (fun k => { k with icache := [(0, 0, line)] }) with
    waves := t.waves.map wake
    due := []
    agenda := [.slot loneWid]
    booted := true
    recovery := false
    shutdown := false }

/-- Whether a command is carried out from its queue (R355, R359). -/
def isQueued (h : CmdHeader) (i : Instr) : Bool :=
  match i with
  | .unknownCmdMessage _ | .ctxCreate _ _ | .ctxDestroy _ _ | .preemptResume _ _ | .attest _ _ => false
  | _ => !h.pkg

/-- A state in which the command of a message is carried out next. -/
def State.withMessage (s : State) (msg : List Byte) : State :=
  let h := decodeHeader msg
  let b := bodyWords (msg.drop 32)
  let s : State := { s with due := [], booted := true, recovery := false, shutdown := false }
  if isQueued h (decodeCommand h b) then
    let c : Ctx := { newCtx (ha h) [] with nq := 16, queued := [(hq h, [{ h := h, body := b, step := 0 }])] }
    { s with ctxs := [c], agenda := [.serve] }
  else { s with agenda := [.host msg] }

end Sys2Proof.Machine
end

