-- ==== Sys2Proof/Machine/Step.lean ====
section
/-!
DEFINITION. One step of the machine: an event that is due comes first, then the turn the agenda names, then a free choice among the
turns that units can take (log 6); and the placing of one instruction where the next step runs it.
-/
namespace Sys2Proof.Machine

/-- One step. -/
def step (s : State) : Host.Outcome State Fault Refusal :=
  match s.due with
  | i :: rest => exec i { s with due := rest }
  | [] => match s.agenda with
    | t :: rest => turn exec t { s with agenda := rest }
    | [] => turn exec s.choose { s with fresh := s.fresh + 1 }

/-- The instruction in `nbits` bits, placed so that the next step runs it (log 16): a slot of up to 96 bits, or a command
message. -/
def State.withFetchWord (s : State) (nbits w : Nat) : State :=
  if nbits ≤ 96 then s.withSlot (BitVec.ofNat 96 w) else s.withMessage (toBytes (ceilDiv nbits 8) w)

end Sys2Proof.Machine
end

