-- ==== Sys2Proof/Safety.lean ====
section
/-!
DEFINITION. What counts as a safe run of the machine, and the terms in which statements speak of one step: an instruction that
issues with nothing in its way, what its lanes wrote, and the state after an effect.
-/
namespace Sys2Proof.Machine

/-- Memory is in its canonical form, and no store of a step is left over. -/
def State.memOk (s : State) : Prop := Memory.wf s.mem = true ∧ s.stores = []

/-- A step goes on. -/
def goesOn (s : State) : Prop := ∃ t, step s = .next t

/-- The group that `s.cur` names issues `i` with header `h`, and nothing stands in its way: some guard is true (R74), no operand
breaks R54, R84 or R87 to R89, the role may run it (R49), every V source is full and not failed in every lane that it is read
in and no write to a destination is pending (R90, R91, R412), and no source register has an uncorrectable error (R223). `x` is what R34, R74 and R75 make of the group: its active lanes, and the lanes that execute. -/
structure Issues (i : Instr) (h : Hdr) (s : State) (x : Iss) : Prop where
  wave : s.wave? x.wid = some x.w
  cur : ∃ c, s.cur = some c ∧ c.wid = x.wid ∧ c.pc = x.pc ∧ lanesOf c.lanes = x.group
  act : x.act = x.group.filter (guardTrue h x.w)
  active : x.act ≠ []
  uni : x.uni = isUniform i
  lanes : x.lanes = if x.uni then x.act.take 1 else x.act
  operands : operandFault i x.w = none
  role : s.roleRefused i x.w = false
  full : ∀ o ∈ spansOf i x.w, o.isV = true →
    (o.dst = true → ∀ l ∈ x.act, x.w.anyPending l o.code o.count = false) ∧
    (o.dst = false → ∀ l ∈ readIn i x.act o, x.w.anyEmpty l o.code o.count = false ∧ x.w.anyFailed l o.code o.count = false)
  sound : badSources i x.w x.act = none
  quiet : s.stores = []

/-- The end of a step that made `s'` of `s`: its stores are drained into memory. -/
def drained (s s' : State) : State := { s' with mem := cellSets memDefault s.mem s'.stores.reverse, stores := [] }

/-- The state after an effect that made `s'` of `s`, the threads of the group but for `stay` having gone to the next PC (R70). -/
def wentOn (x : Iss) (s s' : State) (stay : List Nat) : State :=
  drained s (advance s' x.wid (x.group.filter (fun l => !stay.contains l)) x.pc)

/-- `t` is `s` but for one wave and for what `t.waves` says of it: every other field of the state, every other wave and every
byte of memory is as it was. -/
structure OnlyWave (s t : State) (wid : WaveId) : Prop where
  rest : t = { s with waves := t.waves }
  others : ∀ k, k ≠ wid → t.wave? k = s.wave? k
  bytes : ∀ pa, t.byteAt pa = s.byteAt pa

/-- A write that a lane's result makes to V register `r` (R88). -/
def LaneOut.names (o : LaneOut) (r : Nat) : Prop := ∃ p ∈ o.writes, p.1 < 320 ∧ (r = p.1 ∨ (2 ≤ p.2.1 ∧ r = p.1 + 1))

/-- The registers to which a lane's result is written, by lane and code; an S register stands under lane 0. -/
def LaneOut.regs (o : LaneOut) (l : Nat) (p : Nat × Nat) : Prop :=
  (∃ r, o.names r ∧ p = (l, r)) ∨ ∃ q ∈ o.writes, 384 ≤ q.1 ∧ q.1 < 448 ∧ p = (0, q.1)

/-- The threads in which a lane's predicate results are written: the whole group for a uniform instruction (R422). -/
def Iss.predLanes (x : Iss) (l : Nat) : List Nat := if x.uni then x.group else [l]

/-- What an arithmetic instruction leaves in its wave when its executing lanes produce `f`: each result in its register (the low 32
bits in one V register, the halves of a pair, 64 bits in an S register), the register's marks that no value is to come, of a failed claim
and of an error gone with it (R157, R223, R412), each predicate result, `FLAGS` with the exceptions of all
lanes ORed in (R129), the threads of the group at the next PC, with what entries held of the instruction's reads used (R320), and nothing
else changed. -/
structure WroteLanes (x : Iss) (w : Wave) (f : Nat → LaneOut) : Prop where
  rest : w = { x.w with s := w.s, v := w.v, empties := w.empties, failed := w.failed, badRegs := w.badRegs, threads := w.threads, flags := w.flags, hold := none }
  flags : w.flags = x.lanes.foldl (fun e l => e ||| (f l).exc) x.w.flags
  reg : ∀ l ∈ x.lanes, ∀ p ∈ (f l).writes, p.1 < 320 →
    w.vreg l p.1 = BitVec.ofNat 32 p.2.2 ∧ (2 ≤ p.2.1 → w.vreg l (p.1 + 1) = BitVec.ofNat 32 (p.2.2 / 2 ^ 32))
  regFrame : ∀ l r, l < 32 → ¬ (l ∈ x.lanes ∧ (f l).names r) → w.vreg l r = x.w.vreg l r
  sreg : x.uni = true → ∀ l ∈ x.lanes, ∀ p ∈ (f l).writes, 384 ≤ p.1 → p.1 < 448 →
    w.sreg (p.1 - 384) = BitVec.ofNat 64 p.2.2
  sregFrame : ∀ k, (∀ l ∈ x.lanes, ∀ p ∈ (f l).writes, p.1 ≠ k + 384) → w.sreg k = x.w.sreg k
  empties : ∀ p, p ∈ w.empties ↔ p ∈ x.w.empties ∧ ¬ (p.2 = 0 ∧ ∃ l ∈ x.lanes, ∃ r, (f l).names r ∧ p.1 = vkey l r)
  failed : ∀ k, k ∈ w.failed ↔ k ∈ x.w.failed ∧ ¬ ∃ l ∈ x.lanes, ∃ r, (f l).names r ∧ k = vkey l r
  badRegs : ∀ p, p ∈ w.badRegs ↔ p ∈ x.w.badRegs ∧ ¬ ∃ l ∈ x.lanes, (f l).regs l p
  pred : ∀ l ∈ x.lanes, ∀ q ∈ (f l).preds, q.1 ≠ 0 → q.1 < 8 → ∀ k ∈ x.predLanes l, w.pred k q.1 = q.2
  predFrame : ∀ k p, (∀ l ∈ x.lanes, ∀ q ∈ (f l).preds, q.1 = p → k ∉ x.predLanes l) → w.pred k p = x.w.pred k p
  thread : ∀ l, w.thread l = if l ∈ x.group then
      { x.w.thread l with pc := nextPc x.pc, run := if (x.w.thread l).run = .ended then .ended else .ready,
                          preds := (w.thread l).preds, srcnt := (w.thread l).srcnt,
                          seen := (x.w.thread l).seen.filter (fun b => b.1 != x.pc) }
    else { x.w.thread l with preds := (w.thread l).preds, srcnt := (w.thread l).srcnt }
  srcnt : ∀ l, (w.thread l).srcnt = (x.w.thread l).srcnt + (if l ∈ x.lanes then BitVec.ofNat 64 (f l).draws else 0)

/-- `t` is the state after an arithmetic instruction whose executing lanes produce `f`. -/
def Computed (x : Iss) (s t : State) (f : Nat → LaneOut) : Prop :=
  OnlyWave s t x.wid ∧ ∃ w, t.wave? x.wid = some w ∧ WroteLanes x w f

/-- No executing lane produces an exception that its thread enables (R129). -/
def NoTrap (x : Iss) (f : Nat → LaneOut) : Prop := ∀ l ∈ x.lanes, (f l).exc &&& (x.w.thread l).fen = 0

/-- The value of an integer operand of type `t` in a lane (R85, R88). -/
def Iss.int (x : Iss) (l : Nat) (code : RegCode) (t : Nat) : Int := intVal t (x.rd l code (words t))

/-- The bits of an operand of type `t` in a lane. -/
def Iss.pat (x : Iss) (l : Nat) (code : RegCode) (t : Nat) : Nat := x.rd l code (words t) % 2 ^ tyWidth t

/-- The value of a float operand of type `t` in a lane (R419). -/
def Iss.flt (x : Iss) (l : Nat) (code : RegCode) (t : Nat) : Val := decVal t (x.rd l code 1 % 2 ^ tyWidth t)

/-- One integer result of type `t` with its exceptions. -/
def LaneOut.int (d : RegCode) (t : Nat) (v : Int) (e : BitVec 6) : LaneOut := LaneOut.one d.toNat (words t) (extendTo 64 t v) e

/-- The result of an operation whose exact value is `v`, with `.SAT` or without (R116): reduced into the type, or held within its
bounds with an overflow where they cut. -/
def LaneOut.sum (d : RegCode) (t : Nat) (sat : Bool) (v : Int) : LaneOut :=
  if sat then LaneOut.int d t (clampInt t v) (if clampInt t v = v then 0 else ofBit) else LaneOut.int d t v 0

/-- A float result with its exceptions. -/
def LaneOut.flt (d : RegCode) (r : Nat × BitVec 6) : LaneOut := LaneOut.one d.toNat 1 r.1 r.2

/-- The results of a comparison (R422, R435): the truth value in a predicate, all ones or zero in the register. -/
def LaneOut.cmp (d : RegCode) (p : Nat) (b : Bool) (e : BitVec 6) : LaneOut :=
  { writes := [(d.toNat, 1, if b then 2 ^ 64 - 1 else 0)], preds := [(p, b)], exc := e, draws := 0 }

/-- In every state in which `i` issues with nothing in its way and no lane produces an exception that its thread enables, `i` goes
on and writes `f` (R129). -/
def Yields (i : Instr) (h : Hdr) (f : Iss → Nat → LaneOut) : Prop :=
  ∀ s x, Issues i h s x → NoTrap x (f x) → ∃ t, exec i s = .next t ∧ Computed x s t (f x)

/-- The team of the issuing wave is there, and is not redundant. -/
def alone (x : Iss) (s : State) (t : Team) : Prop := s.team? x.wid.team = some t ∧ t.red = false

/-- The accesses of the executing lanes: `n` bytes at `va l`. -/
def Iss.accs (x : Iss) (va : Nat → Nat) (n : Nat) : List LaneAcc := x.lanes.map (fun l => { lane := l, va := va l, n := n })

/-- Every one of some accesses translates, to the pieces `pas` of its lane (R226), and meets no line that an engine owns (R258), no
entry that converts (R320) and no placement check (R317). -/
structure Lands (x : Iss) (s : State) (as : List LaneAcc) (acc : Acc) (place : Ctx → LaneAcc → Bool)
    (pas : Nat → List (Nat × Nat)) (c : Ctx) : Prop where
  ctx : s.ctx? (asidOf x.wid) = some c
  each : ∀ a ∈ as, s.xlateAll c (s.ownBlock x.wid.team.grid) a.va a.n acc = .ok (pas a.lane) ∧
    s.owned c.asid a.va a.n = false ∧ c.converting a.va a.n = none ∧ place c a = false

/-- And the core has request slots for them (R207). -/
structure Reaches (x : Iss) (s : State) (as : List LaneAcc) (acc : Acc) (place : Ctx → LaneAcc → Bool)
    (pas : Nat → List (Nat × Nat)) (c : Ctx) : Prop extends Lands x s as acc place pas c where
  room : s.slotsUsed x.w.core + slotsOf as ≤ 768

/-- The lanes that access, with the PAs of each, where nothing holds an access back. -/
def allGo (s : State) (as : List LaneAcc) (pas : Nat → List (Nat × Nat)) : Phase :=
  { s := s, stay := [], go := as.map (fun a => (a, pas a.lane)), held := [] }

/-- No executing lane has an access that a converting entry holds (R320). -/
def noneHeld (x : Iss) : Prop := ∀ l ∈ x.lanes, ∀ id, (x.w.thread l).run ≠ .blocked (.reply id false) ∧ (x.w.thread l).run ≠ .blocked (.reply id true)

/-- An access whose value goes to register `code` is performed at once: no converting entry holds it, and where the value comes back in the
step itself no request of the wave's load waits at a pseudo-channel (R217, R320). -/
structure AtOnce (x : Iss) (s : State) (code : Nat) : Prop where
  held : noneHeld x
  channel : 384 ≤ code → code < 448 → x.atChannel s = false

/-- No executing lane reads a block with an uncorrectable error (R223). -/
def Readable (s : State) (as : List LaneAcc) (pas : Nat → List (Nat × Nat)) : Prop :=
  ∀ a ∈ as, s.badVa a.va (pas a.lane) = none

/-- No executing lane writes part of a retired block (R224). -/
def Writable (s : State) (as : List LaneAcc) (pas : Nat → List (Nat × Nat)) : Prop :=
  ∀ a ∈ as, s.partVa a.va (pas a.lane) = none

/-- The physical address of byte `k` of the pieces of an access. -/
def paOf : List (Nat × Nat) → Nat → Option Nat
  | [], _ => none
  | (pa, n) :: ps, k => if k < n then some (pa + k) else paOf ps (k - n)

/-- The end of a step whose effect `s'` has set the PCs of the group itself. -/
def jumped (x : Iss) (s s' : State) : State := drained s (s'.updWave x.wid (fun w => { w with hold := none }))

/-- The lines of some targets are in the core's instruction cache, with the `TGT` bits of the targets set; a PC that R69 rejects is not
checked (R71). -/
def TargetsOk (x : Iss) (s : State) (ts : List (Nat × Nat)) : Prop :=
  ∀ p ∈ ts, pcBad p.2 = true ∨
    ∃ line, (s.core x.w.core).line? (asidOf x.wid) (p.2 / 64) = some line ∧ (lineWord line).testBit (p.2 % 8) = true

/-- `t` is the state in which the threads of the lanes in `ts` stand at their targets, the other threads of the group at the next PC,
and the wave is otherwise `w`. -/
def Transferred (x : Iss) (s t : State) (ts : List (Nat × Nat)) (w : Wave) : Prop :=
  OnlyWave s t x.wid ∧ ∃ v, t.wave? x.wid = some v ∧ v = { w with threads := v.threads, hold := none } ∧
    (∀ p ∈ ts, v.thread p.1 = { x.w.thread p.1 with pc := BitVec.ofNat 64 p.2, run := .ready }) ∧
    (∀ l, (∀ p ∈ ts, p.1 ≠ l) → v.thread l = if l ∈ x.group then
        { x.w.thread l with pc := nextPc x.pc, run := if (x.w.thread l).run = .ended then .ended else .ready,
                                 seen := (x.w.thread l).seen.filter (fun b => b.1 != x.pc) }
      else x.w.thread l)

/-- A wave's work at issue has been taken up: it stands in the list of work no longer. -/
def dropHeld (w : Wave) (s : State) : State :=
  match w.hold with
  | some h => match h.work with
    | some id => s.dropWork id
    | none => s
  | none => s

/-- The end of a step in which the group's instruction is offered to a unit of a core: the wave waits at issue on it (R399). -/
def offered (x : Iss) (s : State) (i : Instr) (core : Nat) : State :=
  drained s (({ s with
    nextId := s.nextId + 1
    waiting := s.waiting ++ [{ id := s.nextId, wave := x.wid, lanes := maskOf x.group, pc := x.pc, instr := i, core := core, nums := [],
                               since := (s.core core).clocks, slots := [], spots := [], pas := [], freed := false }] }
    : State).updWave x.wid (fun w => { w with hold := some { lanes := maskOf x.group, pc := x.pc, work := some s.nextId, on := none } }))

/-- The offer `r` of instruction `i` is taken up again, by the group `x` that made it. -/
structure Resumes (i : Instr) (h : Hdr) (s : State) (r : Waiting) (x : Iss) : Prop where
  instr : r.instr = i
  wave : s.wave? r.wave = some x.w
  wid : x.wid = r.wave
  pc : x.pc = r.pc
  group : x.group = lanesOf r.lanes
  act : x.act = x.group.filter (guardTrue h x.w)
  uni : x.uni = isUniform i
  lanes : x.lanes = if x.uni then x.act.take 1 else x.act
  hold : ∃ k, x.w.hold = some k ∧ k.work = some r.id
  waits : s.waitsAtIssue r = true
  quiet : s.stores = []

/-- The instructions of the copy engine. -/
def isTransfer (i : Instr) : Bool := match i with
  | .copy _ | .gath _ | .scat _ | .scatAdd _ => true
  | _ => false

/-- A transfer that passes every check of R399: its target core, and the two descriptors read. -/
structure TransferReady (f : FmtX) (op : Nat) (x : Iss) (s : State) (core d e : Nat) : Prop where
  same : x.uniformFaults [(f.a, 2), (f.b, 2)] = none
  place : s.target x f true false = some core
  dst : x.uval f.a 2 ≠ 0 ∧ x.uval f.a 2 % 64 = 0 ∧ s.uload x (x.uval f.a 2) 64 = .ok d
  src : x.uval f.b 2 ≠ 0 ∧ x.uval f.b 2 % 64 = 0 ∧ s.uload x (x.uval f.b 2) 64 = .ok e
  obj : x.uval f.d 2 ≠ 0 ∧ x.uval f.d 2 % 8 = 0
  ok : transferFault op (BitVec.ofNat 512 d) (BitVec.ofNat 512 e) (x.uval f.a 2) (x.uval f.b 2)
    (if f.c.toNat = 511 then 0 else BitVec.ofNat 64 (x.uval f.c 2)) = none

/-- The state with a transfer accepted: its engine holds it, and its team owes its end (R30, R257). -/
def accepted (f : FmtX) (op : Nat) (x : Iss) (core d e : Nat) (s : State) : State :=
  let t : Xfer :=
    { id := s.nextId, core := core, asid := asidOf x.wid, level := s.levelOf x.wid.team.grid, issuer := .wave x.wid, op := op,
      dst := BitVec.ofNat 512 d, src := BitVec.ofNat 512 e, dstVa := x.uval f.a 2, srcVa := x.uval f.b 2,
      origin := if f.c.toNat = 511 then 0 else BitVec.ofNat 64 (x.uval f.c 2), slab := f.imm8.getLsbD 0, obj := x.uval f.d 2, done := [],
      slabs := 0, accepted := true, t := keyT x.w x.first, q := (x.w.thread x.first).q, idx := [], idxRead := op == 0,
      formed := [], later := [], failed := none, order := s.nextId, carry := s.carryOf x.wid 2 }
  let s1 := ({ s with xfers := s.xfers ++ [t], nextId := s.nextId + 1 } : State).owe x.wid.team true
  if op = 3 ∧ s.levelOf x.wid.team.grid ≥ 1 then s1.updWave x.wid (fun w => w.updThread x.first (fun t => { t with q := t.q + 1 })) else s1

/-- The matrix FIFO of the group's core takes an entry of it at once (R176): it has room and no wave waits. -/
def fifoFree (x : Iss) (s : State) : Prop :=
  x.w.hold = none ∧ s.fifoRoom x.w.core x.w.bay = true ∧ s.matrixWaiters x.w.core = []

/-- The uniform rows of `MDRN` and `VXM` that the engine will access, checked as loads and stores (R184): with the lanes' PAs. -/
def RowsReach (x : Iss) (s : State) (as : List LaneAcc) (acc : Acc) (pas : Nat → List (Nat × Nat)) (c : Ctx) : Prop :=
  Lands x s as acc (fun c a => acc == .write && c.needsMcst a.va a.n) pas c

/-- The state after a matrix entry's own effect: the entry is gone, its exceptions stand in `FLAGS`, and it arrives on its barrier
(R130, R177); with the last entry of a stopped generator its grid is gone (R242, R348). -/
def entryOver (core : Nat) (e : Entry) (exc : BitVec 6) (s : State) : State :=
  let s := (s.updCore core (fun c => { c with fifo := c.fifo.filter (fun x => x.id != e.id) })).dropBytes (entryWork e.id)
  let s := s.updWave e.wave (fun w => { w with flags := w.flags ||| exc })
  let s := match e.instr with | .mmac _ => s.slotSettle e.wave.team e.slot | _ => s
  let s := match barrierOf e.instr with | some n => s.engineArrive e.wave.team n | none => s
  let g := e.wave.team.grid
  let s := if (s.grid? g).any (·.dropped) && !s.cores.any (fun p => p.2.fifo.any (fun x => x.wave.team.grid == g)) then s.dropGrid g else s
  (s.owe e.wave.team false).pushDue (.teamRetirement e.wave.team)

/-- The request `id` is answered: its registers are filled, and it is gone (R90). -/
def answered (s : State) (r : Req) : State :=
  drained s { s.updWave r.wave (fun w => w.install r.id r.fills) with reqs := s.reqs.filter (fun q => q.id != r.id) }

/-- A command from a queue of a live context starts: the part runs, the queue is there and runs nothing, and the context is not
stopped, or the command is a stopping `PREEMPT` (R271, R288, R355). -/
structure Starts (h : CmdHeader) (b : List DWord) (s : State) (c : Ctx) : Prop where
  runs : s.shutdown = false ∧ s.recovery = false
  ctx : s.ctx? (ha h) = some c
  queue : hq h < c.nq
  live : c.killed = false
  going : c.stopped = false ∨ isStop h b = true
  free : c.running.find? (fun p => p.1 == hq h) = none

/-- The state in which a command that starts is carried out: it runs in its queue. -/
def started (h : CmdHeader) (b : List DWord) (s : State) (c : Ctx) : State :=
  s.updCtx c.asid (fun c => { c with running := c.running ++ [(hq h, { h := h, body := b, step := 0 })] })

/-- The end of a command (R271, R356): its completion record is sent, it runs no longer, and its queue counts it. -/
def cmdOver (h : CmdHeader) (status value : Nat) (s : State) : State :=
  (({ s with records := s.records ++ [mkRecord 1 status (ha h) h.tag.toNat 0 (value % 2 ^ 64)] } : State).updCtx (ha h) (fun c => { c with
    running := c.running.filter (fun q => q.1 != hq h)
    qdone := cellSet 0 c.qdone (hq h) (cellGet 0 c.qdone (hq h) + 1) })).dropBytes (cmdWork (ha h) (hq h))

/-- A command of the package, carried out at once: its completion record (R355). -/
def cmdDone (h : CmdHeader) (asid status value : Nat) (s : State) : State :=
  { s with records := s.records ++ [mkRecord 1 status asid h.tag.toNat 0 (value % 2 ^ 64)] }

end Sys2Proof.Machine
end

