-- ==== Sys2Proof/Certificates/Slice0/Obligations.lean ====
section
/-!
DEFINITION. The obligations of slice 0: what the rules of spec/ say of the machine, stated of the model.
-/
open Sys2Proof Sys2Proof.Machine

/-! ## Encodings, reset, memory and the step -/

/-- Words written out from the field tables of R73 to R83 and the code points of R101 to R107 decode to the instructions they stand for,
one or more of each of the formats R, I, M, X, B and W. -/
def Obligations.WordsDecode : Prop :=
  decodeSlot 0x003FFFFFFFFC2000#96 = .ok (.nop ⟨⟨0, true, 0⟩, 511, 511, 511, 511, 0, 0, 0⟩) ∧
  decodeSlot 0x0000000300000220_0004008E#96 = .ok (.imulImm ⟨⟨0, false, 0⟩, 1, 0, 0x22, 0, 0, 3⟩) ∧
  decodeSlot 0x00000001_10017FFC_10100202#96 = .ok (.atom ⟨⟨0, false, 0⟩, 4, 386, 511, 3, 1, 0, false, 0, 2, 1⟩) ∧
  decodeSlot 0x00000040_107A20C0_50200200#96 = .ok (.ld ⟨⟨0, false, 0⟩, 8, 10, 12, 1, 2, 15, false, 0, 2, 64⟩) ∧
  decodeSlot 0x2A8060200814_0106#96 = .ok (.ffma ⟨⟨0, false, 0⟩, 5, 1, 2, 3, 0xAA, 0, 0⟩) ∧
  decodeSlot 0x00001234_0000000F_FFFC0347#96 = .ok (.trap ⟨⟨0, false, 0⟩, 511, 511, 0, 0, 0, 0x1234⟩) ∧
  decodeSlot 0x000C0000_0AD91822_07FC02C1#96 = .ok (.mmac ⟨⟨0, false, 0⟩, 511, 64, 386, 200, 0x2B, 0, 0, 0, 3⟩) ∧
  decodeSlot 0x6127FFFFA0C08#96 = .ok (.bra ⟨⟨0, false, 3⟩, true, 0x1FFFFE, 4, 388, 0, 0⟩) ∧
  decodeSlot 0x601000014040A#96 = .ok (.call ⟨⟨0, false, 1⟩, false, 5, 2, 384, 0, 0⟩) ∧
  decodeSlot 0x40004FFC8000000011#96 = .ok (.rcv ⟨⟨0, false, 0⟩, false, 0, 1, 511, 9, 64⟩) ∧
  decodeSlot 0x407FC031040181#96 = .ok (.wadd ⟨⟨0, false, 0⟩, 1, 2, 3, 0, 511, 0, 2⟩) ∧
  decodeSlot 0x20608002902983#96 = .ok (.wexp ⟨⟨0, true, 2⟩, 4, 5, 0, 0, 386, 0, 1⟩)

/-- Decoding the slot that the encoder writes for a well-formed instruction gives the instruction, with every operand as it was. -/
def Obligations.DecodeAfterEncode : Prop :=
  ∀ (i : Instr) (w : Slot), i.wf = true → encode i = some w → decodeSlot w = .ok i

/-- A slot that decodes is the slot that the encoder writes for its instruction: no bit of it is ignored, and the instruction is well
formed (R76). -/
def Obligations.EncodeAfterDecode : Prop :=
  ∀ (i : Instr) (w : Slot), decodeSlot w = .ok i → encode i = some w ∧ i.wf = true

/-- The machine right after reset: not booted, no context, grid, team or wave, no cached translation, no layer removed, no event record,
and no work in any queue or engine (R370). That memory reads 0 everywhere is the model's choice (log 1), and so is the empty error log
(log 2). -/
def Obligations.ResetLeaves : Prop :=
  State.reset.booted = false ∧ State.reset.mem = [] ∧ State.reset.ctxs = [] ∧ State.reset.grids = [] ∧ State.reset.teams = [] ∧
  State.reset.waves = [] ∧ State.reset.records = [] ∧ State.reset.tlb = [] ∧ State.reset.errLog = [] ∧ State.reset.layers = [] ∧
  State.reset.shutdown = false ∧ State.reset.recovery = false ∧
  State.reset.reqs = [] ∧ State.reset.waiting = [] ∧ State.reset.xfers = [] ∧ State.reset.csigs = [] ∧ State.reset.colls = [] ∧
  State.reset.updates = [] ∧ State.reset.held = [] ∧ State.reset.stalls = [] ∧ State.reset.heldBytes = [] ∧ State.reset.ualIn = [] ∧
  State.reset.ualOut = [] ∧ State.reset.chans = [] ∧ State.reset.cores = [] ∧ State.reset.cur = none

/-- At reset, memory is in its canonical form and no store is left over. -/
def Obligations.ResetMemoryCanonical : Prop :=
  State.reset.memOk

/-- Every step keeps memory in its canonical form and leaves no store over. -/
def Obligations.StepKeepsMemoryCanonical : Prop :=
  ∀ s t : State, s.memOk → step s = .next t → t.memOk

/-- No instruction, command or event is refused: each answers a next state wherever the state names an issuing group whose wave is there,
and a step answers a next state in every state whose due acts are events, whatever group the state names. -/
def Obligations.NothingRefused : Prop :=
  (∀ (i : Instr) (s : State), (∃ c w, s.cur = some c ∧ s.wave? c.wid = some w) → ∃ t, exec i s = .next t) ∧
  (∀ s : State, (∀ i rest, s.due = i :: rest → isEvent i = true) → ∃ t, step s = .next t)

/-- A byte stored is read back, and every other byte is as it was, within a step and after its end: the memory in which stores and loads
act one after the other (R444, R488; log 7). -/
def Obligations.StoreThenRead : Prop :=
  ∀ (s : State) (pa : Nat) (bs : List Byte), Memory.wf s.mem = true →
    (∀ a, (s.storeBytes pa bs).byteAt a = if pa ≤ a ∧ a < pa + bs.length then bs.getD (a - pa) 0 else s.byteAt a) ∧
    (s.stores = [] → ∀ a, (drained s (s.storeBytes pa bs)).byteAt a = (s.storeBytes pa bs).byteAt a)

/-- The next PC of a thread: after slot 4 execution falls through to slot 0 of the next line, after slots 0 to 3 to the next slot of the
same line (R70). -/
def Obligations.NextSlot : Prop :=
  ∀ line slot : Nat, slot < 5 → line < 2 ^ 58 - 1 →
    nextPc (BitVec.ofNat 64 (64 * line + slot)) = BitVec.ofNat 64 (if slot = 4 then 64 * (line + 1) else 64 * line + (slot + 1))

/-- When the agenda names the slot of a wave that may issue, with no wave of its team whose slot comes first (R335), whose threads stand
at a line that the instruction cache holds and that needs no check, and the slot there decodes to `i`, the step is `exec i` of the state
that names the issuing group; after a next state the group has issued. -/
def Obligations.StepRunsDecoded : Prop :=
  ∀ (s : State) (wid : WaveId) (w : Wave) (rest : List Turn) (l : Nat) (ls : List Nat) (pc : DWord) (k : Slot) (i : Instr),
    s.due = [] → s.agenda = .slot wid :: rest →
    let s0 : State := { s with agenda := rest }
    s0.slotFirst wid = wid → s0.wave? wid = some w → s0.mayIssue w = true → w.issued = false →
    let v := s0.aimBpc w
    let s1 := s0.updWave wid (fun _ => v)
    s1.slotGroup v = (l :: ls, pc) → s1.needsFetch v pc = false → s1.slotAt v pc = some k → decodeSlot k = .ok i →
    let c : Cur := { wid := wid, lanes := maskOf (l :: ls), pc := pc, viaLoop := false }
    step s = match exec i { s1 with cur := some c } with
      | .next t => .next (t.afterIssue c v)
      | r => r

/-! ## The issue of an instruction -/

/-- When no issuing thread has a true guard, an instruction that passes its operand checks has no effect but that every thread of the
group goes to the next PC (R74). An operand that breaks the rules of operands raises `ILLEGAL_OPERAND` on the issuing threads with the
operand's code, whatever the guards are (R84, R92). An instruction that its wave's role may not issue raises `ROLE` on the threads with a
true guard and has no effect (R49). -/
def Obligations.IssueChecks : Prop :=
  (∀ (i : Instr) (k : Slot) (s : State) (c : Cur) (w : Wave), encode i = some k → (∀ u, i ≠ .unassignedCodePoint u) →
    s.cur = some c → s.wave? c.wid = some w → operandFault i w = none →
    (lanesOf c.lanes).filter (guardTrue (getHdr k) w) = [] →
    exec i s = .next (drained s (advance s c.wid (lanesOf c.lanes) c.pc))) ∧
  (∀ (i : Instr) (k : Slot) (s : State) (c : Cur) (w : Wave) (code : Nat), encode i = some k → (∀ u, i ≠ .unassignedCodePoint u) →
    s.cur = some c → s.wave? c.wid = some w → operandFault i w = some code →
    exec i s = .next (drained s (s.raisePrecise c.wid cIllegalOperand c.lanes code))) ∧
  (∀ (i : Instr) (k : Slot) (s : State) (c : Cur) (w : Wave), encode i = some k → (∀ u, i ≠ .unassignedCodePoint u) →
    s.cur = some c → s.wave? c.wid = some w → operandFault i w = none →
    (lanesOf c.lanes).filter (guardTrue (getHdr k) w) ≠ [] → s.roleRefused i w = true →
    exec i s = .next (drained s (s.raisePrecise c.wid cRole (maskOf ((lanesOf c.lanes).filter (guardTrue (getHdr k) w))) (opcOf k))))

/-- Which roles may issue which instructions, every row of R49; the last clause stands for the instructions not in the table. `RACQ` and
`RREL` also need the role that a ring's configuration names for their side, which `roleRefused` adds (R51), as it does the team's leader
for `LAUNCH` (R28). -/
def Obligations.RolesAsTabled : Prop :=
  ∀ (f : FmtX) (g : FmtR) (r : Role),
    (roleOk (.copy f) r = true ↔ r = .copy ∨ r = .general ∨ r = .lead) ∧
    (roleOk (.gath f) r = true ↔ r = .copy ∨ r = .general ∨ r = .lead) ∧
    (roleOk (.scat f) r = true ↔ r = .copy ∨ r = .general ∨ r = .lead) ∧
    (roleOk (.scatAdd f) r = true ↔ r = .copy ∨ r = .general ∨ r = .lead) ∧
    (roleOk (.placeSet f) r = true ↔ r = .copy ∨ r = .general ∨ r = .lead) ∧
    (roleOk (.placeGet f) r = true ↔ r = .copy ∨ r = .general ∨ r = .lead) ∧
    (roleOk (.coll f) r = true ↔ r = .copy ∨ r = .general ∨ r = .lead) ∧
    (roleOk (.node f) r = true ↔ r = .copy ∨ r = .general ∨ r = .lead) ∧
    (roleOk (.mwl f) r = true ↔ r = .matrix) ∧
    (roleOk (.mmac f) r = true ↔ r = .matrix ∨ r = .general) ∧
    (roleOk (.mdrn f) r = true ↔ r = .matrix ∨ r = .general) ∧
    (roleOk (.mzero f) r = true ↔ r = .matrix ∨ r = .general) ∧
    (roleOk (.vxm f) r = true ↔ r = .matrix ∨ r = .general) ∧
    (roleOk (.tex f) r = true ↔ r = .vector ∨ r = .general) ∧
    (roleOk (.texq f) r = true ↔ r = .vector ∨ r = .general) ∧
    (roleOk (.texqRead f) r = true ↔ r = .vector ∨ r = .general) ∧
    (roleOk (.trace f) r = true ↔ r = .vector ∨ r = .general) ∧
    (roleOk (.facc f) r = true ↔ r = .vector ∨ r = .general) ∧
    (roleOk (.racq g) r = true ↔ r ≠ .general) ∧
    (roleOk (.rrel g) r = true ↔ r ≠ .general) ∧
    (roleOk (.decp g) r = true ↔ r = .lead) ∧
    (roleOk (.dect g) r = true ↔ r ≠ .lead) ∧
    (roleOk (.iadd g) r = true) ∧
    (∀ (s : State) (w : Wave) (t : Team), s.team? w.id.team = some t → w.role ≠ .general →
      let c := t.rings.getD (g.fn.toNat % 8) (ringOfWord 0)
      let side := if g.fn.toNat / 8 % 2 = 0 then c.prod else c.cons
      (s.roleRefused (.racq g) w = true ↔ c.n > 0 ∧ side ≠ w.role.code) ∧
      (s.roleRefused (.rrel g) w = true ↔ c.n > 0 ∧ side ≠ w.role.code))

/-- A thread of an instruction that has an empty source under a clear `FE` bit, or a destination with a write pending, is blocked and stays
where it is (R90, R91): where all active threads of a group are so blocked, the others go to the next PC and nothing else changes. The
last clause is the first source of `IADD`. -/
def Obligations.EmptySourceBlocks : Prop :=
  (∀ (i : Instr) (k : Slot) (s : State) (c : Cur) (w : Wave), encode i = some k → (∀ u, i ≠ .unassignedCodePoint u) →
    s.cur = some c → s.wave? c.wid = some w → operandFault i w = none → s.roleRefused i w = false →
    let act := (lanesOf c.lanes).filter (guardTrue (getHdr k) w)
    act ≠ [] → (∀ l ∈ act, blockedAt i w l = true) →
    exec i s = .next (drained s (advance s c.wid ((lanesOf c.lanes).filter (fun l => !act.contains l)) c.pc))) ∧
  ∀ (f : FmtR) (s : State) (c : Cur) (w : Wave), s.cur = some c → s.wave? c.wid = some w →
    operandFault (.iadd f) w = none → s.roleRefused (.iadd f) w = false →
    (∀ l ∈ lanesOf c.lanes, guardTrue f.h w l = true) → f.h.fe = 0 → f.a.toNat < 320 →
    (∀ l ∈ lanesOf c.lanes, w.anyEmpty l f.a.toNat 1 = true) → lanesOf c.lanes ≠ [] →
    exec (.iadd f) s = .next (drained s (advance s c.wid [] c.pc))

/-- Every exception that an executing lane's thread enables becomes the trap of the lowest of them, on the lanes that raise it, and
nothing else changes; shown for the integer and the float add (R129). That `TMASK` of a uniform instruction, whose one executing lane is the
representative, names that lane alone is the model's own choice (log 101). -/
def Obligations.EnabledExceptionTraps : Prop :=
  ∀ (f : FmtR) (s : State) (x : Iss) (b : Nat),
    let hit (g : Nat → LaneOut) (n l : Nat) : Bool := ((g l).exc &&& (x.w.thread l).fen).getLsbD n
    let trapped (g : Nat → LaneOut) : State :=
      drained s (s.raisePrecise x.wid (0x20 + b) (maskOf (x.lanes.filter (hit g b))) 0)
    let least (g : Nat → LaneOut) : Prop := b < 6 ∧ (∃ l ∈ x.lanes, hit g b l = true) ∧ ∀ n, n < b → ∀ l ∈ x.lanes, hit g n l = false
    let sum (l : Nat) := LaneOut.sum f.d (tyS f.ty) (satOf f.mode) (x.int l f.a (tyS f.ty) + x.int l f.b (tyS f.ty))
    let fsum (l : Nat) := LaneOut.flt f.d (fAdd (tyS f.ty) (rndOf f.mode.toNat) (x.flt l f.a (tyS f.ty)) (x.flt l f.b (tyS f.ty)))
    (Issues (.iadd f) f.h s x → least sum → exec (.iadd f) s = .next (trapped sum)) ∧
    (Issues (.fadd f) f.h s x → least fsum → exec (.fadd f) s = .next (trapped fsum))

/-! ## Integers, logic and moves -/

/-- The integer operations (R434): the exact result of each, reduced to the width of its type by wrapping, or held within the type's
bounds with the overflow exception under `.SAT`; the immediate forms likewise. A zero divisor gives the quotient -1 and the remainder a,
with the divide-by-zero exception (R116). `ICMP` compares by R435. -/
def Obligations.IntegerOperations : Prop :=
  ∀ (f : FmtR) (k : FmtI),
    let t := tyS f.ty
    let u := tyS k.ty
    let a (x : Iss) (l : Nat) : Int := x.int l f.a t
    let b (x : Iss) (l : Nat) : Int := x.int l f.b t
    let c (x : Iss) (l : Nat) : Int := x.int l f.c t
    let p (x : Iss) (l : Nat) : Int := x.int l k.a u
    let q : Int := intVal u (immVal u k.imm)
    let res (d : RegCode) (t : Nat) (n : Int) (e : BitVec 6) : LaneOut :=
      { writes := [(d.toNat, words t, extendTo 64 t n)], preds := [], exc := e, draws := 0 }
    let sums (d : RegCode) (t : Nat) (sat : Bool) (n : Int) : LaneOut :=
      if sat = false then res d t n 0 else if n < intMin t then res d t (intMin t) 4 else if intMax t < n then res d t (intMax t) 4 else res d t n 0
    let out := sums f.d t (f.mode.getLsbD 2)
    let outI := sums k.d u (k.mode.getLsbD 2)
    let high (t : Nat) (n : Int) : Int := n / (2 ^ tyWidth t : Nat)
    let quo (a b : Int) : Int := if b = 0 then -1 else a.tdiv b
    let rem (a b : Int) : Int := if b = 0 then a else a.tmod b
    let exc (b : Int) : BitVec 6 := if b = 0 then 32 else 0
    let test (n : Nat) (a b : Int) : Bool :=
      decide (n = 0 ∧ a = b ∨ n = 1 ∧ a ≠ b ∨ n = 2 ∧ a < b ∨ n = 3 ∧ a ≤ b ∨ n = 4 ∧ a > b ∨ n = 5 ∧ a ≥ b)
    (∀ n : Int, t < 8 → (extendTo 64 t n : Int) % (2 ^ tyWidth t : Nat) = n % (2 ^ tyWidth t : Nat)) ∧
    Yields (.iadd f) f.h (fun x l => out (a x l + b x l)) ∧
    Yields (.isub f) f.h (fun x l => out (a x l - b x l)) ∧
    Yields (.imul f) f.h (fun x l => out (a x l * b x l)) ∧
    Yields (.imad f) f.h (fun x l => out (a x l * b x l + c x l)) ∧
    Yields (.iaddImm k) k.h (fun x l => outI (p x l + q)) ∧
    Yields (.isubImm k) k.h (fun x l => outI (p x l - q)) ∧
    Yields (.imulImm k) k.h (fun x l => outI (p x l * q)) ∧
    Yields (.imulh f) f.h (fun x l => res f.d t (high t (a x l * b x l)) 0) ∧
    Yields (.imax f) f.h (fun x l => res f.d t (max (a x l) (b x l)) 0) ∧
    Yields (.imin f) f.h (fun x l => res f.d t (min (a x l) (b x l)) 0) ∧
    Yields (.idiv f) f.h (fun x l => res f.d t (quo (a x l) (b x l)) (exc (b x l))) ∧
    Yields (.irem f) f.h (fun x l => res f.d t (rem (a x l) (b x l)) (exc (b x l))) ∧
    Yields (.iabs f) f.h (fun x l => out ((a x l).natAbs : Int)) ∧
    Yields (.imulhImm k) k.h (fun x l => res k.d u (high u (p x l * q)) 0) ∧
    Yields (.imaxImm k) k.h (fun x l => res k.d u (max (p x l) q) 0) ∧
    Yields (.iminImm k) k.h (fun x l => res k.d u (min (p x l) q) 0) ∧
    Yields (.idivImm k) k.h (fun x l => res k.d u (quo (p x l) q) (exc q)) ∧
    Yields (.iremImm k) k.h (fun x l => res k.d u (rem (p x l) q) (exc q)) ∧
    (f.fn.toNat % 8 < 6 → Yields (.icmp f) f.h (fun x l =>
      LaneOut.cmp f.d (f.fn.toNat / 8) (test (f.fn.toNat % 8) (a x l) (b x l)) 0)) ∧
    (k.fn.toNat % 8 < 6 → Yields (.icmpImm k) k.h (fun x l =>
      LaneOut.cmp k.d (k.fn.toNat / 8) (test (k.fn.toNat % 8) (p x l) q) 0))

/-- `FCMP` and its immediate form: the comparison into a predicate and an optional register (R422). -/
def Obligations.FloatComparisons : Prop :=
  ∀ (f : FmtR) (k : FmtI),
    let t := tyS f.ty
    let u := tyS k.ty
    Yields (.fcmp f) f.h (fun x l =>
      let r := fCmp (f.fn.toNat % 8) (x.flt l f.a t) (x.flt l f.b t)
      LaneOut.cmp f.d (f.fn.toNat / 8) r.1 r.2) ∧
    Yields (.fcmpImm k) k.h (fun x l =>
      let r := fCmp (k.fn.toNat % 8) (x.flt l k.a u) (decVal u (k.imm.toNat % 2 ^ tyWidth u))
      LaneOut.cmp k.d (k.fn.toNat / 8) r.1 r.2)

/-- The bitwise operations, shifts and rotations with their immediate forms, the field operations and the counts (R116, R379, R380, R456,
R477): the result of each as a pattern of the type's width. -/
def Obligations.LogicAndShifts : Prop :=
  ∀ (f : FmtR) (k : FmtI),
    let t := tyS f.ty
    let u := tyS k.ty
    let w := tyWidth t
    let v := tyWidth u
    let a (x : Iss) (l : Nat) : Nat := x.pat l f.a t
    let b (x : Iss) (l : Nat) : Nat := x.rd l f.b (words t)
    let c (x : Iss) (l : Nat) : Nat := x.rd l f.c (words t)
    let p (x : Iss) (l : Nat) : Nat := x.pat l k.a u
    let q : Nat := immVal u k.imm
    let out (n : Nat) := LaneOut.int f.d t n 0
    let outI (n : Nat) := LaneOut.int k.d u n 0
    Yields (.andR f) f.h (fun x l => out (a x l &&& b x l % 2 ^ w)) ∧
    Yields (.orR f) f.h (fun x l => out (a x l ||| b x l % 2 ^ w)) ∧
    Yields (.xorR f) f.h (fun x l => out (a x l ^^^ b x l % 2 ^ w)) ∧
    Yields (.andImm k) k.h (fun x l => outI (p x l &&& q % 2 ^ v)) ∧
    Yields (.orImm k) k.h (fun x l => outI (p x l ||| q % 2 ^ v)) ∧
    Yields (.xorImm k) k.h (fun x l => outI (p x l ^^^ q % 2 ^ v)) ∧
    Yields (.shl f) f.h (fun x l => out (shlBits w (a x l) (b x l))) ∧
    Yields (.shr f) f.h (fun x l => out (shrBits w (a x l) (b x l))) ∧
    Yields (.sra f) f.h (fun x l => out (sraBits w (a x l) (b x l))) ∧
    Yields (.rot f) f.h (fun x l => out (rotBits w (a x l) (b x l))) ∧
    Yields (.shlImm k) k.h (fun x l => outI (shlBits v (p x l) q)) ∧
    Yields (.shrImm k) k.h (fun x l => outI (shrBits v (p x l) q)) ∧
    Yields (.sraImm k) k.h (fun x l => outI (sraBits v (p x l) q)) ∧
    Yields (.rotImm k) k.h (fun x l => outI (rotBits v (p x l) q)) ∧
    Yields (.bfi f) f.h (fun x l => out (bfiBits w (a x l) (b x l) (c x l))) ∧
    Yields (.bfx f) f.h (fun x l => LaneOut.int f.d t (bfxInt t (x.rd l f.a (words t)) (b x l)) 0) ∧
    Yields (.brev f) f.h (fun x l => LaneOut.int f.d (tyD f.ty) (revBits w (a x l)) 0) ∧
    Yields (.bsel f) f.h (fun x l => out ((a x l &&& c x l) ||| (b x l % 2 ^ w &&& (2 ^ w - 1 - c x l % 2 ^ w)))) ∧
    Yields (.clz f) f.h (fun x l => LaneOut.int f.d (tyD f.ty) (clzBits w (a x l)) 0) ∧
    Yields (.popc f) f.h (fun x l => LaneOut.int f.d (tyD f.ty) (popBits w (a x l)) 0)

/-- What shifts, rotations and counts are, bit by bit (R116, R379, R456): a count at or above the width empties `SHL` and `SHR` and fills
`SRA` with the sign; a rotation takes its count modulo the width. -/
def Obligations.ShiftsBitByBit : Prop :=
  ∀ (w a c i : Nat), w ∈ [8, 16, 32, 64] → a < 2 ^ w → i < w →
    let n := c % 2 ^ 32
    (shlBits w a c).testBit i = (decide (n ≤ i) && a.testBit (i - n)) ∧
    (shrBits w a c).testBit i = (decide (i + n < w) && a.testBit (i + n)) ∧
    (sraBits w a c).testBit i = a.testBit (if i + n < w then i + n else w - 1) ∧
    (rotBits w a c).testBit i = a.testBit ((i + w - n % w) % w) ∧
    (revBits w a).testBit i = a.testBit (w - 1 - i)

/-- The 32-bit unsigned forms of `IADD`, `ISUB`, `IMUL`, `AND`, `OR` and `XOR` on V registers, as operations on words: each executing
lane's destination receives the word operation of its two sources (R116, R379, R434, R456, R477). -/
def Obligations.WordArithmetic : Prop :=
  ∀ (f : FmtR) (s : State) (x : Iss), f.ty = 0x66 → f.mode = 0 → f.d.toNat < 320 → f.a.toNat < 320 → f.b.toNat < 320 →
    let does (i : Instr) (g : Word → Word → Word) : Prop := Issues i f.h s x →
      ∃ t w, exec i s = .next t ∧ t.wave? x.wid = some w ∧
        ∀ l ∈ x.lanes, w.vreg l f.d.toNat = g (x.w.vreg l f.a.toNat) (x.w.vreg l f.b.toNat)
    does (.iadd f) (· + ·) ∧ does (.isub f) (· - ·) ∧ does (.imul f) (· * ·) ∧
    does (.andR f) (· &&& ·) ∧ does (.orR f) (· ||| ·) ∧ does (.xorR f) (· ^^^ ·)

/-- `MOV`, `MOVI`, `MOVI.HI` and `SEL` (R456, R477), and `MOV.FIRST` and `AGEN`, which write the lowest active lane's value to an S
register and the effective address of R80. -/
def Obligations.Moves : Prop :=
  ∀ (f : FmtR) (k : FmtI) (m : FmtM),
    let t := tyS f.ty
    let u := tyS k.ty
    Yields (.mov f) f.h (fun x l => LaneOut.int f.d t (x.int l f.a t) 0) ∧
    Yields (.sel f) f.h (fun x l =>
      LaneOut.int f.d t (x.int l (if x.w.pred l (f.fn.toNat % 8) != f.fn.getLsbD 3 then f.a else f.b) t) 0) ∧
    Yields (.movi k) k.h (fun _ _ => LaneOut.int k.d u (intVal u (immVal u k.imm)) 0) ∧
    Yields (.moviHi k) k.h (fun x l => LaneOut.one k.d.toNat 2 (x.rd l k.d 2 % 2 ^ 32 + k.imm.toNat * 2 ^ 32) 0) ∧
    (∀ s x, Issues (.movFirst f) f.h s x → exec (.movFirst f) s =
      .next (wentOn x s (s.updWave x.wid (fun w => w.writeReg x.first f.d.toNat 1 (x.pat x.first f.a t))) [])) ∧
    (∀ s x, Issues (.agen m) m.h s x → exec (.agen m) s =
      .next (wentOn x s (s.updWave x.wid (fun w => x.lanes.foldl (fun w l => w.writeReg l m.ds.toNat 2 (effAddr x l m)) w)) []))

/-- The second operand of an immediate form: `IMM`, sign-extended for I types and zero-extended otherwise (R78). The effective address of
format M (R80): base plus the sign-extended index scaled by the width plus the sign-extended offset, modulo 2^64; an absent base or index
counts as 0. -/
def Obligations.ImmediatesAndAddresses : Prop :=
  (∀ (t : Nat) (imm : BitVec 32), t < 8 →
    immVal t imm = if t < 4 then (imm.signExtend 64).toNat else imm.toNat) ∧
  (∀ (x : Iss) (l : Nat) (m : FmtM),
    let base : BitVec 64 := if m.ab.toNat = 511 then 0 else if m.ab.toNat < 320 then (x.w.vreg l (m.ab.toNat + 1)) ++ (x.w.vreg l m.ab.toNat)
      else BitVec.ofNat 64 (x.rd l m.ab 2)
    let index : BitVec 32 := if m.ai.toNat = 511 then 0 else if m.ai.toNat < 320 then x.w.vreg l m.ai.toNat else BitVec.ofNat 32 (x.rd l m.ai 1)
    BitVec.ofNat 64 (effAddr x l m) = base + (index.signExtend 64) * BitVec.ofNat 64 (2 ^ m.wd.toNat) + m.off.signExtend 64)

/-! ## Floats and packets -/

/-- `FADD`, `FSUB`, `FMUL`, `FDIV` with their immediate forms, `FFMA`, and `FMAX` and `FMIN` (R419 to R421): the exact result rounded once
under `MOD`; `FMAX` and `FMIN` give one of their operands. -/
def Obligations.FloatArithmetic : Prop :=
  ∀ (f : FmtR) (k : FmtI),
    let t := tyS f.ty
    let u := tyS k.ty
    let r := rndOf f.mode.toNat
    let r' := rndOf k.mode.toNat
    let imm := k.imm.toNat % 2 ^ tyWidth u
    Yields (.fadd f) f.h (fun x l => LaneOut.flt f.d (fAdd t r (x.flt l f.a t) (x.flt l f.b t))) ∧
    Yields (.fsub f) f.h (fun x l => LaneOut.flt f.d (fSub t r (x.flt l f.a t) (x.flt l f.b t))) ∧
    Yields (.fmul f) f.h (fun x l => LaneOut.flt f.d (fMul t r (x.flt l f.a t) (x.flt l f.b t))) ∧
    Yields (.fdiv f) f.h (fun x l => LaneOut.flt f.d (fDiv t r (x.flt l f.a t) (x.flt l f.b t))) ∧
    Yields (.ffma f) f.h (fun x l => LaneOut.flt f.d (fFma t r (x.flt l f.a t) (x.flt l f.b t) (x.flt l f.c t))) ∧
    Yields (.fmax f) f.h (fun x l =>
      LaneOut.flt f.d (fMinMax t true (x.rd l f.a 1 % 2 ^ tyWidth t) (x.rd l f.b 1 % 2 ^ tyWidth t))) ∧
    Yields (.fmin f) f.h (fun x l =>
      LaneOut.flt f.d (fMinMax t false (x.rd l f.a 1 % 2 ^ tyWidth t) (x.rd l f.b 1 % 2 ^ tyWidth t))) ∧
    Yields (.faddImm k) k.h (fun x l => LaneOut.flt k.d (fAdd u r' (x.flt l k.a u) (decVal u imm))) ∧
    Yields (.fsubImm k) k.h (fun x l => LaneOut.flt k.d (fSub u r' (x.flt l k.a u) (decVal u imm))) ∧
    Yields (.fmulImm k) k.h (fun x l => LaneOut.flt k.d (fMul u r' (x.flt l k.a u) (decVal u imm))) ∧
    Yields (.fdivImm k) k.h (fun x l => LaneOut.flt k.d (fDiv u r' (x.flt l k.a u) (decVal u imm))) ∧
    Yields (.fmaxImm k) k.h (fun x l => LaneOut.flt k.d (fMinMax u true (x.rd l k.a 1 % 2 ^ tyWidth u) imm)) ∧
    Yields (.fminImm k) k.h (fun x l => LaneOut.flt k.d (fMinMax u false (x.rd l k.a 1 % 2 ^ tyWidth u) imm))

/-- The special operands of addition, subtraction, multiplication and division (R112, R124, R421): a NaN in either operand gives the
canonical NaN, invalid where one of the operands is a signalling NaN; ∞ − ∞, 0 × ∞ in either order, ∞ ÷ ∞ and 0 ÷ 0 are invalid, 0 × ∞ in
`FFMA` also with a NaN to add; and a finite number that is not 0 divided by zero gives ∞ with the divide-by-zero exception. -/
def Obligations.FloatSpecials : Prop :=
  ∀ (t : Nat) (r : Rnd) (a b : Val) (n m sg : Bool) (q : Rat), t ∈ [8, 9, 10] →
    let inf (b : Bool) := infOf t b
    let nan : Nat × BitVec 6 := (canonNaN t, if a = .nan true ∨ b = .nan true then 1 else 0)
    ((∃ k, a = .nan k ∨ b = .nan k) → fAdd t r a b = nan ∧ fSub t r a b = nan ∧ fMul t r a b = nan ∧ fDiv t r a b = nan) ∧
    fAdd t r (.inf n) (.inf (!n)) = (canonNaN t, 1) ∧ fSub t r (.inf n) (.inf n) = (canonNaN t, 1) ∧
    fMul t r (.inf n) (.fin m 0) = (canonNaN t, 1) ∧ fMul t r (.fin m 0) (.inf n) = (canonNaN t, 1) ∧
    fFma t r (.inf n) (.fin m 0) (.nan sg) = (canonNaN t, 1) ∧ fFma t r (.fin m 0) (.inf n) (.nan sg) = (canonNaN t, 1) ∧
    fDiv t r (.inf n) (.inf m) = (canonNaN t, 1) ∧ fDiv t r (.fin n 0) (.fin m 0) = (canonNaN t, 1) ∧
    (q ≠ 0 → fDiv t r (.fin n q) (.fin m 0) = (inf (n != m), 2)) ∧
    fAdd t r (.inf n) (.fin m q) = (inf n, 0)

/-- `FRND`, the special functions, `FTSUM`, `PFMA` and `CVT` (R407, R423 to R426): each of their operand's value, rounded once; the special
functions by the model's own evaluation (log 11). `CVT` with stochastic rounding draws once (R121), by the published generator's constants
(log 10). -/
def Obligations.FloatOneOperand : Prop :=
  ∀ (f : FmtR),
    let t := tyS f.ty
    let r := rndOf f.mode.toNat
    let el (x : Iss) (l i : Nat) (code : RegCode) : Val := decVal t (x.rd l code 1 / 2 ^ (16 * i) % 2 ^ 16)
    let pf (x : Iss) (l i : Nat) := fFma t r (el x l i f.a) (el x l i f.b) (el x l i f.c)
    let draw (x : Iss) (l : Nat) : Nat := drawOf x.w l (x.w.thread l).srcnt.toNat
    Yields (.frnd f) f.h (fun x l => LaneOut.flt f.d (fRnd t r (x.flt l f.a t))) ∧
    Yields (.fsqrt f) f.h (fun x l => LaneOut.flt f.d (fUnary 0 t r (x.flt l f.a t))) ∧
    Yields (.frcp f) f.h (fun x l => LaneOut.flt f.d (fUnary 1 t r (x.flt l f.a t))) ∧
    Yields (.frsq f) f.h (fun x l => LaneOut.flt f.d (fUnary 2 t r (x.flt l f.a t))) ∧
    Yields (.fexp2 f) f.h (fun x l => LaneOut.flt f.d (fUnary 3 t r (x.flt l f.a t))) ∧
    Yields (.flog2 f) f.h (fun x l => LaneOut.flt f.d (fUnary 4 t r (x.flt l f.a t))) ∧
    Yields (.fsin f) f.h (fun x l => LaneOut.flt f.d (fUnary 5 t r (x.flt l f.a t))) ∧
    Yields (.fcos f) f.h (fun x l => LaneOut.flt f.d (fUnary 6 t r (x.flt l f.a t))) ∧
    Yields (.ftsum f) f.h (fun x l =>
      let p := fTwoSum (x.flt l f.a 10) (x.flt l f.b 10)
      LaneOut.one f.d.toNat 2 (p.1 + p.2.1 * 2 ^ 32) p.2.2) ∧
    Yields (.pfma f) f.h (fun x l =>
      LaneOut.one f.d.toNat 1 ((pf x l 0).1 + (pf x l 1).1 * 2 ^ 16) ((pf x l 0).2 ||| (pf x l 1).2)) ∧
    Yields (.cvt f) f.h (fun x l =>
      let p := convert t (tyD f.ty) (if f.mode.getLsbD 3 then .sr (draw x l) else r) (f.mode.getLsbD 2) (x.pat l f.a t)
      { LaneOut.one f.d.toNat (words (tyD f.ty)) (if tyD f.ty < 8 then extendTo 64 (tyD f.ty) p.1 else p.1.toNat) p.2 with
        draws := if f.mode.getLsbD 3 then 1 else 0 })

/-- The packet operations (R133, R135, R136, R496 to R499): eight elements by eight, the fixed tree of `WSUM` and `WDOT`, the wavelengths
of `WSPAN`, and `MUEL`, whose matrices stand in scratch at an aligned address within it. `WEXP` uses the model's own evaluation of the
exponential and its own way with a tie that this leaves open (log 11). -/
def Obligations.PacketOperations : Prop :=
  ∀ (f : FmtW),
    let r := rndOf f.mode.toNat
    let a (x : Iss) (l j : Nat) : Val := decVal 10 (pk x l f.wa j)
    let b (x : Iss) (l j : Nat) : Val := decVal 10 (pk x l f.wb j)
    let c (x : Iss) (l j : Nat) : Val := decVal 10 (pk x l f.wc j)
    let scal (x : Iss) (l : Nat) : Val := x.flt l f.vs 10
    let each (g : Nat → Nat × BitVec 6) : LaneOut := packOut f.wd ((List.range 8).map g)
    Yields (.wadd f) f.h (fun x l => each (fun j => fAdd 10 r (a x l j) (b x l j))) ∧
    Yields (.wmul f) f.h (fun x l => each (fun j => fMul 10 r (a x l j) (b x l j))) ∧
    Yields (.wfma f) f.h (fun x l => each (fun j => fFma 10 r (a x l j) (b x l j) (c x l j))) ∧
    Yields (.wscal f) f.h (fun x l => each (fun j => fMul 10 r (a x l j) (scal x l))) ∧
    Yields (.wexp f) f.h (fun x l =>
      each (fun j => fExpNeg r (a x l j) (if f.vs.toNat = 511 then .fin false 1 else scal x l))) ∧
    Yields (.wspan f) f.h (fun x l => packOut f.wd (wspanOf r x.w.wlrange (x.rd l f.vs 1 % 2 ^ 32))) ∧
    Yields (.wsum f) f.h (fun x l => LaneOut.flt f.vs (fixedTree r ((List.range 8).map (fun j => (pk x l f.wa j, 0))))) ∧
    Yields (.wdot f) f.h (fun x l =>
      LaneOut.flt f.vs (fixedTree r ((List.range 8).map (fun j => fMul 10 r (a x l j) (b x l j))))) ∧
    (∀ s x t, let va (l : Nat) : Nat := x.rd l f.vs 1 % 2 ^ 32
      let out (l : Nat) : LaneOut :=
        packOut f.wd (muelOf r (pk x l f.wa) (fun i => ofBytes (t.scratchBytes (va l + 4 * i) 4)))
      Issues (.muel f) f.h s x → NoTrap x out → s.team? x.wid.team = some t →
      (∀ l ∈ x.lanes, va l % 64 = 0 ∧ va l + 512 ≤ s.scratchSize x.wid) →
      ∃ t', exec (.muel f) s = .next t' ∧ Computed x s t' out)

/-- The lane groups `LRED`, `MATCH`, `SLANE` and `VPOLL` (R449 to R451, R480, R481). `LEAFX` (R152, R447, R448): t, u, v and the hit of
the leaf test of a lane's ray and record. -/
def Obligations.LaneGroupsAndLeaves : Prop :=
  (∀ (f : FmtR),
    let t := tyS f.ty
    let same (x : Iss) (l : Nat) : List Nat := x.act.filter (fun k => x.pat k f.a t == x.pat l f.a t)
    let red (x : Iss) (l : Nat) := lredOver t (f.fn.toNat % 8) ((groupOf x f.b l).map (fun k => x.pat k f.a t))
    Yields (.lred f) f.h (fun x l =>
      { writes := [(f.d.toNat, words t, extendTo 64 t (intVal t (red x l).1))], preds := [],
        exc := x.lanes.foldl (fun e i => if (groupOf x f.b i).contains l then e ||| (red x i).2 else e) 0, draws := 0 }) ∧
    Yields (.matchR f) f.h (fun x l =>
      { writes := [(f.d.toNat, 1, (maskOf (same x l)).toNat)],
        preds := [(f.fn.toNat / 8, decide ((same x l).head? = some l))], exc := 0, draws := 0 }) ∧
    Yields (.slane f) f.h (fun x l =>
      let j := slaneFrom (f.fn.toNat % 4) l (x.rd l f.b 1 % 2 ^ 32)
      let ok := decide (0 ≤ j ∧ j ≤ 31 ∧ j.toNat ∈ groupOf x f.c l)
      { writes := [(f.d.toNat, words t,
          if ok then x.rd j.toNat f.a (words t) else if f.fn.getLsbD 2 then 0 else x.rd l f.a (words t))],
        preds := [(f.fn.toNat / 8, ok)], exc := 0, draws := 0 }) ∧
    Yields (.vpoll f) f.h (fun x l =>
      let p := vpollOf (f.fn.toNat % 8) ((groupOf x f.c l).map (fun k => (k, x.pat k f.a t)))
      { writes := [(f.d.toNat, 1, p.1)], preds := [(f.fn.toNat / 8, p.2)], exc := 0, draws := 0 })) ∧
  (∀ (f : FmtR) (s : State) (x : Iss), Issues (.leafx f) f.h s x →
    exec (.leafx f) s = .next (wentOn x s (s.updWave x.wid (fun w => x.lanes.foldl (fun w l =>
      let r := leafTest (rayOf ((x.w.vregs l f.a.toNat 8).map BitVec.toNat)) ((x.w.vregs l f.b.toNat 12).map BitVec.toNat)
      w.setVs l f.d.toNat [BitVec.ofNat 32 r.1, BitVec.ofNat 32 r.2.1, BitVec.ofNat 32 r.2.2.1, if r.2.2.2 then 1 else 0]) w)) []))

/-! ## Control, synchronisation and system instructions -/

/-- `NOP` only advances (R460). So do `FENCE`, `CFLUSH` and `PREF`: no other agent of this model could see more of them (log 7; R395,
R429, R446). `FENCE.WALK` acts in each active thread (R75): those whose stores walks do not see yet wait, and for the others every cached
translation of the context is dropped (R232), and `YIELD` marks its wave, but not a lead thread (R503). `EXIT` ends the threads with a true guard and lets the
others of the group go on (R414, R415). -/
def Obligations.HintsAndExit : Prop :=
  (∀ (f : FmtR) (m : FmtM) (s : State) (x : Iss),
    (Issues (.nop f) f.h s x → exec (.nop f) s = .next (wentOn x s s [])) ∧
    (Issues (.fence m) m.h s x → exec (.fence m) s = .next (wentOn x s s [])) ∧
    (Issues (.cflush m) m.h s x → exec (.cflush m) s = .next (wentOn x s s [])) ∧
    (Issues (.pref m) m.h s x → exec (.pref m) s = .next (wentOn x s s [])) ∧
    (Issues (.fenceWalk m) m.h s x →
      let late := x.act.filter (s.unseenBy x.w)
      let waits : State := late.foldl (fun s l => s.block x.wid [l] (.unseen l)) s
      (late ≠ x.act → exec (.fenceWalk m) s =
        .next (wentOn x s { waits with tlb := waits.tlb.filter (fun e => e.asid != asidOf x.wid) } late)) ∧
      (late = x.act → exec (.fenceWalk m) s = .next (wentOn x s waits late))) ∧
    (Issues (.yield f) f.h s x → exec (.yield f) s =
      .next (wentOn x s (if x.w.isLead then s else s.updWave x.wid (fun w => { w with yielded := 1 })) []))) ∧
  (∀ (f : FmtR) (s : State) (x : Iss), Issues (.exit f) f.h s x →
    exec (.exit f) s =
      .next (jumped x s ((advance s x.wid (x.group.filter (fun l => !x.act.contains l)) x.pc).endThreads x.wid x.act)))

/-- Taken branches: the threads with a true condition go to the target line and slot, the others of the group to the next PC, and nothing
else changes (R82, R393, R394). `BRU` decides for the whole group on one condition, which is uniform-required. A transfer to a slot whose
`TGT` bit is clear raises `BRANCH_TARGET` on the threads with such a target, and no thread moves (R71). Shown for `BRA`. -/
def Obligations.BranchesTransfer : Prop :=
  (∀ (f : FmtB) (s : State) (x : Iss),
    let target : Nat := (((x.pc.toNat / 64 : Nat) : Int) * 64 + f.loff.toInt * 64 + (f.slot.toNat : Int)) % 2 ^ 64 |>.toNat
    let taken := (x.act.filter (fun l => f.a.toNat == 511 || x.rd l f.a 1 != 0)).map (fun l => (l, target))
    let all := x.group.map (fun l => (l, target))
    let test : Bool := f.a.toNat == 511 || x.rd x.first f.a 1 != 0
    let same : Prop := f.u = true → f.a.toNat ≠ 511 → x.uniformFault f.a 1 = none
    (Issues (.bra f) f.h s x → same → TargetsOk x s taken →
      ∃ t, exec (.bra f) s = .next t ∧ Transferred x s t taken x.w) ∧
    (Issues (.bru f) f.h s x → same → test = true → TargetsOk x s all → ∃ t, exec (.bru f) s = .next t ∧ Transferred x s t all x.w) ∧
    (Issues (.bru f) f.h s x → same → test = false → exec (.bru f) s = .next (wentOn x s s []))) ∧
  (∀ (f : FmtB) (s : State) (x : Iss) (line : BitVec 512), Issues (.bra f) f.h s x → f.a.toNat = 511 →
    let target := directTarget f x.pc
    pcBad target = false → (s.core x.w.core).line? (asidOf x.wid) (target / 64) = some line →
    (lineWord line).testBit (target % 8) = false →
    exec (.bra f) s = .next (drained s (s.raisePrecise x.wid cBranchTarget (maskOf x.act) target)))

/-- `CALL` transfers with the next PC of the call in its link register; `RET` and `JMPI` transfer to the PCs their register holds, `RET`
without a `TGT` check (R393, R438, R472). -/
def Obligations.CallsAndReturns : Prop :=
  ∀ (f : FmtB) (s : State) (x : Iss),
    let target : Nat := (((x.pc.toNat / 64 : Nat) : Int) * 64 + f.loff.toInt * 64 + (f.slot.toNat : Int)) % 2 ^ 64 |>.toNat
    let moving := if x.uni then x.group else x.act
    let call := moving.map (fun l => (l, target))
    let back := moving.map (fun l => (l, x.rd (if x.uni then x.first else l) f.a 2))
    let same : Prop := f.u = true → f.a.toNat ≠ 511 → x.uniformFault f.a 2 = none
    (Issues (.call f) f.h s x → TargetsOk x s call → ∃ t, exec (.call f) s = .next t ∧
      Transferred x s t call (x.lanes.foldl (fun w l => w.writeReg l f.a.toNat 2 (nextPc x.pc).toNat) x.w)) ∧
    (Issues (.ret f) f.h s x → same → ∃ t, exec (.ret f) s = .next t ∧ Transferred x s t back x.w) ∧
    (Issues (.jmpi f) f.h s x → same → TargetsOk x s back → ∃ t, exec (.jmpi f) s = .next t ∧ Transferred x s t back x.w)

/-- `RCVSET` arms a join barrier that no thread waits on for the active lanes, and where one waits it has no effect and raises
`ILLEGAL_OPERAND` (R40). `RCV` lets late and unexpected threads pass with the barrier's broken bit in their predicate, and the others wait
(R41, R340); then the releases are made that the model's own `settle` allows. -/
def Obligations.JoinBarriers : Prop :=
  ∀ (f : FmtB) (s : State) (x : Iss),
    let j := f.j.toNat
    let p := f.slot.toNat
    let b := x.w.join j
    let pass := x.act.filter (fun l => b.brk || !b.exp.getLsbD l)
    let stay := x.act.filter (fun l => !(b.brk || !b.exp.getLsbD l))
    let waitsOn (v : Wait) : Bool := match v with | .rcv k _ => k == j | _ => false
    let s1 := advance s x.wid (x.group.filter (fun l => !stay.contains l)) x.pc
    let arrive (w : Wave) : Wave :=
      let w := pass.foldl (fun w l => w.setPred l p b.brk) w
      let w := w.updThreads stay (fun _ t => { t with run := .blocked (.rcv j p) })
      if stay.isEmpty then w
      else if b.arr == 0 then
        w.setJoin j { b with arr := maskOf stay, bnd := if x.w.tlevel ≥ 1 then 0 else f.bound.toNat, cnt := 0, wdc := 0, young := true }
      else w.setJoin j { b with arr := b.arr ||| maskOf stay }
    (Issues (.rcvset f) f.h s x → (∀ l ∈ x.w.lanes, (x.w.thread l).waits x.w.tlevel waitsOn = false) →
      exec (.rcvset f) s = .next (wentOn x s
        (s.updWave x.wid (fun w => w.setJoin j { w.join j with exp := x.actMask, arr := 0, ext := 0, brk := false })) [])) ∧
    (Issues (.rcvset f) f.h s x → (∃ l ∈ x.w.lanes, (x.w.thread l).waits x.w.tlevel waitsOn = true) →
      ∃ addr, exec (.rcvset f) s = .next (drained s (s.raisePrecise x.wid cIllegalOperand x.actMask addr))) ∧
    (Issues (.rcv f) f.h s x → stay = [] → exec (.rcv f) s = .next (jumped x s (s1.updWave x.wid arrive))) ∧
    (Issues (.rcv f) f.h s x → stay ≠ [] → exec (.rcv f) s = .next (jumped x s ((s1.updWave x.wid arrive).settle x.wid)))

/-- The team leader is the lead thread where the kernel has a lead section, and wave 0 otherwise: `LAUNCH` from any other wave raises
`ROLE` and has no effect, and the leader's passes that check (R28). With uniform aligned operands and a record that is accepted, `LAUNCH`
of a team that is not redundant makes a child grid one level down, of no higher priority, and writes its launch number (R29, R440, R441);
a redundant team's is left out. -/
def Obligations.LaunchMakesChild : Prop :=
  (∀ (f : FmtR) (k : Slot) (s : State) (c : Cur) (w : Wave) (t : Team), encode (.launch f) = some k → s.cur = some c →
    s.wave? c.wid = some w → s.team? w.id.team = some t → operandFault (.launch f) w = none →
    (lanesOf c.lanes).filter (guardTrue f.h w) ≠ [] →
    let leads : Prop := if t.hasLead = true then w.isLead = true else w.id.wave = 0
    (leads → s.roleRefused (.launch f) w = false) ∧
    (¬ leads → exec (.launch f) s = .next (drained s
      (s.raisePrecise c.wid cRole (maskOf ((lanesOf c.lanes).filter (guardTrue f.h w))) (opcOf k))))) ∧
  (∀ (f : FmtR) (s : State) (x : Iss) (t : Team) (g : Grid) (r : Nat),
    let a := x.uval f.a 2
    let b := if f.b.toNat = 511 then 0 else x.uval f.b 2
    Issues (.launch f) f.h s x → alone x s t → s.grid? x.wid.team.grid = some g →
    x.uniformFaults ((f.a, 2) :: (if f.b.toNat = 511 then [] else [(f.b, 2)])) = none →
    a ≠ 0 → a % 64 = 0 → (f.b.toNat ≠ 511 → b ≠ 0) → b % 8 = 0 →
    s.uload x a 128 = .ok r → recRefused r g.level false = false → g.depth < 10 →
    let l := parseRec r
    let n := s.newGrid g.id.asid l (.child g.id x.wid b) (g.depth + 1) (min l.prio g.prio) g.level
    exec (.launch f) s = .next (wentOn x s
      ((n.2.updWave x.wid (fun w => x.lanes.foldl (fun w k => w.writeReg k f.d.toNat 2 n.1.lseq) w)).pushDue .teamPlacement) []))

/-- `BAR` and `BAR.ARV` outside a handler record the wave's operation on the barrier, `BAR` leaves its threads waiting, and then every
arrival and release that R389 allows is made (R387 to R389). The threads of a `BAR.ARV` whose wave has arrived in this phase already wait
until it releases. -/
def Obligations.TeamBarriers : Prop :=
  ∀ (f : FmtR) (s : State) (x : Iss) (t : Team),
    let n := f.fn.toNat % 16
    let a := if f.a.toNat = 511 then 0 else x.rd x.first f.a 1 % 2 ^ 32
    let m := x.optS f.b t.everyone.toNat % 2 ^ 33
    let note (arv : Bool) : State := s.updTeam x.wid.team (fun t =>
      let b := t.bar n
      let seen := match b.arvs.find? (fun p => p.1 == x.wid.wave) with | some p => p.2 | none => 0
      t.setBar n { b with
        ops := b.ops.filter (fun p => p.1 != x.wid.wave) ++ [(x.wid.wave, m, a)]
        arvs := if arv then b.arvs.filter (fun p => p.1 != x.wid.wave) ++ [(x.wid.wave, seen ||| x.actMask)] else b.arvs })
    x.w.tlevel = 0 → s.team? x.wid.team = some t →
    (Issues (.bar f) f.h s x → exec (.bar f) s = .next (jumped x s
      (((advance (note false) x.wid (x.group.filter (fun l => !x.act.contains l)) x.pc).block x.wid x.act (.bar n false)).settle x.wid))) ∧
    (Issues (.barArv f) f.h s x → (t.bar n).arr.getLsbD x.wid.wave = false →
      exec (.barArv f) s = .next (jumped x s ((advance (note true) x.wid x.group x.pc).settle x.wid))) ∧
    (Issues (.barArv f) f.h s x → (t.bar n).arr.getLsbD x.wid.wave = true → exec (.barArv f) s = .next (drained s
      ((advance s x.wid (x.group.filter (fun l => !x.act.contains l)) x.pc).block x.wid x.act (.barPhase n))))

/-- `DECP` outside a handler, with fewer than 64 decisions in the queue and a mask that names waves of the team, always completes: its
value goes to the oldest waiting claim of each wave named, and stays in the queue for the waves that have still to claim it; the copy of a
redundant team whose queue is its twin's only goes on (log 25). `DECT` outside a handler, in a team with a lead thread, completes with the
oldest entry that names its wave; a V destination without one, or with earlier claims still waiting, completes too, its pair empty until
an entry comes, while the lead thread has not ended; an S destination that waited completes with the entry its claim was given. Of two
redundant copies the one that reaches the other performs the claim, and its value is both copies' (R301, R409 to R413). -/
def Obligations.DecisionQueue : Prop :=
  ∀ (f : FmtR) (s : State) (x : Iss) (t : Team),
    let m := x.optS f.b (2 ^ t.nwaves - 1) % 2 ^ 32
    let v : DWord := BitVec.ofNat 64 (x.rd x.first f.a 2)
    let live : BitVec 32 := (BitVec.ofNat 32 m) &&& ~~~t.gone
    let give (p : LaneMask × State) (k : Nat) : LaneMask × State :=
      let r := p.2.giveDecision { team := t.id, wave := k } v
      (if r.1 then p.1 &&& ~~~(1#32 <<< k) else p.1, r.2)
    let given := (wavesIn live.toNat).foldl give (live, s)
    let append (s : State) (left : LaneMask) : State := s.updTeam t.id (fun t => { t with
      decisions := t.decisions ++ [{ seq := t.decNext, value := v, mask := left }]
      decNext := t.decNext + 1 })
    let put (s : State) (v : Nat) : State := s.updWave x.wid (fun w => x.lanes.foldl (fun w l => w.writeReg l f.d.toNat 2 v) w)
    let mine := t.decisions.find? (fun d => d.mask.getLsbD x.wid.wave)
    let took (e : Decision) : State := put (s.updTeam t.id (fun t => ({ t with decisions := t.decisions.map (fun (g : Decision) =>
      if g.seq = e.seq then { g with mask := g.mask &&& ~~~(1#32 <<< x.wid.wave) } else g) } : Team).sweep)) e.value.toNat
    let first : Prop := ∀ k, (x.w.thread x.first).run ≠ .blocked (.decision k)
    x.w.tlevel = 0 → s.team? x.wid.team = some t → t.id = x.wid.team →
    (Issues (.decp f) f.h s x → t.decisions.length < 64 → m ≠ 0 → m < 2 ^ t.nwaves →
      exec (.decp f) s = .next (wentOn x s
        (if s.secondCopy t then s else if given.1 = 0 then given.2 else append given.2 given.1) [])) ∧
    (Issues (.decp f) f.h s x → t.decisions.length < 64 → m ≠ 0 → m < 2 ^ t.nwaves → s.secondCopy t = false → live ≠ 0 →
      (∀ k, s.oldestClaim { team := t.id, wave := k } = none) → exec (.decp f) s = .next (wentOn x s (append s live) [])) ∧
    (∀ e, Issues (.dect f) f.h s x → first → t.red = false → t.hasLead = true → s.oldestClaim x.wid = none → mine = some e →
      exec (.dect f) s = .next (wentOn x s (took e) [])) ∧
    (Issues (.dect f) f.h s x → first → t.red = false → t.hasLead = true → (s.oldestClaim x.wid ≠ none ∨ mine = none) →
      t.leadEnded = false → f.d.toNat < 320 →
      ∃ u, exec (.dect f) s = .next u ∧ (∃ r ∈ u.reqs, r.wave = x.wid ∧ r.kind = .decision x.w.decPos) ∧
        ∃ w, u.wave? x.wid = some w ∧ w.decPos = x.w.decPos + 1 ∧ ∀ l ∈ x.lanes, w.anyEmpty l f.d.toNat 2 = true) ∧
    (∀ k r g, Issues (.dect f) f.h s x → (x.w.thread x.first).run = .blocked (.decision k) → t.red = false →
      s.reqs.find? (fun r => r.wave == x.wid && r.kind == .decision k) = some r → r.fills.head? = some g →
      exec (.dect f) s = .next (wentOn x s { put s g.val.toNat with reqs := s.reqs.filter (fun q => q.id != r.id) } [])) ∧
    (∀ e u wb, Issues (.dect f) f.h s x → first → t.red = true → t.hasLead = true → s.wave? (twinOf x.wid) = some wb →
      s.team? wb.id.team = some u → t.core ≤ wb.core →
      u.meet.find? x.meets = some (x.meeting []) → s.oldestClaim x.wid = none →
      mine = some e → exec (.dect f) s = .next (wentOn x s ((took e).twinGo x (.dect f) s.nextId) []))

/-- `QPUSH` into a queue with room appends the lanes' values, giving them first to pops that wait; `QPOP` from a queue that is not empty
claims an entry for each lane (R466, R467), whose values the model writes in the same step (log 34); both are stated for a team that is
not redundant. `RACQ` gives the side's next slot when it is ready, and moves the wave's position on by one slot, changing the phase at the
ring's end; `RREL` counts the wave at a slot, which changes hands when all have released it (R52, R468, R469). -/
def Obligations.QueuesAndRings : Prop :=
  (∀ (f : FmtR) (s : State) (x : Iss) (t : Team) (c : Ctx),
    let q := f.fn.toNat
    let vals := x.lanes.map (fun l => BitVec.ofNat 64 (x.rd l f.a 2))
    alone x s t → s.ctx? (asidOf x.wid) = some c → c.queueSize q ≠ 0 →
    (Issues (.qpush f) f.h s x → (c.queue q).length + vals.length ≤ c.queueSize q →
      exec (.qpush f) s = .next (wentOn x s (s.queuePut (asidOf x.wid) q vals) [])) ∧
    (Issues (.qpop f) f.h s x → c.queue q ≠ [] →
      exec (.qpop f) s = .next (wentOn x s (claimPops f x q x.lanes (c.queue q) s) []))) ∧
  (∀ (f : FmtR) (s : State) (x : Iss) (t : Team),
    let n := f.fn.toNat % 8
    let cons := f.fn.toNat / 8 % 2 == 1
    let c := ringOf t f
    let key := 2 * n + (if cons then 1 else 0)
    let pos := cellGet 0 x.w.ring key
    let k := x.rd x.first f.a 2
    let b := t.slot n k
    let done := b.done ++ [x.wid.wave]
    x.w.tlevel = 0 → s.team? x.wid.team = some t → t.id = x.wid.team → c.n ≠ 0 →
    (Issues (.racq f) f.h s x → ringReady (t.slot n (pos / 2)) cons (pos % 2 == 1) = true →
      exec (.racq f) s = .next (wentOn x s (s.updWave x.wid (fun w =>
        ({ w with ring := cellSet 0 w.ring key (if pos / 2 + 1 ≥ c.n then 1 - pos % 2 else 2 * (pos / 2 + 1) + pos % 2) }).writeReg
          x.first f.d.toNat 2 (pos / 2))) [])) ∧
    (Issues (.rrel f) f.h s x → k < c.n → b.full = cons → x.wid.wave ∉ b.done →
      let slot : RingSlot := if done.length ≥ (if cons then c.c else c.p)
        then { full := !cons, ph := if cons then !b.ph else b.ph, done := [] } else { b with done := done }
      exec (.rrel f) s =
        .next (wentOn x s (s.updTeam t.id (fun t => { t with ringSlots := cellSet RingSlot.none t.ringSlots (16 * n + k) slot })) [])))

/-- TAKING AN EXCEPTION with a handler, from level 0 or, in the handler wave, from level 1: the bank of the next level holds the cause, the
mask and the address, every thread's PC and run state are saved, every thread of the wave is ready at `HANDLER` with its loop buffer empty,
and the level is the next. Registers, `FLAGS` and predicates stay as they were; from level 0 the team halts, from level 1 it stays as it is
(R338, R341). Without a handler a cause kills the context with that cause (R337), and a cause beyond level 2 kills it with
`TRAP_OVERFLOW` (R341); the status block receives the cause, or the three causes, with their `TADDR` values, the PC of the lowest lane of
the first, 0 for kind E, and the team, the wave and the launch (R345, R346). -/
def Obligations.TrapEntry : Prop :=
  (∀ (s : State) (wid : WaveId) (w : Wave) (cause addr : Nat) (mask : LaneMask) (eng : Bool),
    let u := s.takeTrap wid cause eng mask addr
    let bank : Bank := { cause := cause, eng := eng, addr := BitVec.ofNat 64 addr, mask := mask }
    s.wave? wid = some w → w.id = wid → w.tlevel < 2 → w.handler ≠ 0 →
    ∃ v, u.wave? wid = some v ∧ v.tlevel = w.tlevel + 1 ∧ v.bpc = w.handler ∧
      v.bank1 = (if w.tlevel = 0 then bank else w.bank1) ∧ v.bank2 = (if w.tlevel = 0 then w.bank2 else bank) ∧
      v.s = w.s ∧ v.v = w.v ∧ v.empties = w.empties ∧ v.flags = w.flags ∧
      (∀ l ∈ w.lanes, (v.thread l).pc = w.handler ∧ (v.thread l).run = .ready ∧ (v.thread l).loop = [] ∧
        (v.thread l).tret1 = (if w.tlevel = 0 then (w.thread l).pc else (w.thread l).tret1) ∧
        (v.thread l).saved1 = (if w.tlevel = 0 then (w.thread l).run else (w.thread l).saved1) ∧
        (v.thread l).tret2 = (if w.tlevel = 0 then (w.thread l).tret2 else (w.thread l).pc) ∧
        (v.thread l).saved2 = (if w.tlevel = 0 then (w.thread l).saved2 else (w.thread l).run) ∧
        (v.thread l).preds = (w.thread l).preds ∧ (v.thread l).fen = (w.thread l).fen) ∧
      u.mem = s.mem ∧
      (w.tlevel = 0 → ∀ t, s.team? wid.team = some t → t.id = wid.team →
        ∃ t', u.team? wid.team = some t' ∧ t'.halted = some wid.wave) ∧
      (w.tlevel = 1 → u.teams = s.teams ∧ ∀ k, k ≠ wid → u.wave? k = s.wave? k)) ∧
  (∀ (s : State) (wid : WaveId) (w : Wave) (c : Ctx) (cause addr : Nat) (mask : LaneMask) (eng : Bool),
    let pc (e : Bool) (code : Nat) (m : LaneMask) (f : Thread → DWord) : Nat := if e = true ∧ code ≠ cWatchdog then 0 else pcOfMask w m f
    let dies (code : Nat) (r : StatusRec) : Prop :=
      s.takeTrap wid cause eng mask addr = (s.writeStatus (asidOf wid) r 2 code).stopContext (asidOf wid)
    s.wave? wid = some w → s.ctx? (asidOf wid) = some c → c.killed = false →
    (w.tlevel < 2 → w.handler = 0 → dies cause
      { c1 := cause, c2 := 0, c3 := 0, a1 := addr, a2 := 0, a3 := 0, pc := pc eng cause mask Thread.pc,
        team := wid.team.team, wave := wid.wave, lseq := wid.team.grid.lseq }) ∧
    (w.tlevel ≥ 2 → dies 0x51
      { c1 := w.bank1.cause, c2 := w.bank2.cause, c3 := cause, a1 := w.bank1.addr.toNat, a2 := w.bank2.addr.toNat, a3 := addr,
        pc := pc w.bank1.eng w.bank1.cause w.bank1.mask Thread.tret1,
        team := wid.team.team, wave := wid.wave, lseq := wid.team.grid.lseq }))

/-- RETURN FROM AN EXCEPTION: `RTT` at level 1 or 2 takes the wave back one level, each thread to its saved PC and run state, a thread
that ended in the handler staying ended, with the loop buffers empty (R343, R415, R473). -/
def Obligations.TrapReturn : Prop :=
  ∀ (w : Wave), (w.tlevel = 1 ∨ w.tlevel = 2) →
    w.leave.tlevel = w.tlevel - 1 ∧ w.leave.s = w.s ∧ w.leave.v = w.v ∧ w.leave.flags = w.flags ∧
    (∀ l ∈ w.lanes, (w.leave.thread l).pc = (if w.tlevel = 2 then (w.thread l).tret2 else (w.thread l).tret1) ∧
      (w.leave.thread l).loop = [] ∧
      (∀ r, (if w.tlevel = 2 then (w.thread l).saved2 else (w.thread l).saved1) = r → (w.thread l).run ≠ .ended →
        (∀ on va, r ≠ .parked on va .resolved) → (w.leave.thread l).run = r) ∧
      ((w.thread l).run = .ended → (w.leave.thread l).run = .ended))

/-- `TRAP` takes the cause `SOFTWARE` with its immediate in `TADDR`, `BKPT` the cause `BREAKPOINT`, on the threads with a true guard
(R391, R494); in a wave in no skid this is the entry of `takeTrap`. `RTT` in a handler is the return of the whole wave, which retires
where no thread of it is left (R343, R415, R473); `MERGE` outside a handler, in a grid launched with `COR`, leaves its threads waiting at
the merge point (R296, R455). `GFIN` and `GFAIL` note in a generator grid how its block ends (R432). -/
def Obligations.SystemInstructions : Prop :=
  (∀ (f : FmtR) (k : FmtI) (s : State) (x : Iss), x.w.halt = .running →
    (Issues (.bkpt f) f.h s x → exec (.bkpt f) s = .next (drained s (s.takeTrap x.wid 0x41 false (maskOf x.act) 0))) ∧
    (Issues (.trap k) k.h s x →
      exec (.trap k) s = .next (drained s (s.takeTrap x.wid 0x40 false (maskOf x.act) k.imm.toNat)))) ∧
  (∀ (f : FmtR) (s : State) (x : Iss),
    let back := x.w.lanes.filter (fun l => match (if x.w.tlevel == 2 then (x.w.thread l).saved2 else (x.w.thread l).saved1) with
      | .parked _ _ (.failed _) => true
      | _ => false)
    (Issues (.rtt f) f.h s x → x.w.tlevel ≠ 0 → exec (.rtt f) s = .next (jumped x s
      ((({ s with due := s.due ++ back.map (fun l => Instr.parkedThreadReexecute x.wid l) } : State).returnTrap x.wid).afterEnd x.wid))) ∧
    (Issues (.merge f) f.h s x → x.w.tlevel = 0 → (s.recOf x.wid).cor = true → exec (.merge f) s = .next (jumped x s
      (((advance s x.wid (x.group.filter (fun l => !x.act.contains l)) x.pc).block x.wid x.act .merge).settle x.wid)))) ∧
  (∀ (f : FmtR) (s : State) (x : Iss) (o : Nat × Nat), s.ownBlock x.wid.team.grid = some o →
    (Issues (.gfin f) f.h s x →
      exec (.gfin f) s = .next (wentOn x s (s.updGrid x.wid.team.grid (fun g => { g with gfin := true })) [])) ∧
    (Issues (.gfail f) f.h s x →
      exec (.gfail f) s = .next (wentOn x s (s.updGrid x.wid.team.grid (fun g => { g with gfail := true })) [])))

/-- `SREG` writes the special register's value, its low 32 bits for an N32 (R482, R483; an S register is widened with zeros, the model's
log 35); a read of `MISSED` or `TSKID` is stated for a team that is not redundant. `SWR` (R484) of the value of `A`, of which
an N32 gives the low 32 bits and the register keeps its upper 32: `FEN` and `SRCNT` of the active threads, `FLAGS`, `SRKEY`, `DSLACK`,
`WLRANGE` and `HANDLER` of the wave receive it where their checks allow it, `PRIO` its low byte where that is not above the grid's,
`MISSED` of the core in the context, and a `TRET` of a level in use of the active threads. A refused value raises `ILLEGAL_OPERAND`
(with the register code of `A`, the model's log 28; with the number for a `TRET`), and nothing is written. -/
def Obligations.SpecialRegisters : Prop :=
  (∀ (k : FmtI) (s : State) (x : Iss), Issues (.sreg k) k.h s x → (k.imm = 0x030 ∨ k.imm = 0x00B → ∃ t, alone x s t) →
    exec (.sreg k) s = .next (wentOn x s (s.updWave x.wid (fun w => x.lanes.foldl (fun w l =>
      if k.ty = 0x77 then w.writeReg l k.d.toNat 2 (s.special x.w l k.imm.toNat)
      else w.writeReg l k.d.toNat 1 (s.special x.w l k.imm.toNat % 2 ^ 32)) w)) [])) ∧
  (∀ (k : FmtI) (s : State) (x : Iss), Issues (.swr k) k.h s x →
    let num := k.imm.toNat
    let value (l : Nat) : Nat :=
      let r := if x.uni then x.first else l
      if k.ty = 0x77 then x.rd r k.a 2 else s.special x.w l num / 2 ^ 32 * 2 ^ 32 + x.rd r k.a 1 % 2 ^ 32
    let v := value x.first
    let refused (a : Nat) : Prop :=
      exec (.swr k) s = .next (drained s (s.raisePrecise x.wid cIllegalOperand (maskOf x.act) a))
    let put (g : Wave → Wave) : Prop := exec (.swr k) s = .next (wentOn x s (s.updWave x.wid g) [])
    (k.imm = 0x000 → put (fun w => w.updThreads x.act (fun l t =>
      { t with fen := BitVec.ofNat 6 (value l) }))) ∧
    (k.imm = 0x001 → put (fun w => { w with flags := BitVec.ofNat 6 v })) ∧
    (k.imm = 0x002 → put (fun w => { w with srkey := BitVec.ofNat 64 v })) ∧
    (k.imm = 0x003 → put (fun w => w.updThreads x.act (fun l t => { t with srcnt := BitVec.ofNat 64 (value l) }))) ∧
    (k.imm = 0x004 → wlrangeOk v = true → put (fun w => { w with wlrange := BitVec.ofNat 64 v })) ∧
    (k.imm = 0x004 → wlrangeOk v = false → refused k.a.toNat) ∧
    (k.imm = 0x005 → put (fun w => { w with dslack := BitVec.ofNat 64 v })) ∧
    (k.imm = 0x006 → v % 256 ≤ x.w.prioGrid → put (fun w => { w with prioLevel := v % 256 })) ∧
    (k.imm = 0x006 → x.w.prioGrid < v % 256 → refused k.a.toNat) ∧
    (k.imm = 0x009 → pcBad v = false → put (fun w => { w with handler := BitVec.ofNat 64 v })) ∧
    (k.imm = 0x009 → pcBad v = true → refused k.a.toNat) ∧
    (k.imm = 0x030 → exec (.swr k) s = .next (wentOn x s
      (s.updCtx (asidOf x.wid) (fun c => { c with missed := cellSet 0 c.missed x.w.core (BitVec.ofNat 64 v) })) [])) ∧
    (∀ level, num = 0x011 ∧ level = x.w.tlevel ∨ num = 0x019 ∧ level = 1 ∨ num = 0x021 ∧ level = 2 →
      (1 ≤ level → level ≤ x.w.tlevel → put (fun w => w.updThreads x.act (fun l t =>
        if level = 2 then { t with tret2 := BitVec.ofNat 64 (value l) } else { t with tret1 := BitVec.ofNat 64 (value l) }))) ∧
      (level = 0 ∨ x.w.tlevel < level → refused num)))

/-- A special register written reads back what was written: `FLAGS`, `SRKEY`, `DSLACK`, `PRIO` and `HANDLER`, in the wave that wrote it
(R482 to R484). -/
def Obligations.SpecialWriteThenRead : Prop :=
  ∀ (s t : State) (w v : Wave) (wid : WaveId) (num n l : Nat), s.wave? wid = some w → w.id = wid → n < 2 ^ 64 →
    num ∈ [0x001, 0x002, 0x005, 0x006, 0x009] → s.writeSpecial wid num n = some t → t.wave? wid = some v →
    t.special v l num = match num with
      | 0x001 => n % 64
      | 0x006 => w.prioGrid * 256 + n % 256
      | _ => n

/-! ## Memory instructions -/

/-- `LD` (R443 to R445): the executing lanes' bytes, zero-extended, reach their destination: of global memory in the team's view, of
scratch, or of the bay's accumulator tiles, which have no uncorrectable error there (R223). Nothing else changes but what `deliver` does:
an S register is written once the load's requests are past the pseudo-channels, V registers are empty until the reply, which for global
memory keeps request slots (R207). A load of global memory into V registers and then its reply: between the two the destination is empty, and after them each lane's
registers hold its bytes, low word first (R90, R443, R444). Of the state it is asked that the request's name is new, and that no miss of
it waits at a pseudo-channel (R217). -/
def Obligations.LoadsDeliver : Prop :=
  (∀ (f : FmtM) (s : State) (x : Iss) (t : Team) (c : Ctx) (pas : Nat → List (Nat × Nat)),
    let n := 2 ^ f.wd.toNat
    let va (l : Nat) : Nat := effAddr x l f
    let tiles := s.tiles x.wid
    let gives (slots : List SlotTok) (v : Nat → List Byte) : Prop :=
      exec (.ld f) s = .next (wentOn x s (s.deliver x.wid .load f.ds.toNat (x.lanes.map (fun l => (l, v l))) slots) [])
    Issues (.ld f) f.h s x → (∀ l ∈ x.lanes, va l % n = 0) → s.team? x.wid.team = some t → AtOnce x s f.ds.toNat →
    (f.sp = 0 → Reaches x s (x.accs va n) .read (fun _ _ => false) pas c → Readable s (x.accs va n) pas →
      gives (s.toks x.w.core (x.accs va n)) (fun l => s.viewBytes (s.viewOf x.wid) (va l) (pas l))) ∧
    (f.sp = 1 → (∀ l ∈ x.lanes, va l + n ≤ s.scratchSize x.wid) → poolCheck x t 1 (x.accs va n) = none →
      gives [] (fun l => t.scratchBytes (va l) n)) ∧
    (f.sp = 2 → (∀ l ∈ x.lanes, va l + n ≤ tiles * 16384) → poolCheck x t (2 + x.w.bay) (x.accs va n) = none →
      (∀ l ∈ x.lanes, s.tileBusy x.wid.team x.w.core x.w.bay (va l / 16384) (tileBefore s x.w l (va l / 16384)) = false) →
      gives [] (fun l => t.accBytes tiles x.w.bay (va l) n))) ∧
  (∀ (f : FmtM) (s : State) (x : Iss) (t : Team) (c : Ctx) (pas : Nat → List (Nat × Nat)),
    let n := 2 ^ f.wd.toNat
    let va (l : Nat) : Nat := effAddr x l f
    Issues (.ld f) f.h s x → (∀ l ∈ x.lanes, va l % n = 0 ∧ (x.w.thread l).run ≠ .ended) → s.team? x.wid.team = some t →
    f.sp = 0 → noneHeld x → f.ds.toNat < 320 → f.ds.toNat + (n + 3) / 4 ≤ 320 →
    Reaches x s (x.accs va n) .read (fun _ _ => false) pas c → Readable s (x.accs va n) pas →
    (∀ r ∈ s.reqs, r.id ≠ s.nextId) → s.heldReq s.nextId = false →
    s.atChannel (.request s.nextId) = false →
    ∃ u v, exec (.ld f) s = .next u ∧ exec (.loadReply s.nextId) u = .next v ∧
      (∃ w, u.wave? x.wid = some w ∧ ∀ l ∈ x.lanes, w.anyEmpty l f.ds.toNat ((n + 3) / 4) = true) ∧
      (∃ w, v.wave? x.wid = some w ∧ ∀ l ∈ x.lanes, ∀ k < (n + 3) / 4, w.vreg l (f.ds.toNat + k) =
        BitVec.ofNat 32 (ofBytes (((s.viewBytes (s.viewOf x.wid) (va l) (pas l)).drop (4 * k)).take 4))))

/-- `ST` (R486 to R488): the executing lanes' bytes are written in ascending lane order, in global memory in the team's view, in scratch,
or in the bay's tiles; the group goes on. Global stores keep their request slots until they are acknowledged (R207), and at D2 and D3 are
still to be seen by walks (R232). The bytes of a global `ST` at D0 and D1: byte k of a lane's data stands at the address to which byte k
of its access translates, where no other byte of the instruction goes there, and every byte that no access of the instruction reaches is
as it was. -/
def Obligations.StoresWrite : Prop :=
  (∀ (f : FmtM) (s : State) (x : Iss) (c : Ctx) (pas : Nat → List (Nat × Nat)),
    let n := 2 ^ f.wd.toNat
    let va (l : Nat) : Nat := effAddr x l f
    let data (l : Nat) : List Byte := storeData x l f.ds n
    let tiles := s.tiles x.wid
    Issues (.st f) f.h s x → (∀ l ∈ x.lanes, va l % n = 0) →
    (f.sp = 0 → Reaches x s (x.accs va n) .write (fun c a => c.needsMcst a.va a.n) pas c → Writable s (x.accs va n) pas →
      exec (.st f) s = .next (wentOn x s ((x.lanes.foldl (fun s l => s.laneWrite x.wid (va l) (pas l) (data l)) s).noteStores x
        (allGo s (x.accs va n) pas)) [])) ∧
    (f.sp = 1 → (∀ l ∈ x.lanes, va l + n ≤ s.scratchSize x.wid) → exec (.st f) s = .next (wentOn x s
      (s.updTeam x.wid.team (fun t => x.lanes.foldl (fun t l => t.setScratch (va l) (data l)) t)) [])) ∧
    (f.sp = 2 → (∀ l ∈ x.lanes, va l + n ≤ tiles * 16384) →
      (∀ l ∈ x.lanes, s.tileBusy x.wid.team x.w.core x.w.bay (va l / 16384) (tileBefore s x.w l (va l / 16384)) = false) →
      exec (.st f) s = .next (wentOn x s
        (s.updTeam x.wid.team (fun t => x.lanes.foldl (fun t l => t.setAcc tiles x.w.bay (va l) (data l)) t)) []))) ∧
  (∀ (f : FmtM) (s t : State) (x : Iss) (c : Ctx) (pas : Nat → List (Nat × Nat)),
    let n := 2 ^ f.wd.toNat
    let va (l : Nat) : Nat := effAddr x l f
    Issues (.st f) f.h s x → f.sp = 0 → s.viewOf x.wid = none → Memory.wf s.mem = true → (∀ l ∈ x.lanes, va l % n = 0) →
    Reaches x s (x.accs va n) .write (fun c a => c.needsMcst a.va a.n) pas c → Writable s (x.accs va n) pas → exec (.st f) s = .next t →
    (∀ l ∈ x.lanes, ∀ k < n, ∀ pa, paOf (pas l) k = some pa →
      (∀ l' ∈ x.lanes, ∀ k' < n, paOf (pas l') k' = some pa → l' = l ∧ k' = k) → t.byteAt pa = (storeData x l f.ds n).getD k 0) ∧
    (∀ pa, (∀ l ∈ x.lanes, ∀ k < n, paOf (pas l) k ≠ some pa) → t.byteAt pa = s.byteAt pa))

/-- `ATOM`, `CAS` and `FACC` at D0 perform their operation lane by lane in ascending order and deliver each old value; at D1 and above
`ATOM` without a destination and `FACC` are deferred with the key of R267 (R262 to R267, R382 to R386, R417). `MCST` writes as `ST` does
and sends the value to the other replicas, at D2 with the merge, and raises `MACHINE_CHECK` where a port does not reach one (R297, R306,
R452, R453; log 53). The accesses keep their request slots until a value returns or they are acknowledged (R207). -/
def Obligations.AtomicsPerform : Prop :=
  ∀ (f : FmtM) (g : FmtX) (s : State) (x : Iss) (c : Ctx) (pas : Nat → List (Nat × Nat)) (core : Nat),
    let n := 2 ^ f.wd.toNat
    let w := 8 * n
    let op := f.rd.toNat
    let immForm : Bool := f.ai.toNat == 511
    let va (l : Nat) : Nat := baseAddr x l f (!immForm)
    let vb (l : Nat) : Nat := baseAddr x l f true
    let vc (l : Nat) : Nat := x.rd l g.a 2
    let ve (l : Nat) : Nat := effAddr x l f
    let new (l old : Nat) : Option Nat := some (atomNew op f.rep w old (atomVal x l f w))
    let swap (l old : Nat) : Option Nat := if old = x.rd l f.ds (w / 32) % 2 ^ w then some (atomVal x l f w) else none
    let level := s.levelOf x.wid.team.grid
    let lands (va : Nat → Nat) (n : Nat) : Prop :=
      Reaches x s (x.accs va n) .write (fun c a => c.needsMcst a.va a.n) pas c ∧ noneHeld x ∧ ∀ l ∈ x.lanes, va l % n = 0
    let free (i : Instr) : Prop := Issues i f.h s x ∧ AtOnce x s f.ds.toNat
    let done (i : Instr) (va : Nat → Nat) (new : Nat → Nat → Option Nat) : Prop :=
      let r := s.rmwLanes x.wid new ((x.accs va n).map (fun a => (a, pas a.lane)))
      exec i s = .next (wentOn x s (r.2.deliver x.wid .atomic f.ds.toNat r.1 (s.toks x.w.core (x.accs va n))) [])
    let inScratch (i : Instr) (va : Nat → Nat) (new : Nat → Nat → Option Nat) : Prop := ∀ t, s.team? x.wid.team = some t →
      poolCheck x t 1 (x.accs va n) = none →
      let r := t.rmwLanes new (x.accs va n)
      exec i s = .next (wentOn x s ((s.updTeam x.wid.team (fun _ => r.2)).deliver x.wid .atomic f.ds.toNat r.1) [])
    let key (l : Nat) (va op width value : Nat) (signed : Bool) : Update :=
      { src := x.w.core, t := keyT x.w l, q := (x.w.thread l).q, e := 0, va := va, op := op, signed := signed, width := width, value := value, sat := false }
    (free (.atom f) → f.sp ≠ 1 → lands va n → Readable s (x.accs va n) pas → level = 0 → done (.atom f) va new) ∧
    (free (.cas f) → f.sp ≠ 1 → lands vb n → Readable s (x.accs vb n) pas → level = 0 → done (.cas f) vb swap) ∧
    (free (.atom f) → f.sp = 1 → level = 0 → (∀ l ∈ x.lanes, va l % n = 0 ∧ va l + n ≤ s.scratchSize x.wid) →
      inScratch (.atom f) va new) ∧
    (free (.cas f) → f.sp = 1 → level = 0 → (∀ l ∈ x.lanes, vb l % n = 0 ∧ vb l + n ≤ s.scratchSize x.wid) →
      inScratch (.cas f) vb swap) ∧
    (Issues (.atom f) f.h s x → f.sp ≠ 1 → lands va n → level ≥ 1 → f.ds.toNat = 511 → op ≤ 6 →
      exec (.atom f) s = .next (wentOn x s
        ((s.defer x (x.lanes.map (fun l => key l (va l) op w (atomVal x l f w) f.rep))).keepSlots x.w.core x.wid (s.toks x.w.core (x.accs va n))) [])) ∧
    (Issues (.facc g) g.h s x → s.target x g true true = some core → lands vc 8 → (∀ l ∈ x.lanes, vc l ≠ 0) →
      (level = 0 → Readable s (x.accs vc 8) pas → exec (.facc g) s = .next (wentOn x s ((s.rmwLanes x.wid
        (fun l old => some (faccNew old (x.rd l g.b 1 % 2 ^ 32))) ((x.accs vc 8).map (fun a => (a, pas a.lane)))).2.keepSlots x.w.core x.wid
          (s.toks x.w.core (x.accs vc 8))) [])) ∧
      (level ≥ 1 → exec (.facc g) s = .next (wentOn x s
        ((s.defer x (x.lanes.map (fun l => key l (vc l) 16 64 (x.rd l g.b 1 % 2 ^ 32) false))).keepSlots x.w.core x.wid
          (s.toks x.w.core (x.accs vc 8))) []))) ∧
    (Issues (.mcst f) f.h s x → Reaches x s (x.accs ve n) .write (fun c a => !c.needsMcst a.va a.n && (c.converting a.va a.n).isNone) pas c →
      Writable s (x.accs ve n) pas → (∀ l ∈ x.lanes, ve l % n = 0) →
      exec (.mcst f) s = .next (wentOn x s ((x.lanes.foldl (fun s l =>
        let s := s.laneWrite x.wid (ve l) (pas l) (storeData x l f.ds n)
        if (s.viewOf x.wid).isSome then
          s.updTeam x.wid.team (fun t => { t with wrep := t.wrep ++ (List.range n).map (ve l + ·) })
        else
          let s' := s.multicast (asidOf x.wid) { lane := l, va := ve l, n := n } (storeData x l f.ds n)
          match s.unreached (asidOf x.wid) (ve l) n with
          | some r => s'.postCause x.wid.team (some x.wid.wave) cMachineCheck r 0
          | none => s') s).noteStores x (allGo s (x.accs ve n) pas)) []))

/-- `CTEST` writes each lane's completion object to its register. `CWAIT` does where the object has reached the threshold, and leaves the
other lanes waiting on it (R403 to R405). The reads keep their request slots until they are acknowledged (R207). -/
def Obligations.CompletionObjects : Prop :=
  ∀ (f : FmtM) (s : State) (x : Iss) (c : Ctx) (pas : Nat → List (Nat × Nat)),
    let va (l : Nat) : Nat := baseAddr x l f true
    let vw (l : Nat) : Nat := baseAddr x l f (f.ai.toNat != 511)
    let value (va : Nat → Nat) (l : Nat) : Nat := ofBytes (s.viewBytes (s.viewOf x.wid) (va l) (pas l))
    let most (l : Nat) : Nat := if f.ai.toNat = 511 then f.off.toNat else x.rd l f.ai 2
    let reads (va : Nat → Nat) : Prop := noneHeld x ∧ x.atChannel s = false ∧ Reaches x s (x.accs va 8) .read (fun _ _ => false) pas c ∧ Readable s (x.accs va 8) pas ∧
      ∀ l ∈ x.lanes, va l ≠ 0 ∧ va l % 8 = 0
    let put (ls : List Nat) (va : Nat → Nat) : State :=
      s.updWave x.wid (fun w => ls.foldl (fun w l => w.writeReg l f.ds.toNat 2 (value va l)) w)
    let kept (va : Nat → Nat) (t : State) : State := t.keepSlots x.w.core x.wid (s.toks x.w.core (x.accs va 8))
    (Issues (.ctest f) f.h s x → reads va → exec (.ctest f) s = .next (wentOn x s (kept va (put x.lanes va)) [])) ∧
    (Issues (.cwait f) f.h s x → reads vw → (∀ l ∈ x.lanes, most l ≤ value vw l) →
      exec (.cwait f) s = .next (wentOn x s (kept vw (put x.lanes vw)) [])) ∧
    (Issues (.cwait f) f.h s x → reads vw → x.uni = false → (∃ l ∈ x.lanes, value vw l < most l) →
      let unmet := x.lanes.filter (fun l => decide (value vw l < most l))
      exec (.cwait f) s = .next (wentOn x s (kept vw (unmet.foldl (fun s l => s.block x.wid [l] (.object (vw l) (most l)))
        (put (x.lanes.filter (fun l => decide (most l ≤ value vw l))) vw))) unmet))

/-! ## Units of the core and the package -/

/-- `XENQ` of records that pass the checks offers them to the store, and `ENQUEUE_EVENT` takes an offer up: the records join their sidings
in lane order, those that spill stand in the spill area too, and the sidings are evaluated (R321 to R325, R500). `XDEQ` stores a firing's
batch to scratch and writes its size (R326, R501). `XSTAT` reads, flushes and resets sidings (R328, R502). -/
def Obligations.Sidings : Prop :=
  ∀ (f : FmtR) (s : State) (x : Iss) (c : Ctx) (e e' : ExpertSet) (r : Waiting) (t : Team) (g : Grid),
    let recs := x.lanes.map (fun l => (x.rd l f.a 1 % 2 ^ 32, tokenOf x f l))
    let good : Prop := (∀ p ∈ recs, p.1 < e.nexp ∧ e.tokenBad p.2 = false) ∧
      e.enqueue (s.sidingEvents + 1) recs = .ok e' ∧ s.spillBad e' (s.sidingEvents + 1) = none
    let taken (s : State) : State :=
      ((({ s with sidingEvents := s.sidingEvents + 1 } : State).updCtx c.asid (fun c => { c with experts := some e' })).spillTokens e'
        (s.sidingEvents + 1)).evaluate c.asid (fun _ => false)
    let a := x.rd x.first f.a 2
    let k := a % 2 ^ 32
    let put (s : State) (v : Nat) : State := s.updWave x.wid (fun w => w.writeReg x.first f.d.toNat 2 v)
    s.ctx? (asidOf x.wid) = some c → alone x s t →
    (Issues (.xenq f) f.h s x → c.experts = some e → good → x.w.hold = none →
      exec (.xenq f) s = .next (offered x s (.xenq f) x.w.core)) ∧
    (∀ q, Issues (.xenq f) f.h s x → c.experts = some e → good → x.w.hold = some q →
      exec (.xenq f) s = .next (wentOn x s (taken (dropHeld x.w s)) [])) ∧
    (Resumes (.xenq f) f.h s r x → c.experts = some e → good → s.waiting.find? (fun q => q.id == r.id && s.waitsAtIssue q) = some r →
      exec (.enqueueEvent r.id) s = .next (wentOn x s (taken (s.dropWork r.id)) [])) ∧
    (∀ (n m : Nat) b (ws : List Nat), Issues (.xdeq f) f.h s x → x.w.tlevel = 0 → s.grid? x.wid.team.grid = some g → g.origin = .firing n m b → a % 16 = 0 →
      a + 16 * t.batch.length ≤ s.scratchSize x.wid → s.batchRecords g.id.asid m t.batch = ws.map Except.ok →
      exec (.xdeq f) s = .next (wentOn x s (put (s.updTeam x.wid.team (fun t => t.setScratch a (ws.flatMap (toBytes 16)))) t.batch.length) [])) ∧
    (Issues (.xstatQuery f) f.h s x → c.experts = some e → k < e.nexp →
      exec (.xstatQuery f) s = .next (wentOn x s (put s (e.status s.sidingEvents k)) [])) ∧
    (Issues (.xstatFlush f) f.h s x → c.experts = some e → k < e.nexp ∨ k = 0x7FF →
      exec (.xstatFlush f) s = .next (wentOn x s (s.evaluate c.asid (fun j => namesSiding k j e.nexp)) [])) ∧
    (Issues (.xstatReset f) f.h s x → c.experts = some e → k < e.nexp ∨ k = 0x7FF →
      exec (.xstatReset f) s = .next (wentOn x s (s.updCtx c.asid (fun c => { c with
        experts := some { e with sidings := e.sidings.filter (fun p => !namesSiding k p.1 e.nexp) } })) []))

/-- `COPY`, `GATH`, `SCAT` and `SCAT.ADD` that pass the checks wait at issue, and `TRANSFER_ACCEPTANCE` of their core's copy engine
accepts the first that waits: the engine holds the transfer, and its team owes its end (R257, R398, R399, R430, R475). -/
def Obligations.TransfersAccepted : Prop :=
  ∀ (f : FmtX) (s : State) (x : Iss) (r : Waiting) (core d e : Nat),
    let does (i : Instr) (op : Nat) : Prop := TransferReady f op x s core d e →
      (Issues i f.h s x → x.w.hold = none → exec i s = .next (offered x s i core)) ∧
      (∀ q, Issues i f.h s x → x.w.hold = some q → exec i s = .next (wentOn x s (accepted f op x core d e (dropHeld x.w s)) [])) ∧
      (Resumes i f.h s r x → s.waiting.find? (fun q => q.core == core && isTransfer q.instr && s.waitsAtIssue q) = some r →
        exec (.transferAcceptance core) s = .next (wentOn x s (accepted f op x core d e (s.dropWork r.id)) []))
    does (.copy f) 0 ∧ does (.gath f) 1 ∧ does (.scat f) 2 ∧ does (.scatAdd f) 3

/-- `COLL`, `CSIG`, `CSIG.NODE` and `NODE` that pass the checks hand their work over: a collective is offered to its members (R307, R396,
R397), a signal waits for the wave's earlier transfers to the same engine (R401, R402), and a node enters its slot (R276, R458). -/
def Obligations.WorkHandedOver : Prop :=
  ∀ (f : FmtX) (s s' : State) (x : Iss) (t : Team) (c : Ctx) (core w d e : Nat),
    let a := x.uval f.a 2
    let b := x.uval f.b 2
    let obj := x.uval f.d 2
    let k := cblockOf w
    let signal (obj : Nat) (value : DWord) (slot : Option Nat) : State := ({ s with
      nextId := s.nextId + 1
      csigs := s.csigs ++
        [{ id := s.nextId, wave := x.wid, core := core, obj := obj, value := value, slot := slot,
           after := (s.xfers.filter (fun t => t.core == core && t.issuer == .wave x.wid)).map (·.id) }] } : State).owe x.wid.team true
    s.ctx? (asidOf x.wid) = some c → s.target x f true false = some core → alone x s t →
    (Issues (.coll f) f.h s x → x.uniformFaults [(f.a, 2), (f.b, 2)] = none → a ≠ 0 → a % 32 = 0 → b ≠ 0 → b % 8 = 0 →
      s.uload x a 32 = .ok w → cblockBad c w = false → k.src ≠ 0 → k.dst ≠ 0 → s.uload x k.dst 64 = .ok d → s.uload x k.src 64 = .ok e →
      collFault c a k (BitVec.ofNat 512 d) (BitVec.ofNat 512 e) = none →
      exec (.coll f) s = .next (wentOn x s ((s.startColl c (dieOfCore core) (.wave x.wid) w a (BitVec.ofNat 512 d)
        (BitVec.ofNat 512 e) b).owe x.wid.team true) [])) ∧
    (Issues (.csig f) f.h s x → obj ≠ 0 → obj % 8 = 0 →
      exec (.csig f) s = .next (wentOn x s (signal obj (if f.a.toNat = 511 then 1 else BitVec.ofNat 64 a) none) [])) ∧
    (Issues (.csigNode f) f.h s x → exec (.csigNode f) s = .next (wentOn x s (signal 0 0 (some f.imm8.toNat)) [])) ∧
    (Issues (.node f) f.h s x → x.uniformFault f.a 2 = none → a ≠ 0 → a % 64 = 0 → s.uload x a 64 = .ok w →
      s.enterNode core f.imm8.toNat (asidOf x.wid) (BitVec.ofNat 512 w) = some s' → exec (.node f) s = .next (wentOn x s s' []))

/-- `PLACE.SET` installs an entry that passes R315, `PLACE.GET` stores one (R461, R462), `PLD.CONV` completes at once where the entry has
the states asked for and else numbers a demand (R319, R463, R464), and `PLD.RED` delivers the element itself where no axis is P (R463,
R465); the partials that other packages hold are free values (log 5). -/
def Obligations.PlacementInstructions : Prop :=
  ∀ (f : FmtX) (s s' : State) (x : Iss) (c : Ctx) (core w d : Nat) (pas : Nat → List (Nat × Nat)),
    let idx := x.uval f.a 1 % 2 ^ 32
    let b := x.uval f.b 2
    let obj := x.uval f.d 2
    let e := pentryOf (c.entry idx)
    let st := demandStates (x.uval f.c 2)
    let old := match c.shards.find? (fun p => p.1 == idx) with | some p => tensorOf p.2.toNat | none => tensorOf 0
    let va (l : Nat) : Nat := x.rd l f.b 2
    let mine : List LaneAcc := [{ lane := x.first, va := b, n := 64 }]
    let asked : Prop := x.uniformFaults [(f.a, 1), (f.b, 2)] = none ∧ b ≠ 0 ∧ b % 64 = 0
    s.ctx? (asidOf x.wid) = some c → s.target x f true false = some core → idx < 4096 →
    (Issues (.placeSet f) f.h s x → asked → s.uload x b 64 = .ok w →
      let h := (pentryOf (BitVec.ofNat 512 w)).shard
      h ≠ 0 → h % 64 = 0 → e.conv = false → imageRefused c (BitVec.ofNat 512 w) = false → s.uload x h 64 = .ok d →
      shardRefused c idx (BitVec.ofNat 512 w) (BitVec.ofNat 512 d) = false → (tensorOf (BitVec.ofNat 512 d).toNat).base ≠ 0 →
      exec (.placeSet f) s = .next (wentOn x s (s.updCtx c.asid (fun c => c.setEntry idx (BitVec.ofNat 512 w) (BitVec.ofNat 512 d))) [])) ∧
    (Issues (.placeGet f) f.h s x → asked → x.seen x.first = [] → Reaches x s mine .write (fun c a => c.needsMcst a.va a.n) pas c → Writable s mine pas →
      exec (.placeGet f) s = .next (wentOn x s ((s.laneWrite x.wid b (pas x.first) (toBytes 64 (c.entry idx).toNat)).noteStores x
        (allGo s mine pas)) [])) ∧
    (Issues (.pldConv f) f.h s x → asked → x.uval f.c 2 / 2 ^ 15 = 0 → (∀ k ∈ st, stateOk k = true) →
      (∀ k < 3, st.getD k 0 = 24 → e.st.getD k 0 = 24) → obj ≠ 0 → obj % 8 = 0 → s.uload x b 64 = .ok d →
      let t := tensorOf (BitVec.ofNat 512 d).toNat
      tensorBad (BitVec.ofNat 512 d).toNat = false → t.rank = old.rank → t.fmt = old.fmt → (e.withStates st).agrees t = true → t.base ≠ 0 →
      (st = e.st → s.increment c.asid (.wave x.wid) (pldWork c.asid idx) (s.viewOf x.wid) obj 1 = .made s' →
         exec (.pldConv f) s = .next (wentOn x s s' [])) ∧
      (st ≠ e.st → exec (.pldConv f) s = .next (wentOn x s
        ((s.demand c idx st b (BitVec.ofNat 512 d) (.wave x.wid) obj (s.levelOf x.wid.team.grid)).owe x.wid.team true) []))) ∧
    (Issues (.pldRed f) f.h s x → x.uniformFault f.a 1 = none → old.fmt ∈ [10, 2, 6] → (∀ l ∈ x.lanes, va l % 4 = 0) →
      Reaches x s (x.accs va 4) .read (fun _ a => (old.elementAt a.va).isNone) pas c → Readable s (x.accs va 4) pas →
      (∀ k < 3, isP (e.st.getD k 0) = false) → (∀ r ∈ e.partners (field c.drank 11 0), s.reaches c r = true) →
      exec (.pldRed f) s = .next (wentOn x s (({ s with fresh := s.fresh + 131072 } : State).deliver x.wid .load f.d.toNat
        (x.lanes.map (fun l => (l, toBytes 4 (ofBytes (s.viewBytes (s.viewOf x.wid) (va l) (pas l)))))) (s.toks x.w.core (x.accs va 4))) []))

/-- `MWL` stages a quarter of 8,192 bytes of weights with its scales (R174). `MMAC`, `MZERO`, `MDRN` and `VXM` that pass the checks of
R179, R184 and R186 enter the FIFO when it takes them at once, with their operands as read at issue; registers that a drain or a `VXM`
will write are empty until then (R176, R185 to R187), and the procedural blocks that a drain will write count as written (R240). The
model's own: that `MDRN` and `VXM` wait for lines another engine owns before they are accepted (log 93), that `VXM` ignores the bits of
its dimension word outside K and N (log 94), that the register form of `MWL` reads all 32 lanes (log 95), and that it takes scales from
scratch where `C` is given (log 102). -/
def Obligations.MatrixIssue : Prop :=
  ∀ (f : FmtX) (s : State) (x : Iss) (t : Team) (c : Ctx) (core : Nat) (pas pas' : Nat → List (Nat × Nat)),
    let ty := f.fn.toNat % 16
    let scr := f.fn.getLsbD 4
    let k := if f.fn.getLsbD 5 then 1 else 0
    let size := s.scratchSize x.wid
    let n := x.uval f.b 1 % 2 ^ 32
    let reg (r : RegCode) (l : Nat) : Nat := x.rd l r 1 % 2 ^ 32
    let sw := t.wslot k
    let forming : Bool := sw.state == .filling || sw.state == .draining
    s.target x f false false = some core → s.team? x.wid.team = some t →
    (Issues (.mwl f) f.h s x → (scr = true → x.uniformFault f.a 1 = none) → (f.c.toNat ≠ 511 → x.uniformFault f.c 1 = none) →
      (scr = true → x.uval f.a 1 % 2 ^ 32 % 256 = 0 ∧ x.uval f.a 1 % 2 ^ 32 + 8192 ≤ size) →
      let m := if f.c.toNat = 511 then 0 else if tyWidth ty = 4 then 512 else 256
      let z := x.uval f.c 1 % 2 ^ 32
      (m ≠ 0 → z % 64 = 0 ∧ z + m ≤ size) →
      poolCheck x t 1 ((if scr then [{ lane := x.first, va := x.uval f.a 1 % 2 ^ 32, n := 8192 }] else []) ++
        [{ lane := x.first, va := z, n := m }]) = none → (∀ q ∈ t.staged, ¬ (q.bay = x.w.bay ∧ q.slot = k)) →
      exec (.mwl f) s = .next (wentOn x s ((s.updTeam t.id (fun t => { t with staged := t.staged ++
        [{ bay := x.w.bay, slot := k, quartet := quartetOf (s.recOf x.wid) x.wid.wave, ty := ty,
           bytes := if scr then t.scratchBytes (x.uval f.a 1 % 2 ^ 32) 8192 else
             (List.range 64).flatMap (fun i => (List.range 32).flatMap (fun l => toBytes 4 (x.w.vreg l (f.a.toNat + i)).toNat))
           scales := t.scratchBytes z m }] })).slotSettle t.id k) [])) ∧
    (Issues (.mmac f) f.h s x → fifoFree x s → n < s.tiles x.wid → sw.state ≠ .empty →
      pairs ty (if forming then sw.formTy else sw.ty) = true →
      (scr = true → ∀ l ∈ x.act, reg f.a l % 64 = 0 ∧ reg f.a l + 256 ≤ size) →
      (f.c.toNat ≠ 511 → ∀ l ∈ x.act, reg f.c l % 16 = 0 ∧ reg f.c l + slotK ty / 32 ≤ size) →
      exec (.mmac f) s = .next (wentOn x s (s.pushEntry x { newEntry (.mmac f) x
        ((if scr then x.act.map (fun l => (l, x.w.vreg l f.a.toNat))
          else x.act.flatMap (fun l => (List.range 64).map (fun i => (64 * l + i, x.w.vreg l (f.a.toNat + i))))) ++
         (if f.c.toNat = 511 then [] else x.act.map (fun l => (4096 + l, x.w.vreg l f.c.toNat)))) [n] with
        slot := k, gen := if forming then sw.gen + 1 else sw.gen, seen := if scr || f.c.toNat != 511 then t.scratch else [] }) [])) ∧
    (Issues (.mzero f) f.h s x → fifoFree x s → n < s.tiles x.wid →
      exec (.mzero f) s = .next (wentOn x s (s.pushEntry x (newEntry (.mzero f) x [] [n])) [])) ∧
    (∀ d, let r := drainOf d
      let rows := rowsAt x r.dst r.dpitch r.rowBytes
      let more := rowsAt x r.res r.rpitch r.resBytes
      let v := x.uval f.c 2
      Issues (.mdrn f) f.h s x → fifoFree x s → n < s.tiles x.wid → x.uniformFault f.a 2 = none → x.uval f.a 2 ≠ 0 →
      x.uval f.a 2 % 64 = 0 → s.uload x (x.uval f.a 2) 64 = .ok d → drainBad d f.d.toNat = false →
      (r.dk = 0 → f.d.toNat + r.regs ≤ x.w.nregs ∧ ∀ l ∈ x.act, x.w.anyPending l f.d.toNat r.regs = false) →
      (r.dk = 1 → ∀ p ∈ rows, p.va + p.n ≤ size) → (r.dk = 2 → r.dst ≠ 0 ∧ RowsReach x s rows .write pas c) →
      (r.rk = 1 → ∀ p ∈ more, p.va + p.n ≤ size) → (r.rk = 2 → r.res ≠ 0 ∧ RowsReach x s more .read pas' c) →
      let s' := s.pushEntry x { newEntry (.mdrn f) x [] [n, v % 2 ^ 32, v / 2 ^ 32 % 2 ^ 32] with
        desc := BitVec.ofNat 512 d
        dst := if r.dk = 2 then x.act.map (fun l => (l, pas l)) else []
        res := if r.rk = 2 then x.act.map (fun l => (l, pas' l)) else [] }
      exec (.mdrn f) s = .next (wentOn x s (if r.dk = 0 then
        s'.updWave x.wid (fun w => x.act.foldl (fun w l => w.markEmpty l f.d.toNat r.regs s.nextId) w)
        else if r.dk = 2 then
          s'.updCtx (asidOf x.wid) (fun c => rows.foldl (fun c a => c.markWritten (s'.ownBlock x.wid.team.grid) a.va a.n) c)
        else s') [])) ∧
    (let dim := x.uval f.c 2
      let kk := vxmK dim
      let nn := vxmN dim
      let va := x.uval f.b 2
      let ok (v : Nat) : Prop := v % 32 = 0 ∧ 32 ≤ v ∧ v ≤ 4096
      let wt := f.fn.toNat / 16
      let rows : List LaneAcc := [{ lane := x.first, va := va, n := ceilDiv (kk * nn * tyWidth wt) 8 }]
      Issues (.vxm f) f.h s x → fifoFree x s → x.uniformFault f.b 2 = none → pairs ty wt = true → ok kk → ok nn →
      va ≠ 0 → va % 256 = 0 → RowsReach x s rows .read pas c →
      exec (.vxm f) s = .next (wentOn x s ((s.pushEntry x { newEntry (.vxm f) x ((List.range kk).map (fun i =>
          (i, if x.act.contains (i % 32) then x.w.vreg (i % 32) (f.a.toNat + i / 32) else 0))) [kk, nn, va] with
        dst := [(x.first, pas x.first)] }).updWave x.wid (fun w =>
          x.act.foldl (fun w l => w.markEmpty l f.d.toNat (nn / 32) s.nextId) w)) []))

/-- The matrix engine's own steps: a staged quarter reaches the arrays and four latch a generation (R175); an offer that waits, here of
`MZERO`, is taken up when the FIFO has room (R287); the first entry of a bay starts (R176); and a started entry that waits for no
line and no conversion, and reads no bad byte, ends with its effect (R130, R177, R182 to R186, R258, R320); that it waits for those at
its completion is the model's log 93. -/
def Obligations.MatrixSteps : Prop :=
  ∀ (s : State) (core bay k : Nat),
    (∀ t q, s.teams.find? (fun t => t.core == core && !s.frozen t.id && t.staged.any (fun q => q.bay == bay && q.slot == k)) = some t →
      t.staged.find? (fun q => q.bay == bay && q.slot == k) = some q →
      let w := t.wslot k
      w.state = .filling → q.quartet = w.formQuartet → (∀ p ∈ w.filled, p.bay ≠ bay) →
      let filled := w.filled ++ [q]
      let w' := if filled.length < 4 then { w with filled := filled }
        else { w with state := .latched, gen := w.gen + 1, ty := w.formTy, latched := filled, filled := [] }
      exec (.quarterTransfer core bay k) s = .next (drained s ((s.updTeam t.id (fun t =>
        ({ t with staged := t.staged.filter (fun p => !(p.bay == bay && p.slot == k)) } : Team).setWslot k w')).slotSettle t.id k))) ∧
    (∀ f x r rest n, Resumes (.mzero f) f.h s r x → s.matrixWaiters core = r :: rest → x.w.core = core →
      s.target x f false false = some n → x.uval f.b 1 % 2 ^ 32 < s.tiles x.wid → s.fifoRoom core x.w.bay = true →
      exec (.matrixFifoAcceptance core) s =
        .next (wentOn x s ((s.dropWork r.id).pushEntry x (newEntry (.mzero f) x [] [x.uval f.b 1 % 2 ^ 32])) [])) ∧
    (∀ e, ((s.core core).fifo.filter (fun e => e.bay == bay && !s.frozen e.wave.team)).find? (fun e => !e.started) = some e →
      (∀ a ∈ (s.core core).fifo, a.bay = bay → a.started = false) → s.tileWaited e = false →
      (∀ f, e.instr = .mmac f → ∀ t, s.team? e.wave.team = some t →
        (t.wslot e.slot).gen = e.gen ∧ ((t.wslot e.slot).state = .latched ∨ (t.wslot e.slot).state = .draining)) →
      exec (.matrixEntryStart core bay) s = .next (drained s (s.updEntry core e.id (fun e => { e with started := true })))) ∧
    (∀ e t, (s.core core).fifo.find? (fun e => e.bay == bay && e.started) = some e → s.team? e.wave.team = some t →
      s.atChannel (.matrix core e.id) = false → (∀ c, s.ctx? (asidOf e.wave) = some c → s.entryWaits c e = none) →
      let tiles := s.tiles e.wave
      let ends (s' : State) (exc : BitVec 6) : Prop :=
        exec (.matrixEntryCompletion core bay) s = .next (drained s (entryOver core e exc s'))
      (∀ f, e.instr = .mmac f → mmacBad e f t = none → ends (s.updTeam t.id (fun _ => (runMmac e f tiles t).1)) (runMmac e f tiles t).2) ∧
      (∀ f, e.instr = .mzero f → ends (s.updTeam e.wave.team (runMzero e tiles)) 0) ∧
      (∀ f, e.instr = .mdrn f → ∀ s' exc, (lanesOf e.lanes).foldl (drainLane e f tiles) (s, 0, []) = (s', exc, []) → ends s' exc) ∧
      (∀ f, e.instr = .vxm f → ∀ s' exc, runVxm e f s = (s', exc, []) → ends s' exc))

/-- `MZERO` and `MMAC` in the accumulator: of the entry's tile the rows of its lanes are 0, or the sums of R182 in the exact arithmetic of
R125; no other word of the accumulators changes. -/
def Obligations.TileWords : Prop :=
  ∀ (e : Entry) (f : FmtX) (tiles bay n r c : Nat) (t : Team), r < 32 → c < 128 → n < tiles → bay < 4 →
    let here : Prop := bay = e.bay ∧ n = e.scal.headD 0 ∧ r ∈ lanesOf e.lanes
    let w := t.wslot e.slot
    let row := mmacRow (f.fn.toNat % 16) (f.fn.getLsbD 6) (rowBytesOf e f t r) (rowScales e f t r (slotK (f.fn.toNat % 16) / 32))
      (weightOf w.latched) (fun c => (t.accWord tiles bay n r c).toNat)
    e.scal.headD 0 < tiles → e.bay < 4 →
    (here → (runMzero e tiles t).accWord tiles bay n r c = 0) ∧
    (¬ here → (runMzero e tiles t).accWord tiles bay n r c = t.accWord tiles bay n r c) ∧
    (here → invalidGen w = false → (runMmac e f tiles t).1.accWord tiles bay n r c = BitVec.ofNat 32 (row.getD c (0, 0)).1) ∧
    (¬ here ∨ invalidGen w = true → (runMmac e f tiles t).1.accWord tiles bay n r c = t.accWord tiles bay n r c)

/-- `TEX` of lanes whose footprints are resident requests their samples, and of lanes that all meet a non-resident page without marks
gives the border (R142 to R144, R489); `TEXQ` and `TEXQ.READ` deliver the words of the marks, cleared or not (R145, R491); `TRACE`
requests walks (R492). The requests go to the texture and the ray unit of the core and the bay that the placement fields select (R21,
R24). A sample that the spec does not state is a free value of the model (logs 32 and 115). -/
def Obligations.TexturesAndRays : Prop :=
  ∀ (f : FmtX) (s : State) (x : Iss) (c : Ctx) (core v : Nat) (pas : Nat → List (Nat × Nat)),
    let t := textureOf v
    let reg (l : Nat) (r : RegCode) (n : Nat) : List Nat := (x.w.vregs l r.toNat n).map BitVec.toNat
    let foot (l : Nat) : List Nat := t.footprint (reg l f.a 3) (reg l f.b 8)
    let own := s.ownBlock x.wid.team.grid
    let view := s.viewOf x.wid
    let d := x.uval f.c 2
    let word (l : Nat) : Nat := x.rd l f.a 1 % 2 ^ 32
    let va (l : Nat) : Nat := t.marks + 4 * word l
    let textured : Prop := x.uniformFault f.c 2 = none ∧ d ≠ 0 ∧ d % 64 = 0 ∧ s.uload x d 64 = .ok v ∧ textureBad v = false
    let unheld : Prop := ∀ l ∈ x.act, x.seen l = []
    let y : Iss := { x with w := { x.w with core := core, bay := bayTo x f } }
    s.ctx? (asidOf x.wid) = some c → s.target x f true true = some core →
    (Issues (.tex f) f.h s x → textured → unheld → (∀ l ∈ x.act, s.footOf c own t.es [] (foot l) = .ok) →
      (∀ l ∈ x.act, ∀ a ∈ foot l, s.unreadable c own view a t.es = none) →
      exec (.tex f) s = .next (wentOn x s ({ s.requestOn core (bayTo x f) x.wid .texture f.d.toNat 8 (x.act.flatMap (fun l => (List.range 8).map (fun j =>
        { lane := l, code := f.d.toNat + j, val := BitVec.ofNat 64 ((t.sample (reg l f.a 3) (reg l f.b 8)
          (fun j => Config.freeNat (s.freeKey x.wid (s.fresh + 8 * l + j) (x.pc.toNat :: l :: j :: d :: (reg l f.a 3 ++ reg l f.b 8))))
          (fun a => t.value (ofBytes (toBytes t.es (s.viewNum c own view a t.es))))).getD j 0) : Fill }))) x.act with
        fresh := s.fresh + 256 }) [])) ∧
    (Issues (.tex f) f.h s x → textured → unheld → (∀ l ∈ x.act, s.footOf c own t.es [] (foot l) = .border) → t.marks = 0 →
      exec (.tex f) s = .next (wentOn x s { s.updWave x.wid (fun w => x.act.foldl (fun w l =>
        w.setVs l f.d.toNat (List.replicate 8 (BitVec.ofNat 32 t.border))) w) with
          nextId := s.nextId + 1, fresh := s.fresh + 256 } [])) ∧
    (Issues (.texq f) f.h s x → AtOnce x s f.d.toNat → textured → t.marks ≠ 0 → (∀ l ∈ x.lanes, 32 * word l < t.nmark) →
      Reaches y s (x.accs va 4) .write (fun c a => c.needsMcst a.va a.n) pas c → Readable s (x.accs va 4) pas →
      let r := s.rmwLanes x.wid (fun _ _ => some 0) ((x.accs va 4).map (fun a => (a, pas a.lane)))
      exec (.texq f) s = .next (wentOn x s (r.2.deliverOn core (bayTo x f) x.wid .marks f.d.toNat r.1 (s.toks core (x.accs va 4))) [])) ∧
    (Issues (.texqRead f) f.h s x → AtOnce x s f.d.toNat → textured → t.marks ≠ 0 → (∀ l ∈ x.lanes, 32 * word l < t.nmark) →
      Reaches y s (x.accs va 4) .read (fun _ _ => false) pas c → Readable s (x.accs va 4) pas →
      let r := s.rmwLanes x.wid (fun _ _ => none) ((x.accs va 4).map (fun a => (a, pas a.lane)))
      exec (.texqRead f) s = .next (wentOn x s (r.2.deliverOn core (bayTo x f) x.wid .marks f.d.toNat r.1 (s.toks core (x.accs va 4))) [])) ∧
    (Issues (.trace f) f.h s x → x.uniformFault f.b 2 = none →
      exec (.trace f) s = .next (wentOn x s (s.requestOn core (bayTo x f) x.wid (.walk (f.fn.toNat == 1) f.d.toNat (x.act.map (fun l =>
        (l, reg l f.a 8 ++ [x.uval f.b 2, if f.c.toNat = 511 then 0xFF else x.rd l f.c 1 % 256])))) f.d.toNat 8 [] x.act) []))

/-! ## The machine's own steps -/

/-- A line that stands in the instruction cache and passes R71 lets its wave go on, with the first fetch done (R68), and a slot that holds
an unassigned code point raises `ILLEGAL_OPCODE` on the issuing threads, whatever their guards (R76, R109). -/
def Obligations.FetchedLines : Prop :=
  ∀ (s s' : State) (c : Cur) (w : Wave) (line : BitVec 512) (k : Slot), s.cur = some c → s.wave? c.wid = some w →
    (pcBad c.pc.toNat = false → s.fetchLine w.core (asidOf c.wid) (c.pc.toNat / 64) = .ok line s' →
      (w.entry = false ∨ w.tlevel ≠ 0 ∨ c.pc ≠ (if w.isLead then (s.recOf c.wid).lpc else (s.recOf c.wid).kpc) ∨ (lineWord line).testBit (c.pc.toNat % 8) = true) →
      exec .lineFetch s = .next (drained s (s'.updWave c.wid (fun w => { w with firstFetch := false, entry := w.entry && w.tlevel != 0 })))) ∧
    exec (.unassignedCodePoint k) s = .next (drained s (s.raisePrecise c.wid cIllegalOpcode c.lanes (opcOf k)))

/-- The events of a wave: the fairness count moves BPC to the PC that has waited longest (R34), a join barrier that expires lets its
threads pass with the predicate set and is broken (R41), its watchdog raises a cause (R347), a move of data completes for both of its
waves (R284), a skid ends in a stop (R334), a thread whose miss resolved is ready (R44), and a cause that is pending reaches its team
(R333). The exchange of the active set, by the rules of R283 in their order: a free place takes the best ready wave of the paddock, a wave
of higher `LEVEL` replaces the oldest of the lowest, then a yielded wave, a wave blocked for 33 clocks and, at last, one that has been
active for 4,096 clocks give way. That an expiry also clears the counts and ARR and BND of the barrier is the model's log 30; that all
parked threads of the same PC become ready together is its log 20. -/
def Obligations.WaveEvents : Prop :=
  (∀ (s : State) (wid : WaveId) (w : Wave) (c : Ctx) (j l n va : Nat) (t : Team),
    let b := w.join j
    let same : Wave → List Nat := fun w => w.lanes.filter (fun k => (w.thread k).pc == (w.thread l).pc &&
      match (w.thread k).run with | .parked _ _ r => r == .resolved | _ => false)
    s.stores = [] → s.wave? wid = some w → s.ctx? (asidOf wid) = some c → s.team? wid.team = some t →
    (w.fair ≥ c.f → exec (.fairnessTimerExpiry wid) s =
      .next (drained s (s.updWave wid (fun w => { w with bpc := oldestPc w (s.readyLanes w), fair := 0 })))) ∧
    (b.expires = true → exec (.joinBarrierExpiry wid j) s = .next (drained s (s.updWave wid (fun w =>
      (w.joinGo j true).setJoin j { w.join j with arr := 0, brk := true, bnd := 0, cnt := 0, wdc := 0, young := false })))) ∧
    (b.overdue c.wd = true → exec (.watchdog wid j) s = .next (drained s
      ((s.updWave wid (fun w => w.setJoin j { w.join j with wdc := 0 })).postCause wid.team (some wid.wave) cWatchdog j b.arr))) ∧
    (∀ m, w.moves.head? = some m → ∃ u, exec (.registerMoveComplete wid) s = .next u ∧ u = { s with waves := u.waves } ∧
      ∀ k v, s.wave? k = some v → u.wave? k = some (if m ∈ v.moves then
        { v with moves := v.moves.filter (· != m), resident := v.resident || (v.active && (v.moves.filter (· != m)).isEmpty) } else v)) ∧
    (w.halt = .skid n → ∃ u v, exec (.skidStop wid) s = .next u ∧ u.wave? wid = some v ∧ v = w.stopSkid n ∧ OnlyWave s u wid) ∧
    (∀ on, s.liveWave w = true → w.halt ≠ .stopped → (w.thread l).run = .parked on va .resolved →
      exec (.parkedThreadReexecute wid l) s = .next (drained s
        ((s.updWave wid (fun v => v.updThreads (same w) (fun _ t => { t with run := .ready }))).settle wid))) ∧
    (∀ p ps k, t.halted = none → t.away = false → s.idleGrid wid.team.grid = false → t.pending = p :: ps →
      let s1 := s.updTeam wid.team (fun t => { t with pending := ps })
      s1.causeTarget wid.team p.wave = some k →
      let s2 := s1.takeTrap k p.cause true p.mask p.addr
      exec (.engineCauseDelivery wid.team) s = .next (drained s
        (if (s2.team? wid.team).any (fun t => t.halted.isNone && !t.pending.isEmpty) then s2.pushDue (.engineCauseDelivery wid.team) else s2)))) ∧
  (∀ (s : State) (core bay : Nat) (b o : Wave),
    let act := s.bayWaves core bay true
    let pad := s.paddock core bay
    let low := act.foldl (fun m w => min m w.prioUse) 256
    let swaps (i : Instr) (out : Option Wave) : Prop := exec i s = .next (drained s ((s.exchange b out).endClock core bay false))
    (s.best pad = some b → act.length < 8 → swaps (.activeSetExchange core bay) none) ∧
    (s.best pad = some b → act.length ≥ 8 → b.prioUse > low →
      s.bestBy (fun w => (w.age, 0)) (act.filter (fun w => w.prioUse == low)) = some o → swaps (.activeSetExchange core bay) (some o)) ∧
    (s.best pad = some b → act.length ≥ 8 → b.prioUse ≤ low → s.bestBy (fun w => (w.yielded, 0)) (act.filter (fun w => w.yielded != 0)) = some o →
      swaps (.activeSetExchange core bay) (some o)) ∧
    (s.best pad = some b → s.bestBy (fun w => (w.blockedFor, 0)) (act.filter (fun w => w.blockedFor ≥ 33)) = some o →
      swaps (.blockedWaveSwap core bay) (some o)) ∧
    (s.bestBy (fun w => (w.age, 0)) (act.filter (fun w => w.age ≥ 4096 && pad.any (fun p => p.prioUse == w.prioUse))) = some o →
      s.best (pad.filter (fun p => p.prioUse == o.prioUse)) = some b → swaps (.rotation core bay) (some o)))

/-- Replies fill their registers (R90, R142, R264, R444), and a walk whose every lane ends fills its eight (R154 to R157), each walk made
whole at its end with the memory of that moment (log 31); an update that is in flight is held for its grid (R266); the merge applies the
write sets and lets every waiting thread go on (R296, R297); a fill that waits takes a free frame (R244). -/
def Obligations.RepliesAndUpdates : Prop :=
  ∀ (s : State) (r : Req) (c : Ctx),
    (s.reqs.find? (fun q => q.id == r.id) = some r → s.heldReq r.id = false → s.atChannel (.request r.id) = false →
      (r.kind = .load → exec (.loadReply r.id) s = .next (answered s r)) ∧
      (r.kind = .atomic ∨ r.kind = .marks → exec (.atomicReply r.id) s = .next (answered s r)) ∧
      (r.kind = .texture → (∀ q ∈ s.waiting, q.id ≠ r.id) → exec (.texSampleComplete r.id) s = .next (answered s r))) ∧
    (∀ any d rays (words : Nat → List Nat), s.reqs.find? (fun q => q.id == r.id) = some r → r.kind = .walk any d rays → s.ctx? (asidOf r.wave) = some c →
      s.atChannel (.request r.id) = false →
      s.idleGrid r.wave.team.grid = false → (∀ h ∈ s.stalls, h.work ≠ (0, r.id)) →
      (∀ h ∈ s.heldBytes, h.work ≠ (0, r.id)) → (∀ p ∈ rays,
        walkLane (s.walkRead c r.wave.team.grid (s.viewOf r.wave) r.id []) any p.2 = .inl (words p.1)) →
      exec (.traceWalkEnd r.id) s = .next (answered s { r with fills := rays.flatMap (fun p =>
        (List.range 8).map (fun j => { lane := p.1, code := d + j, val := BitVec.ofNat 64 ((words p.1).getD j 0) })) })) ∧
    (∀ g t id u gr tm, s.updates.find? (fun u => u.2.2.1 == id) = some (g, t, id, u) → s.grid? g = some gr → s.ctx? g.asid = some c →
      s.firstUpdate id = true → s.team? t = some tm → let line := s.homeLine g u.va; cellGet 0 gr.heldLines line < 16 →
      exec (.deferredUpdateArrival id) s = .next (drained s ((((s.xfers.filter (fun x => x.sent t u)).foldl
        (fun s x => s.pushDue (.transferCompletion x.id)) ({ s with updates := s.updates.filter (fun u => u.2.2.1 != id) } : State)).updGrid g
        (fun g => { g with heldLines := cellSet 0 g.heldLines line (cellGet 0 gr.heldLines line + 1) })).updTeam t
        (fun t => { t with updates := t.updates ++ [u] })))) ∧
    (∀ g, s.idleGrid g = false → s.gridMerged g = true → (s.mergeGrid g).2 = true →
      exec (.mergePerform g) s = .next (drained s { (s.mergeGrid g).1 with
      waves := (s.mergeGrid g).1.waves.map (fun w =>
        if w.id.team.grid = g then w.updThreads w.lanes (fun _ t => t.passWait w.tlevel (· == .merge)) else w) })) ∧
    (∀ n p k prio rest f, s.ctx? c.asid = some c → c.proc? n = some p → p.waiting = (k, prio) :: rest →
      let s1 := s.updCtx c.asid (fun c => c.updProc n (fun p => { p with waiting := rest }))
      (∀ c1 p1, s1.ctx? c.asid = some c1 → c1.proc? n = some p1 → s1.freeFrame p1 = some f) →
      let s2 := s1.generate c.asid n k f prio
      (∀ c2 q, s2.ctx? c.asid = some c2 → c2.proc? n = some q → ∀ x ∈ q.waiting, x.1 ≠ k) →
      exec (.fillFrameAvailable c.asid n) s = .next (drained s (s2.pushDue (.fillFrameAvailable c.asid n))))

/-- The engines' own steps: a sector of a transfer is written, or its scatter-adds are deferred (R198, R200), a transfer all of whose
sectors are written ends with its increment (R201), a signal increments its object or decrements its slot once its wave's transfers are
gone (R402), a chunk of a collective is written when every member's part is there (R307, R308, R312), a conversion starts when every
member demands the same and ends with the new shard in place (R318 to R320), and a graph slot without work starts, a slot whose work is
done makes its decrements, and is freed after its increment (R276 to R278). The model's own: where a graph node's scatter-adds are kept
(log 41), that a node counted by slabs or chunks makes no further increment of `COMP` (log 42), that another package's part is one offer
of all its elements (log 48), the free scales of combinations (log 50), how a conversion rounds (log 51), that a block which straddles two
sectors is formed once (log 84), that a `SLAB` successor of a collective node counts chunks, where R277 and R312 disagree (log 87), the
order of a scatter (log 103), and what becomes of held accesses when a conversion ends (log 111). -/
def Obligations.EngineSteps : Prop :=
  ∀ (s s1 : State) (c : Ctx) (id k : Nat),
    (∀ t, s.xfers.find? (fun t => t.id == id) = some t → s.ctx? t.asid = some c → s.still t.asid t.issuer = false → t.idxRead = true →
      t.failed = none → (∀ h ∈ s.stalls, h.work ≠ (0, id)) → (∀ h ∈ s.heldBytes, h.work ≠ (0, id)) →
      let own := s.ownOf t.issuer
      let view := s.viewIss t.issuer
      let z := sectorOf k
      let later : Bool := t.op == 3 && decide (t.level ≥ 1)
      let rd := s.engRead c t.issuer
      let wrote (s' : State) : Prop := exec (.sectorWrite id k) s = .next (drained s ((((({ s' with nextId := s'.nextId + 1 } : State).updCore t.core
        (fun c => { c with sectors := c.sectors ++ [s'.nextId] })).updXfer id
        (fun x => { x with done := x.done ++ [z], formed := t.straddling rd z ++ x.formed })).slabIncs
        id (t.dT.size (t.dT.rank - 1) + t.sT.size (t.sT.rank - 1))).1))
      ((s.core t.core).sectors.length < 2048 → z ∉ t.done → z ∈ t.sectors →
        (later = false → s.writesBarred t.asid (0, t.id) t.order k (t.writes z) = false) →
        engJoin (s.engVia c own view .read (0, t.id) k (t.reads z)) (s.engVia c own view .write (0, t.id) k (t.writes z)) = .ok →
        (later = false → s.engWrite c t.issuer (runsOf (t.image rd z)) = .ok s1 → wrote s1) ∧
        (∀ w, later = true → t.issuer = .wave w → wrote ((s.updCtx t.asid (fun c =>
          (t.writes z).foldl (fun c a => c.markWritten own (wrapN 64 a.1) a.2) c)).sendAll w (t.defer rd z))) ∧
        (∀ q m, later = true → t.issuer = .node q m → wrote (s.updXfer id (fun x => { x with later := x.later ++ t.defer rd z })))) ∧
      (∀ w s2, (∀ x ∈ t.sectors, x ∈ t.done) → s.flying t = [] → t.later = [] → t.issuer = .wave w →
        s.slabIncs id (t.dT.size (t.dT.rank - 1) + t.sT.size (t.sT.rank - 1)) = (s1, true) →
        s1.increment t.asid t.issuer (0, id) (s1.viewIss t.issuer) (if t.slab then 0 else t.obj) 1 = .made s2 →
        exec (.transferCompletion id) s = .next (drained s
          (((({ s2 with xfers := s2.xfers.filter (fun x => x.id != id) } : State).dropBytes (0, id)).owe w.team false).pushDue (.teamRetirement w.team))))) ∧
    (∀ g, s.csigs.find? (fun g => g.id == id) = some g → s.frozen g.wave.team = false →
      (∀ k ∈ g.after, ∀ t ∈ s.xfers, t.id ≠ k) → (∀ r ∈ s.waiting, r.wave = g.wave → r.id < id → r.nums.length < 4) →
      let ended := (({ s1 with csigs := s1.csigs.filter (fun g => g.id != id) } : State).owe g.wave.team false).pushDue
        (.teamRetirement g.wave.team)
      (g.slot = none → s.increment (asidOf g.wave) (.wave g.wave) (0, id) (s.viewOf g.wave) g.obj g.value.toNat = .made s1 →
        exec (.csigEffect id) s = .next (drained s ended)) ∧
      (∀ q, g.slot = some q → s.decNode g.core q (asidOf g.wave) = (true, s1) →
        exec (.csigEffect id) s = .next (drained s (ended.launchDue g.core)))) ∧
    (∀ o (part : Nat → Peer), s.colls.find? (fun o => o.id == id) = some o → s.ctx? o.asid = some c → s.still o.asid o.issuer = false →
      (∀ h ∈ s.stalls, h.work ≠ (0, o.id)) → (∀ h ∈ s.heldBytes, h.work ≠ (0, o.id)) →
      let b := cblockOf o.block.toNat
      let d := tensorOf o.dst.toNat
      let sT := tensorOf o.src.toNat
      let me := field c.drank 11 0
      let pos := (b.posOf me).getD 0
      let ixs := chunkIx d k
      let own := s.ownOf o.issuer
      let view := s.viewIss o.issuer
      let wr := elemWrites d ixs ++ (if b.op = 4 then ixs.map (fun ix => (((d.idxp + 8 * ix.headD 0 : Nat) : Int), 8)) else [])
      k ∉ o.done → k < chunkCount d → (∀ i < b.count, b.rank i ≠ me → s.reachesFrom c o.die (b.rank i) = true ∧
        s.peers.find? (fun p => p.asid == o.asid && p.kind == 0 && p.number == o.id && p.rank == b.rank i) = some (part (b.rank i)) ∧
        (part (b.rank i)).words.headD 0 = o.block.toNat / 2 ^ 128) →
      s.writesBarred o.asid (0, o.id) o.order k wr = false →
      engJoin (s.engVia c own view .read (0, o.id) k (elemReads sT
        (b.op != 1 && b.op != 2 && b.op != 4 && sT.fmt == d.fmt && d.layout == 3) (ixs.flatMap (collNeeds b sT d pos)))) (s.engVia c own view .write (0, o.id) k wr) = .ok →
      let runs := runsOf (collImage o s.fresh (s.engRead c o.issuer) (fun i ix =>
        if b.rank i = me then srcElem sT (s.engRead c o.issuer) (.inside ix)
        else match s.peers.find? (fun p => p.asid == o.asid && p.kind == 0 && p.number == o.id && p.rank == b.rank i) with
          | some p => peerElem sT p.data (rowIndex sT.sizes ix)
          | none => (.fin false 0, 0, none)) pos k)
      s.engWrite c o.issuer runs = .ok s1 →
      let s2 := runs.foldl (fun s r => s.mirror o.issuer r.1 r.2.length) s1
      exec (.collectiveChunk id k) s = .next (drained s
        ((({ s2.dropPart (0, o.id) k with fresh := s2.fresh + 2 ^ 64 } : State).updColl id (fun o => { o with done := o.done ++ [k] })).collIncs id (chunkCount d + 1)))) ∧
    (∀ m, s.ctx? id = some c → c.demands.find? (fun m => m.idx == k && !m.ended) = some m → m.started = false → c.stopped = false →
      let e := pentryOf (c.entry k)
      (∀ r ∈ e.ranks, r ≠ field c.drank 11 0 → s.reaches c r = true ∧ ∃ p, s.offer id m r = some p ∧ p.words.drop 1 = m.target) →
      (∀ a < 3, convListed (e.st.getD a 0) (m.target.getD a 0) = true) →
      exec (.conversionStart id k) s = .next (drained s (s.updCtx id (fun c => { c with demands := c.demands.map (fun q =>
        if q.idx = m.idx ∧ q.number = m.number then { q with started := true } else q) })))) ∧
    (∀ m sd, s.ctx? id = some c → c.asid = id → c.demands.find? (fun m => m.idx == k && (m.started || m.ended)) = some m →
      c.shards.find? (fun p => p.1 == k) = some (k, sd) → c.stopped = false → m.ended = false → (∀ h ∈ s.stalls, h.work ≠ (id + 1, k)) →
      let eo := pentryOf (c.entry k)
      let en := eo.withStates m.target
      let old := tensorOf sd.toNat
      let new := tensorOf m.dst.toNat
      let iss : Issuer := match m.objs with | o :: _ => o.1 | [] => .node 0 0
      let own := s.ownOf iss
      let view := s.viewIss iss
      let free : Ctx := { c with place := cellErase c.place k, shards := c.shards.filter (fun p => p.1 != k) }
      let rd (a : Int) (n : Nat) : Nat := s.viewNum free own view (wrapN 64 a) n
      engJoin (s.engAll free own view .read (elemReads old (new.layout == 3) (rowOrder old.sizes)))
        (s.engAll free own view .write (elemWrites new (rowOrder new.sizes))) = .ok →
      (∀ a ∈ elemWrites new (rowOrder new.sizes), s.ownedBefore (id + 1, k) m.order id (wrapN 64 a.1) a.2 = false) →
      (∀ r ∈ s.waiting, r.freed = true → asidOf r.wave ≠ id) → s.releases.any (fun o => o.asid == id && overlap old.range (o.lo, o.hi)) = false →
      let image := runsOf (imageOf new old rd (tailCode old rd (· == field c.drank 11 0) s.fresh) (fun _ _ => true)
        ((rowOrder new.sizes).map (convElem s c m eo en old rd (Config.freeNat s.fresh))))
      s.engWrite free iss image = .ok s1 →
      let s2 := image.foldl (fun s r => s.mirror iss r.1 r.2.length) s1
      let more := c.demands.any (fun q => q.idx == k && q.number != m.number && !q.ended)
      let s3 := ({ s2 with fresh := s2.fresh + 2 ^ 64 } : State).updCtx id (fun c =>
        { (c.setEntry k (newEntryWord (c.entry k) m more) m.dst) with
          demands := c.demands.map (fun q => if q.idx = m.idx ∧ q.number = m.number then { q with ended := true } else q) })
      exec (.conversionEnd id k) s = .next (drained s (((match s3.ctx? id with
        | some c' => s3.releaseAll c' k old en (newPlace eo en old new (field c'.drank 11 0))
        | none => s3).runHeld id).convIncs id m m.objs))) ∧
    (let n := s.node id k;
      n.asid = some c.asid → s.ctx? c.asid = some c → c.killed = false →
      (n.state = 4 → nodeKind n.desc = 4 → (∀ h ∈ s.stalls, h.work ≠ nodeWorkName id k) → (∀ h ∈ s.heldBytes, h.work ≠ nodeWorkName id k) →
        exec (.graphWorkCompletion id k) s = .next (drained s
        ((s.setNode id k { n with state := 2, slab := false }).pushDue (.graphWorkCompletion id k)))) ∧
      (n.state = 2 → s.nodeBusy id k = false → exec (.graphWorkCompletion id k) s = .next (drained s
        (((s.setNode id k { n with state := 3 }).decNodes id c.asid (succSlots n.desc (fun slab => !(slab && n.slab)))).finishNode id k c.asid))) ∧
      (n.state = 3 → s.increment c.asid (.node id k) (nodeCompName id k) none (if n.slab then 0 else nodeComp n.desc) 1 = .made s1 →
        exec (.graphWorkCompletion id k) s = .next (drained s (s1.setNode id k NodeSlot.free))))

/-- A waiting team of a grid that fits takes its place (R279, R280). A team whose waves have all ended and that owes nothing retires, its
places free (R30), and a grid whose teams and children have retired ends: its command completes, with `STATUS` 0 also where a team of it
faulted (log 58), its parent's object is incremented, its node ends (R30, R271, R441). -/
def Obligations.TeamsAndGrids : Prop :=
  ∀ (s s1 : State),
    (∀ g n, pickSeat s.seats = some (.next g n) → s.placeGrid g n = some s1 →
      exec .teamPlacement s = .next (drained s (s1.pushDue .teamPlacement))) ∧
    (∀ tid t, s.team? tid = some t → t.away = false → s.idleGrid tid.grid = false → s.teamDone t = true → t.ended = false → t.pending = [] →
      let s0 := if t.red then s.keepSaver tid else s
      exec (.teamRetirement tid) s = .next (drained s ((((({ (s0.updGrid tid.grid (fun g => { g with
          retired := g.retired ++ [(tid.team, tid.copy)]
          left := if g.level = 0 then g.left else g.left ++
            [{ team := t.id.team, copy := t.id.copy, bytes := t.wset, reps := t.wrep, updates := t.updates }] })).dropReqs
          (fun x => x.wave.team == tid) with
        teams := s.teams.filter (fun x => x.id != tid)
        waves := s0.waves.filter (fun x => x.id.team != tid)
        waiting := s.waiting.filter (fun x => x.wave.team != tid) } : State).mergeDue tid.grid).pushDue (.gridRetirement tid.grid)).pushDue
        .teamPlacement)))) ∧
    (∀ gid g g', s.grid? gid = some g → s.idleGrid gid = false → s.gridDone g = true → (s.mergeGrid gid).2 = true →
      let m := (s.mergeGrid gid).1
      m.grid? gid = some g' →
      let gone (s : State) : State := { s with grids := s.grids.filter (fun x => x.id != g'.id), due := s.due ++ [.teamPlacement] }
      (∀ q tag, g'.origin = .host q tag → exec (.gridRetirement gid) s = .next (drained s ((gone m).finishCmd g'.id.asid q 0 0))) ∧
      (∀ p w obj, g'.origin = .child p w obj →
        m.increment g'.id.asid (.wave w) (gridWork g'.id) (if (m.team? w.team).isSome then m.viewOf w else none) obj 1 = .made s1 →
        exec (.gridRetirement gid) s = .next (drained s ((gone (s1.mirror (.wave w) obj 8)).pushDue (.gridRetirement p)))) ∧
      (∀ core slot, g'.origin = .graph core slot → g'.faulted = false →
        exec (.gridRetirement gid) s = .next (drained s ((gone m).pushDue (.graphWorkCompletion core slot)))))

/-- The events of the package: a grant serves the request of the class that R216 chooses and counts a missed deadline (R217), lanes are
lent and called back (R218), a row is refreshed when its counter reaches the threshold or fails its check (R221), an uncorrectable line
kills its context and is retired (R223), a lost port ends what needs it (R306), a read or write of another package is performed or refused
(R304), boot (R370), the power limit and the clock steps (R373, R374), shutdown (R374), the acknowledgement of a unit that has stopped
(R349), and the end of a `WAIT` (R271). The model's own: that a request of another package waits while an engine owns its lines, or behind
an earlier one of its port (log 110), when a row's refresh is due (log 66), when lanes are lent and called back (log 67), which classes
count as waiting (log 68), a limit above 4,000 W and the step where none fits (log 69), and the operation codes and the answers of the
link (log 71). -/
def Obligations.PackageEvents : Prop :=
  ∀ (s : State) (k n : Nat) (c : Ctx),
    let h := s.chan k
    (∀ cls r, h.lent = false → h.grantClass = some cls →
      leastDeadline ((eligibleFrom [] h.waiting).filter (fun r => r.cls == cls)) = some r →
      let rest := h.waiting.erase r
      let next (d : Nat) : Nat := if d = cls then 0 else if rest.any (fun x => x.cls == d) then h.passOf d + 1 else 0
      let s1 := s.updChan k (fun h => { h with waiting := rest, pass := [next 1, next 2, next 3] })
      exec (.channelGrant k) s = .next (drained s (if r.slack ≠ 0 ∧ h.clock > r.arrival + r.slack then s1.chargeMiss r else s1))) ∧
    ((s.chan (2 * k)).reclaiming = true →
      exec (.laneReclaim k) s = .next (drained s (s.updPair k (fun h => { h with lent := false, reclaiming := false, shake := 0 })))) ∧
    (2 * k < chanCount → (s.chan (2 * (k ^^^ 1))).lent = false → (s.chan (2 * k)).waiting = [] → (s.chan (2 * k + 1)).waiting = [] →
      exec (.dataLaneLending k) s = .next (drained s (s.updPair k (fun h => { h with lent := true })))) ∧
    (∀ row, rowThere row = true → (exec (.rowActivationRefresh row true) s = .next (drained s { s with
      rowCtr := s.rowCtr.filter (fun p => p.1 != row)
      errLog := s.errLog ++ [⟨4, 3, row.stack, row.channel, 0, 1⟩, ⟨5, 3, row.stack, row.channel, 0, 1⟩] }) ∧
      (s.rowCount row ≥ s.record.threshold → exec (.rowActivationRefresh row false) s = .next (drained s { s with
        rowCtr := s.rowCtr.filter (fun p => p.1 != row)
        errLog := s.errLog ++ [⟨5, 3, row.stack, row.channel, 0, 1⟩] })))) ∧
    (let x := (s.killFor n cMachineCheck).logBad k;
      exec (.dirtyLineWriteBack k n false) s = .next (drained s s) ∧
      exec (.dirtyLineWriteBack k n true) s = .next (drained s { x with
        retired := if k / 64 ∈ x.retired then x.retired else x.retired ++ [k / 64]
        errLog := x.errLog ++ [⟨3, 3, (homeOf k).stack, (homeOf k).channel, k / 64 * 64, 1⟩] })) ∧
    (let x := cellGet Port.start s.ports k;
      k < 6 → exec (.portLinkLoss k) s = .next (drained s (s.ctxs.foldl (fun s c => s.endUnreached c.asid)
        { s with ports := cellSet Port.start s.ports k { x with up := false, losses := x.losses + 1 } }))) ∧
    (∀ r, r.port < 6 → (cellGet Port.start s.ports r.port).up = true → s.ualLate s.ualIn r = true →
      exec (.ualinkRequest r) s = .next (drained s { s with ualIn := s.ualIn ++ [r] })) ∧
    (∀ r, r.port < 6 → (cellGet Port.start s.ports r.port).up = true → s.ualLate s.ualIn r = false →
      (ualOk r s = false → exec (.ualinkRequest r) s = .next (drained s (s.ualError r))) ∧
      (ualOk r s = true → r.kind = .read → s.badByte r.addr r.len = none →
        exec (.ualinkRequest r) s = .next (drained s (s.ualAnswer r (s.bytesAt r.addr r.len)))) ∧
      (ualOk r s = true → r.kind = .write → s.partialRetired r.addr r.len = none →
        exec (.ualinkRequest r) s = .next (drained s ((s.storeBytes r.addr r.data).ualAnswer r []))) ∧
      (∀ op signed, ualOk r s = true → r.kind = .atomic op signed → s.badByte r.addr r.len = none →
        let old := s.numAt r.addr r.len
        let v := ofBytes (r.data.take r.len)
        exec (.ualinkRequest r) s = .next (drained s ((s.storeBytes r.addr (toBytes r.len
          (if op = 9 then (if old = ofBytes (r.data.drop r.len) then v else old) else atomNew op signed (8 * r.len) old v))).ualAnswer r
          (toBytes r.len old))))) ∧
    (s.booted = false → (Config.recordVerifies = true → exec .boot s = .next (drained s { s with
        booted := true, record := bootRecord, assignment := assignCores (Config.recordCores Config.record) })) ∧
      (Config.recordVerifies = false → exec .boot s = .next (drained s { s with
        booted := true, recovery := true, record := { BootRecord.none with digest := Config.recordDigest } }))) ∧
    exec (.powerLimitSet n) s = .next (drained s { s with powerLimit := min n 4000000 }) ∧
    (∀ measured, exec (.clockStepChange measured) s = .next (drained s { s with
      clockStep := ((List.range 8).find? (fun k => measured.getD k 0 < s.powerLimit)).getD 7 })) ∧
    (n ≥ 105 → exec (.thermalStepDown n) s = .next (drained s { s with clockStep := min 7 (s.clockStep + 1) })) ∧
    (n ≥ 115 → exec (.thermalShutdown n) s =
      .next (drained s { s.ctxs.foldl (fun s c => s.killFor c.asid cMachineCheck) s with shutdown := true })) ∧
    (∀ u, s.ctx? n = some c → c.stopped = true → u ∈ c.acks → s.hasStopped n u = true →
      let rest := c.acks.filter (· != u)
      let s1 := s.updCtx n (fun c => { c with acks := rest })
      exec (.preemptAcknowledgement n u) s = .next (drained s (if rest = [] then s1.stopDone n else s1))) ∧
    (∀ q cmd v, s.ctx? n = some c → c.runs q = some cmd → cmd.h.cmd = 0x08 → c.stopped = false → (∀ h ∈ s.stalls, h.work ≠ cmdWork n (hq cmd.h)) → c.asid = n →
      s.workRead c (cmdWork n (hq cmd.h)) (bodyWord cmd.body 0) 8 = (.ok, v) → v ≥ bodyWord cmd.body 1 →
      exec (.waitCompletion n q) s = .next (drained s (s.endCmd cmd.h 0 0)))

/-! ## Host commands -/

/-- A command that runs in a queue ends with its completion record, runs no longer, and its queue has counted it (R271, R356); a command
whose queue is busy waits at the queue's end, and one of a killed context completes with `STATUS` 3, shown for `SIGNAL` (R271, R346). The
commands of a context's queues that start or order work: `SET_DLEVEL` (R290), `SIGNAL` and `WAIT` (R271, R359), `LAUNCH` (R29, R369),
`GRAPH_NODE` (R276), `PLACEMENT_SET` (R315), `TRIGGER` (R166 to R168), `EXPERT_SET` (R321, R363), `PROC_RANGE` (R239, R243) and a stopping
`PREEMPT` (R348, R349), each on a body that its rules accept. -/
def Obligations.QueuedCommands : Prop :=
  (∀ (h : CmdHeader) (b : List DWord) (s : State) (c : Ctx) (k : Cmd) (status value : Nat), s.ctx? (ha h) = some c →
    (c.running.find? (fun p => p.1 == hq h) = some (hq h, k) → k.h = h → s.endCmd h status value = cmdOver h status value s) ∧
    (s.shutdown = false → s.recovery = false → hq h < c.nq → c.killed = false → c.runs (hq h) = some k → k.h ≠ h →
      exec (.signal h b) s = .next (drained s (s.updCtx c.asid (fun c => c.enqueue (hq h) { h := h, body := b, step := 0 })))) ∧
    (s.shutdown = false → s.recovery = false → hq h < c.nq → c.killed = true → h.cmd.toNat ≠ 0x10 →
      exec (.signal h b) s = .next (drained s (cmdDone h (ha h) 3 0 (s.countDone c.asid (hq h)))))) ∧
  (∀ (h : CmdHeader) (b : List DWord) (s s1 s2 s3 : State) (c : Ctx) (d : Nat), Starts h b s c →
    let s0 := started h b s c
    let w := bodyWord b
    let ends (i : Instr) (s' : State) : Prop := exec i s = .next (drained s (s'.endCmd h 0 0))
    let reads (va n : Nat) : Prop := s0.workRead c (cmdWork c.asid (hq h)) va n = (.ok, d) ∧ ∀ x ∈ s.stalls, x.work ≠ cmdWork c.asid (hq h)
    let behalf (s : State) (va : Nat) (add : Bool) (bs : List Byte) : Behalf :=
      s.behalf c.asid (.node 0 0) (cmdWork c.asid (hq h)) none va add bs
    (strayBody b [[(1, 0)]] = false →
      ends (.setDlevel h b) (s0.updCtx c.asid (fun c => { c with qlevel := cellSet 0 c.qlevel (hq h) (w 0) }))) ∧
    (strayBody b [[(55, 3)]] = false → behalf s0 (w 0) true (toBytes 8 1) = .made s1 → ends (.signal h b) s1) ∧
    (strayBody b [[(55, 3)], [(63, 0)]] = false →
      exec (.wait h b) s = .next (drained s (s0.pushDue (.waitCompletion c.asid (hq h))))) ∧
    (let l := parseRec (bodyNum b 0 16)
      let level := if l.dlvl = 7 then cellGet 0 c.qlevel (hq h) else l.dlvl
      (∀ g ∈ s.grids, g.id.asid = c.asid → ∀ q t, g.origin = .host q t → q ≠ hq h) → recRefused (bodyNum b 0 16) level true = false →
      exec (.launchCommand h b) s =
        .next (drained s ((s0.newGrid c.asid l (.host (hq h) h.tag.toNat) 1 l.prio level).2.pushDue .teamPlacement))) ∧
    (strayBody b [[(55, 6)], [(5, 0), (15, 8)]] = false → nfield (w 1) 5 0 < 48 → reads (w 0) 64 →
      s0.enterNode (nfield (w 1) 5 0) (nfield (w 1) 15 8) c.asid (BitVec.ofNat 512 d) = some s1 → ends (.graphNode h b) s1) ∧
    (let e := BitVec.ofNat 512 (bodyNum b 4 8)
      let va := (pentryOf e).shard
      strayBody b ([[(11, 0)], [], [], []] ++ List.replicate 8 [(63, 0)]) = false → va ≠ 0 → va % 64 = 0 →
      (pentryOf (c.entry (w 0))).conv = false → imageRefused c e = false → reads va 64 → shardRefused c (w 0) e (BitVec.ofNat 512 d) = false →
      (tensorOf (BitVec.ofNat 512 d).toNat).base ≠ 0 →
      ends (.placementSet h b) (s0.updCtx c.asid (fun c => c.setEntry (w 0) e (BitVec.ofNat 512 d)))) ∧
    (let k := c.trigN + 1
      let slot := c.ring + 32 * ((k - 1) % 2 ^ c.ringN)
      strayBody b [[(15, 0)], [(63, 0)], [(47, 0)], [(31, 0)], [(55, 3)]] = false → c.ringN ≠ 0 → w 3 < 10 ^ 9 →
      behalf ((s0.updCtx c.asid (fun c => { c with trigN := k })).setStep c.asid (hq h) (2 * k)) (slot + 4) false
        (toBytes 28 (triggerFields b)) = .made s1 →
      behalf s1 slot false (toBytes 4 (k % 2 ^ 32)) = .made s2 →
      behalf (s2.setStep c.asid (hq h) (2 * k + 1)) (w 4) true (toBytes 8 1) = .made s3 → ends (.trigger h b) s3) ∧
    (let e := expertOf b
      let recs := (List.range e.nexp).map (fun i => nfield d (1024 * i + 1023) (1024 * i))
      s0.expertRefused c b = false → reads (w 7) (128 * e.nexp) → (∀ r ∈ recs, expertRecBad r = false) →
      ends (.expertSetCreate h b) (s0.updCtx c.asid (fun c => { c with experts := some { e with recs := recs.map parseRec } }))) ∧
    (strayBody b [[(1, 0)]] = false → (∀ e, c.experts = some e → e.busy = false) →
      ends (.expertSetDelete h b) (s0.updCtx c.asid (fun c => { c with experts := none }))) ∧
    (s0.procRefused c b = false → ends (.procRangeRegister h b)
      (s0.updCtx c.asid (fun c => { c with procs := c.procs ++ [(nfield (w 0) 13 8, procOf b)] }))) ∧
    (let r := nfield (w 0) 13 8
      let named (k : Nat) : Bool := w 5 ≤ k && k < w 5 + w 6
      ∀ p, c.proc? r = some p →
        (strayBody b [[(1, 0), (13, 8)], [], [], [], [], [(31, 0)], [(31, 0)]] = false → w 6 ≠ 0 → w 5 + w 6 ≤ p.nblk →
          (∀ q ∈ p.blocks, named q.1 = true → s0.blockBusy c.asid r q.1 q.2 = false) →
          exec (.procRangeReset h b) s = .next (drained s (((s0.updCtx c.asid (fun c => c.updProc r (fun p =>
            { p with blocks := p.blocks.filter (fun q => !named q.1) }))).endCmd h 0 0).pushDue (.fillFrameAvailable c.asid r)))) ∧
        (strayBody b [[(1, 0), (13, 8)]] = false → (∀ q ∈ p.blocks, s0.blockBusy c.asid r q.1 q.2 = false) →
          ends (.procRangeDeregister h b) (s0.updCtx c.asid (fun c => { c with procs := c.procs.filter (fun q => q.1 != r) })))) ∧
    (let units := s0.unitsOf c.asid
      let stop := (s0.saveTeams c.asid).updCtx c.asid (fun c => { c with stopped := true, acks := units })
      strayBody b [[(0, 0)]] = false →
      (c.stopped = false → units ≠ [] → exec (.preemptStop h b) s = .next (drained s stop)) ∧
      (c.stopped = false → units = [] → exec (.preemptStop h b) s = .next (drained s (stop.stopDone c.asid))) ∧
      (c.stopped = true → c.acks = [] → ends (.preemptStop h b) s0)))

/-- `MAP` and `UNMAP` write their entries in the table that the walk reaches, and let the requesters held on the range go on (R235, R236,
R360), for a `MAP` of a table page too (log 60); `RETENTION` moves a layer's bytes to its tier address and back, with a capacity record
(R219, R220), which carries the ASID of the command's context (log 63). -/
def Obligations.MemoryCommands : Prop :=
  ∀ (h : CmdHeader) (b : List DWord) (s : State) (c : Ctx) (table : Nat), Starts h b s c →
    let s0 := started h b s c
    let w := bodyWord b
    let o : PteOp := { level := w 3 % 4, va := w 0, count := w 2, table := table }
    let found : Prop := w 0 % 2 ^ pageBits o.level = 0 ∧ 1 ≤ w 2 ∧ w 0 / 2 ^ pageBits o.level % 1024 + w 2 ≤ 1024 ∧
      s0.tableFor (w 0) o.level 0 c.ptroot.toNat = .at table ∧
      ∀ a ∈ o.addrs, s0.backed a = true ∧ s0.badByte a 8 = none ∧ s0.partialRetired a 8 = none
    let leaf := (w 3).testBit 2
    let size := if leaf then 2 ^ pageBits o.level else 8192
    let apart (r : Nat × Nat) : Prop := overlaps o.va o.size r.1 r.2 = false
    let k := retLayer b
    let pa := k * layerBytes
    (strayBody b [[(55, 16)], [(51, 13)], [(31, 0)], [(4, 0)]] = false → found → (leaf = true → o.level ≠ 0 ∧ w 1 % size = 0) →
      (leaf = false → o.level ≠ 3) → (∀ a ∈ o.addrs, ∃ r, s0.pteAt o.level a = .invalid r) →
      (inDevice (w 1) (o.count * size) = true ∨ leaf = true ∧ 2 ^ 50 ≤ w 1 ∧ w 1 + o.count * size ≤ 2 ^ 51) →
      s0.touchesRemoved (w 1) (o.count * size) = false → apart (c.heapBase.toNat, c.heapLimit.toNat) →
      apart (c.spillVa, c.spillSz * 2 ^ 16) → (∀ p ∈ c.procs, apart p.2.vaRange) →
      exec (.map h b) s = .next (drained s ((((List.range o.count).foldl (fun s i =>
        s.storeBytes (o.addr i) (toBytes 8 (w 1 + i * size + w 3 / 8 % 4 * 4 + (if leaf then 3 else 1))))
        (if leaf then s0 else s0.zeroRange (w 1) (o.count * size))).endCmd h 0 o.count).pagesEnd c.asid o.va o.size .resolved))) ∧
    (let rpl := (w 3).testBit 5
      let out := o.addrs.foldl (fun s a => s.storeBytes a (toBytes 8 (if rpl then 16 else 0))) s0
      let gone := ({ out with tlb := out.tlb.filter (fun e => !(e.asid == c.asid && e.level ≥ o.level &&
        overlaps o.va o.size (e.va / 2 ^ pageBits e.level * 2 ^ pageBits e.level) (2 ^ pageBits e.level))) } : State).endCmd h 0 0
      strayBody b [[(55, 16)], [], [(31, 0)], [(1, 0), (5, 5)]] = false → found → (∀ a ∈ o.addrs, s0.pteAt o.level a ≠ .invalid false) →
      s0.inFlight c.asid o.va o.size
        ((List.range o.count).flatMap (fun i => s0.leavesOf o.level (o.addr i) (o.va + i * 2 ^ pageBits o.level))) = false →
      exec (.unmap h b) s = .next (drained s (if rpl then gone else gone.pagesEnd c.asid o.va o.size (.failed cTranslation)))) ∧
    (retBad b = false → (∀ l ∈ s.layers, l.layer ≠ k) → s0.rangeUsed pa layerBytes = false → s0.anyBad pa layerBytes = false →
      let out := s0.copyRange pa (retTier b) layerBytes
      exec (.retentionRemove h b) s = .next (drained s (({ out with
        layers := s.layers ++ [{ layer := k, tier := retTier b }]
        capSeq := s.capSeq + 1
        records := s.records ++ [capacityRecord c.asid (retTier b) pa k 1 (s.capSeq + 1)] } : State).endCmd h 0 0))) ∧
    (retBad b = false → { layer := k, tier := retTier b } ∈ s.layers → s0.anyBad (retTier b) layerBytes = false →
      let out := s0.copyRange (retTier b) pa layerBytes
      exec (.retentionRestore h b) s = .next (drained s (({ out with
        layers := s.layers.filter (fun l => l.layer != k)
        capSeq := s.capSeq + 1
        records := s.records ++ [capacityRecord c.asid (retTier b) pa k 2 (s.capSeq + 1)] } : State).endCmd h 0 0)))

/-- The control commands and the queries: `CTX_CREATE` (R358), `CTX_DESTROY` (R514), a resuming `PREEMPT` (R352, R359), the replies of
`QUERY` and `ATTEST` (R366 to R368, R372), and a message refused on its header (R356). What boot measured and how a quote is signed stand
in Config (log 9). -/
def Obligations.ControlCommands : Prop :=
  ∀ (h : CmdHeader) (b : List DWord) (s : State) (c : Ctx) (asid v : Nat) (ranks : List Nat),
    let w := bodyWord b
    let s0 := started h b s c
    let reply (i : Instr) (bytes : List Byte) : Prop := exec i s = .next (drained s (cmdDone h 0 0 0 (s.reply48 h 0 bytes)))
    let answer (i : Instr) (bytes : List Byte) : Prop :=
      exec i s = .next (drained s ((s0.reply48 h (ha h) bytes).endCmd h 0 0))
    let fresh := newCtx asid b
    (s.recovery = false → s.freeAsid = some asid → s.ctxRefused b = false →
      s.rankTable fresh (w 19) (field fresh.drank 27 16 + 1) = some ranks →
      exec (.ctxCreate h b) s = .next (drained s (cmdDone h asid 0 asid { s with ctxs := s.ctxs ++ [{ fresh with ranks := ranks }] }))) ∧
    (s.recovery = false → s.ctx? (ha h) = some c →
      let stop := (s.stopContext c.asid).finishKilled c.asid
      let ended := c.queued.foldl (fun s p => p.2.foldl (fun s k => cmdDone k.h c.asid 3 0 s) s) stop
      exec (.ctxDestroy h b) s = .next (drained s (cmdDone h c.asid 0 0 (ended.releaseCtx c.asid)))) ∧
    (s.recovery = false → s.ctx? (ha h) = some c → c.killed = false → c.stopped = true → c.acks = [] → strayBody b [[(0, 0)]] = false →
      exec (.preemptResume h b) s = .next (drained s ((((s.grids.filter (fun g => g.id.asid == c.asid)).foldl (fun s g =>
        (s.pushDue (.mergePerform g.id)).pushDue (.gridRetirement g.id))
        (cmdDone h c.asid 0 0 ((s.retake c.asid (fun i => match i with | .node _ _ => true | .wave _ => false) (fun m => !m.ended)).updCtx c.asid
          (fun c => { c with stopped := false })))).pushDue .teamPlacement).retryHeld c.asid))) ∧
    (h.pkg = true →
      (queryBad 0 [] b = false → reply (.queryIdentity h b) (toBytes 4 Config.romVersion ++ [BitVec.ofNat 8 s.clockStep,
        if s.recovery then 1 else 0] ++ List.replicate 26 0 ++ sized 32 s.record.digest ++ sized 1312 Config.publicKey)) ∧
      (queryBad 1 [(63, 0)] b = false → reply (.queryErrorLog h b)
        (toBytes 8 s.errLog.length ++ ((s.errLog.drop (w 1)).take 128).flatMap LogEntry.bytes)) ∧
      (queryBad 2 [] b = false →
        reply (.queryCoreAssignment h b) ((List.range 48).map (fun i => BitVec.ofNat 8 (s.assignment.getD i 0)))) ∧
      (queryBad 5 [] b = false → reply (.queryLinkLog h b) ((List.range 6).flatMap (fun p =>
        toBytes 8 (cellGet Port.start s.ports p).errs ++ toBytes 8 (cellGet Port.start s.ports p).losses))) ∧
      reply (.attest h b) (quote b s.record.digest s.recovery)) ∧
    (h.pkg = false → Starts h b s c →
      (∀ p, queryBad 3 [(5, 0), (63, 32)] b = false → c.proc? (nfield (w 1) 5 0) = some p →
        let nibble (k : Nat) : Nat := if k < p.nblk then s0.blockNibble c.asid (nfield (w 1) 5 0) k p else 0
        let first := nfield (w 1) 63 32
        answer (.queryBlockStates h b)
          ((List.range 4096).map (fun i => BitVec.ofNat 8 (nibble (first + 2 * i) + 16 * nibble (first + 2 * i + 1))))) ∧
      (queryBad 4 [] b = false → answer (.queryGraphLog h b) ((List.range 48).flatMap (fun k => toBytes 8 (cellGet 0 c.graphLog k)))) ∧
      (queryBad 6 [] b = false → (∀ x ∈ s.stalls, x.work ≠ cmdWork c.asid (hq h)) → s0.workRead c (cmdWork c.asid (hq h)) c.statusVa 64 = (.ok, v) → answer (.queryContextSummary h b)
        (toBytes 64 v ++ (List.range 16).flatMap (fun q => toBytes 8 (cellGet 0 c.qdone q)) ++ toBytes 8 (if c.stopped then 1 else 0)))) ∧
    (s.shutdown = false →
      exec (.unknownCmdMessage h) s = .next (drained s (cmdDone h (if h.cmd = 1 then 0 else ha h) 1 0 s)))
end

