-- ==== Sys2Proof/Laws/Cells.lean ====
section
/-!
SUPPORT. Sparse data by key: what a read gives after a write, and that writes keep the canonical form.
-/
namespace Sys2Proof.Machine

variable {α : Type}

theorem cellGet_erase_same (d : α) (l : List (Nat × α)) (x : Nat) : cellGet d (cellErase l x) x = d := by
  induction l with
  | nil => rfl
  | cons p t ih =>
    obtain ⟨k, v⟩ := p
    by_cases h : k = x
    · simpa [cellErase, h] using ih
    · simpa [cellErase, h, cellGet] using ih

theorem cellGet_erase_ne (d : α) (l : List (Nat × α)) {x y : Nat} (h : x ≠ y) :
    cellGet d (cellErase l x) y = cellGet d l y := by
  induction l with
  | nil => rfl
  | cons p t ih =>
    obtain ⟨k, v⟩ := p
    by_cases hk : k = x
    · have hy : k ≠ y := by omega
      simpa [cellErase, hk, cellGet, h] using ih
    · simp only [cellErase, cellGet] at ih ⊢
      simp [hk, cellGet, ih]

theorem cellGet_insert (d v : α) (l : List (Nat × α)) (x y : Nat) :
    (∀ p ∈ l, p.1 ≠ x) → cellGet d (cellInsert x v l) y = if x = y then v else cellGet d l y := by
  induction l with
  | nil => intro _; rfl
  | cons p t ih =>
    obtain ⟨k, u⟩ := p
    intro hx
    have hk : k ≠ x := hx (k, u) (by simp)
    have ih := ih (fun p hp => hx p (by simp [hp]))
    by_cases hlt : x < k
    · simp [cellInsert, hlt, cellGet]
    · simp only [cellInsert, hlt, if_false, cellGet, ih]
      by_cases hky : k = y
      · have : x ≠ y := by omega
        simp [hky, this]
      · simp [hky]

theorem erase_no_key (l : List (Nat × α)) (x : Nat) : ∀ p ∈ cellErase l x, p.1 ≠ x := by
  intro p hp
  simpa using (List.mem_filter.mp hp).2

/-- READ AFTER WRITE, at the place written and at every other. -/
theorem cellGet_cellSet [DecidableEq α] (d : α) (l : List (Nat × α)) (x y : Nat) (v : α) :
    cellGet d (cellSet d l x v) y = if x = y then v else cellGet d l y := by
  unfold cellSet
  by_cases hv : v = d
  · by_cases h : x = y
    · subst h; simp [hv, cellGet_erase_same]
    · simp [hv, h, cellGet_erase_ne d l h]
  · simp only [hv, if_false]
    rw [cellGet_insert d v _ x y (erase_no_key l x)]
    by_cases h : x = y
    · simp [h]
    · simp [h, cellGet_erase_ne d l h]

/-- Keys that all lie above a bound. -/
theorem cellRising_above {l : List (Nat × α)} {k : Nat} {u : α} (h : cellRising ((k, u) :: l) = true) :
    ∀ p ∈ l, k < p.1 := by
  induction l generalizing k u with
  | nil => simp
  | cons q t ih =>
    obtain ⟨k', u'⟩ := q
    simp only [cellRising, Bool.and_eq_true, decide_eq_true_eq] at h
    intro p hp
    rcases List.mem_cons.mp hp with rfl | hp
    · exact h.1
    · exact Nat.lt_trans h.1 (ih h.2 p hp)

theorem cellRising_tail {p : Nat × α} {l : List (Nat × α)} (h : cellRising (p :: l) = true) : cellRising l = true := by
  cases l with
  | nil => rfl
  | cons q t => simp only [cellRising, Bool.and_eq_true] at h; exact h.2

theorem cellRising_cons {k : Nat} {u : α} {l : List (Nat × α)} (hl : cellRising l = true) (h : ∀ p ∈ l, k < p.1) :
    cellRising ((k, u) :: l) = true := by
  cases l with
  | nil => rfl
  | cons q t =>
    simp only [cellRising, Bool.and_eq_true, decide_eq_true_eq]
    exact ⟨h q (by simp), hl⟩

theorem cellRising_erase {l : List (Nat × α)} (h : cellRising l = true) (x : Nat) : cellRising (cellErase l x) = true := by
  induction l with
  | nil => rfl
  | cons p t ih =>
    obtain ⟨k, u⟩ := p
    have ih := ih (cellRising_tail h)
    by_cases hk : k = x
    · simpa [cellErase, hk] using ih
    · have : cellErase ((k, u) :: t) x = (k, u) :: cellErase t x := by simp [cellErase, hk]
      rw [this]
      exact cellRising_cons ih (fun p hp => cellRising_above h p (List.mem_filter.mp hp).1)

theorem mem_insert {l : List (Nat × α)} {x : Nat} {v : α} {p : Nat × α} (h : p ∈ cellInsert x v l) :
    p = (x, v) ∨ p ∈ l := by
  induction l with
  | nil => simpa [cellInsert] using h
  | cons q t ih =>
    obtain ⟨k, u⟩ := q
    by_cases hlt : x < k
    · simpa [cellInsert, hlt] using h
    · simp only [cellInsert, hlt, if_false, List.mem_cons] at h
      rcases h with h | h
      · exact .inr (by simp [h])
      · rcases ih h with h | h
        · exact .inl h
        · exact .inr (by simp [h])

theorem cellRising_insert {l : List (Nat × α)} (h : cellRising l = true) (x : Nat) (v : α) (hx : ∀ p ∈ l, p.1 ≠ x) :
    cellRising (cellInsert x v l) = true := by
  induction l with
  | nil => rfl
  | cons p t ih =>
    obtain ⟨k, u⟩ := p
    by_cases hlt : x < k
    · simp only [cellInsert, hlt, if_true]
      exact cellRising_cons h (fun p hp => by
        rcases List.mem_cons.mp hp with rfl | hp
        · exact hlt
        · exact Nat.lt_trans hlt (cellRising_above h p hp))
    · simp only [cellInsert, hlt, if_false]
      refine cellRising_cons (ih (cellRising_tail h) (fun p hp => hx p (by simp [hp]))) (fun p hp => ?_)
      have hk : k ≠ x := hx (k, u) (by simp)
      rcases mem_insert hp with rfl | hp
      · exact Nat.lt_of_le_of_ne (Nat.not_lt.mp hlt) hk
      · exact cellRising_above h p hp

/-- A write keeps the canonical form. -/
theorem cellSet_wf [DecidableEq α] (d : α) {l : List (Nat × α)} (h : cellWf d l = true) (x : Nat) (v : α) : cellWf d (cellSet d l x v) = true := by
  simp only [cellWf, Bool.and_eq_true, List.all_eq_true] at h ⊢
  obtain ⟨hr, ha⟩ := h
  unfold cellSet
  by_cases hv : v = d
  · simp only [hv, if_true]
    exact ⟨cellRising_erase hr x, fun p hp => ha p (List.mem_filter.mp hp).1⟩
  · simp only [hv, if_false]
    refine ⟨cellRising_insert (cellRising_erase hr x) x v (erase_no_key l x), fun p hp => ?_⟩
    rcases mem_insert hp with rfl | hp
    · simpa using hv
    · exact ha p (List.mem_filter.mp hp).1

/-- Several writes keep the canonical form. -/
theorem cellSets_wf [DecidableEq α] (d : α) {l : List (Nat × α)} (h : cellWf d l = true) (ws : List (Nat × α)) :
    cellWf d (cellSets d l ws) = true := by
  induction ws generalizing l with
  | nil => exact h
  | cons p t ih => exact ih (cellSet_wf d h p.1 p.2)

@[simp] theorem cellSets_nil [DecidableEq α] (d : α) (l : List (Nat × α)) : cellSets d l [] = l := rfl

end Sys2Proof.Machine
end

