-- ==== Sys2Proof/Laws/State.lean ====
section
/-!
SUPPORT. The fields of the state under each named update: what the update leaves as it was, and the field that it
changes.
-/
namespace Sys2Proof.Machine

variable (s : State)

@[simp] theorem State.dropReqs_mem (gone : Req → Bool) : (s.dropReqs gone).mem = s.mem := rfl
@[simp] theorem State.dropReqs_stores (gone : Req → Bool) : (s.dropReqs gone).stores = s.stores := rfl
@[simp] theorem State.dropReqs_retired (gone : Req → Bool) : (s.dropReqs gone).retired = s.retired := rfl
@[simp] theorem State.dropReqs_badBlocks (gone : Req → Bool) : (s.dropReqs gone).badBlocks = s.badBlocks := rfl
@[simp] theorem State.dropReqs_errLog (gone : Req → Bool) : (s.dropReqs gone).errLog = s.errLog := rfl
@[simp] theorem State.dropReqs_booted (gone : Req → Bool) : (s.dropReqs gone).booted = s.booted := rfl
@[simp] theorem State.dropReqs_recovery (gone : Req → Bool) : (s.dropReqs gone).recovery = s.recovery := rfl
@[simp] theorem State.dropReqs_record (gone : Req → Bool) : (s.dropReqs gone).record = s.record := rfl
@[simp] theorem State.dropReqs_assignment (gone : Req → Bool) : (s.dropReqs gone).assignment = s.assignment := rfl
@[simp] theorem State.dropReqs_clockStep (gone : Req → Bool) : (s.dropReqs gone).clockStep = s.clockStep := rfl
@[simp] theorem State.dropReqs_powerLimit (gone : Req → Bool) : (s.dropReqs gone).powerLimit = s.powerLimit := rfl
@[simp] theorem State.dropReqs_shutdown (gone : Req → Bool) : (s.dropReqs gone).shutdown = s.shutdown := rfl
@[simp] theorem State.dropReqs_layers (gone : Req → Bool) : (s.dropReqs gone).layers = s.layers := rfl
@[simp] theorem State.dropReqs_capSeq (gone : Req → Bool) : (s.dropReqs gone).capSeq = s.capSeq := rfl
@[simp] theorem State.dropReqs_ports (gone : Req → Bool) : (s.dropReqs gone).ports = s.ports := rfl
@[simp] theorem State.dropReqs_records (gone : Req → Bool) : (s.dropReqs gone).records = s.records := rfl
@[simp] theorem State.dropReqs_lastServed (gone : Req → Bool) : (s.dropReqs gone).lastServed = s.lastServed := rfl
@[simp] theorem State.dropReqs_sidingEvents (gone : Req → Bool) : (s.dropReqs gone).sidingEvents = s.sidingEvents := rfl
@[simp] theorem State.dropReqs_tlb (gone : Req → Bool) : (s.dropReqs gone).tlb = s.tlb := rfl
@[simp] theorem State.dropReqs_ualOut (gone : Req → Bool) : (s.dropReqs gone).ualOut = s.ualOut := rfl
@[simp] theorem State.dropReqs_ualIn (gone : Req → Bool) : (s.dropReqs gone).ualIn = s.ualIn := rfl
@[simp] theorem State.dropReqs_peers (gone : Req → Bool) : (s.dropReqs gone).peers = s.peers := rfl
@[simp] theorem State.dropReqs_chans (gone : Req → Bool) : (s.dropReqs gone).chans = s.chans := rfl
@[simp] theorem State.dropReqs_rowCtr (gone : Req → Bool) : (s.dropReqs gone).rowCtr = s.rowCtr := rfl
@[simp] theorem State.dropReqs_cores (gone : Req → Bool) : (s.dropReqs gone).cores = s.cores := rfl
@[simp] theorem State.dropReqs_ctxs (gone : Req → Bool) : (s.dropReqs gone).ctxs = s.ctxs := rfl
@[simp] theorem State.dropReqs_grids (gone : Req → Bool) : (s.dropReqs gone).grids = s.grids := rfl
@[simp] theorem State.dropReqs_teams (gone : Req → Bool) : (s.dropReqs gone).teams = s.teams := rfl
@[simp] theorem State.dropReqs_waves (gone : Req → Bool) : (s.dropReqs gone).waves = s.waves := rfl
@[simp] theorem State.dropReqs_waiting (gone : Req → Bool) : (s.dropReqs gone).waiting = s.waiting := rfl
@[simp] theorem State.dropReqs_xfers (gone : Req → Bool) : (s.dropReqs gone).xfers = s.xfers := rfl
@[simp] theorem State.dropReqs_csigs (gone : Req → Bool) : (s.dropReqs gone).csigs = s.csigs := rfl
@[simp] theorem State.dropReqs_colls (gone : Req → Bool) : (s.dropReqs gone).colls = s.colls := rfl
@[simp] theorem State.dropReqs_updates (gone : Req → Bool) : (s.dropReqs gone).updates = s.updates := rfl
@[simp] theorem State.dropReqs_held (gone : Req → Bool) : (s.dropReqs gone).held = s.held := rfl
@[simp] theorem State.dropReqs_launches (gone : Req → Bool) : (s.dropReqs gone).launches = s.launches := rfl
@[simp] theorem State.dropReqs_nextId (gone : Req → Bool) : (s.dropReqs gone).nextId = s.nextId := rfl
@[simp] theorem State.dropReqs_fresh (gone : Req → Bool) : (s.dropReqs gone).fresh = s.fresh := rfl
@[simp] theorem State.dropReqs_agenda (gone : Req → Bool) : (s.dropReqs gone).agenda = s.agenda := rfl
@[simp] theorem State.dropReqs_due (gone : Req → Bool) : (s.dropReqs gone).due = s.due := rfl
@[simp] theorem State.dropReqs_cur (gone : Req → Bool) : (s.dropReqs gone).cur = s.cur := rfl
@[simp] theorem State.dropReqs_reqs (gone : Req → Bool) : (s.dropReqs gone).reqs = s.reqs.filter (fun r => !gone r) := rfl
@[simp] theorem State.dropBytes_mem (work : Nat × Nat) : (s.dropBytes work).mem = s.mem := rfl
@[simp] theorem State.dropBytes_stores (work : Nat × Nat) : (s.dropBytes work).stores = s.stores := rfl
@[simp] theorem State.dropBytes_retired (work : Nat × Nat) : (s.dropBytes work).retired = s.retired := rfl
@[simp] theorem State.dropBytes_badBlocks (work : Nat × Nat) : (s.dropBytes work).badBlocks = s.badBlocks := rfl
@[simp] theorem State.dropBytes_errLog (work : Nat × Nat) : (s.dropBytes work).errLog = s.errLog := rfl
@[simp] theorem State.dropBytes_booted (work : Nat × Nat) : (s.dropBytes work).booted = s.booted := rfl
@[simp] theorem State.dropBytes_recovery (work : Nat × Nat) : (s.dropBytes work).recovery = s.recovery := rfl
@[simp] theorem State.dropBytes_record (work : Nat × Nat) : (s.dropBytes work).record = s.record := rfl
@[simp] theorem State.dropBytes_assignment (work : Nat × Nat) : (s.dropBytes work).assignment = s.assignment := rfl
@[simp] theorem State.dropBytes_clockStep (work : Nat × Nat) : (s.dropBytes work).clockStep = s.clockStep := rfl
@[simp] theorem State.dropBytes_powerLimit (work : Nat × Nat) : (s.dropBytes work).powerLimit = s.powerLimit := rfl
@[simp] theorem State.dropBytes_shutdown (work : Nat × Nat) : (s.dropBytes work).shutdown = s.shutdown := rfl
@[simp] theorem State.dropBytes_layers (work : Nat × Nat) : (s.dropBytes work).layers = s.layers := rfl
@[simp] theorem State.dropBytes_capSeq (work : Nat × Nat) : (s.dropBytes work).capSeq = s.capSeq := rfl
@[simp] theorem State.dropBytes_ports (work : Nat × Nat) : (s.dropBytes work).ports = s.ports := rfl
@[simp] theorem State.dropBytes_records (work : Nat × Nat) : (s.dropBytes work).records = s.records := rfl
@[simp] theorem State.dropBytes_lastServed (work : Nat × Nat) : (s.dropBytes work).lastServed = s.lastServed := rfl
@[simp] theorem State.dropBytes_sidingEvents (work : Nat × Nat) : (s.dropBytes work).sidingEvents = s.sidingEvents := rfl
@[simp] theorem State.dropBytes_tlb (work : Nat × Nat) : (s.dropBytes work).tlb = s.tlb := rfl
@[simp] theorem State.dropBytes_ualOut (work : Nat × Nat) : (s.dropBytes work).ualOut = s.ualOut := rfl
@[simp] theorem State.dropBytes_ualIn (work : Nat × Nat) : (s.dropBytes work).ualIn = s.ualIn := rfl
@[simp] theorem State.dropBytes_peers (work : Nat × Nat) : (s.dropBytes work).peers = s.peers := rfl
@[simp] theorem State.dropBytes_chans (work : Nat × Nat) : (s.dropBytes work).chans = s.chans := rfl
@[simp] theorem State.dropBytes_rowCtr (work : Nat × Nat) : (s.dropBytes work).rowCtr = s.rowCtr := rfl
@[simp] theorem State.dropBytes_cores (work : Nat × Nat) : (s.dropBytes work).cores = s.cores := rfl
@[simp] theorem State.dropBytes_ctxs (work : Nat × Nat) : (s.dropBytes work).ctxs = s.ctxs := rfl
@[simp] theorem State.dropBytes_grids (work : Nat × Nat) : (s.dropBytes work).grids = s.grids := rfl
@[simp] theorem State.dropBytes_teams (work : Nat × Nat) : (s.dropBytes work).teams = s.teams := rfl
@[simp] theorem State.dropBytes_waves (work : Nat × Nat) : (s.dropBytes work).waves = s.waves := rfl
@[simp] theorem State.dropBytes_reqs (work : Nat × Nat) : (s.dropBytes work).reqs = s.reqs := rfl
@[simp] theorem State.dropBytes_waiting (work : Nat × Nat) : (s.dropBytes work).waiting = s.waiting := rfl
@[simp] theorem State.dropBytes_xfers (work : Nat × Nat) : (s.dropBytes work).xfers = s.xfers := rfl
@[simp] theorem State.dropBytes_csigs (work : Nat × Nat) : (s.dropBytes work).csigs = s.csigs := rfl
@[simp] theorem State.dropBytes_colls (work : Nat × Nat) : (s.dropBytes work).colls = s.colls := rfl
@[simp] theorem State.dropBytes_updates (work : Nat × Nat) : (s.dropBytes work).updates = s.updates := rfl
@[simp] theorem State.dropBytes_held (work : Nat × Nat) : (s.dropBytes work).held = s.held := rfl
@[simp] theorem State.dropBytes_launches (work : Nat × Nat) : (s.dropBytes work).launches = s.launches := rfl
@[simp] theorem State.dropBytes_nextId (work : Nat × Nat) : (s.dropBytes work).nextId = s.nextId := rfl
@[simp] theorem State.dropBytes_fresh (work : Nat × Nat) : (s.dropBytes work).fresh = s.fresh := rfl
@[simp] theorem State.dropBytes_agenda (work : Nat × Nat) : (s.dropBytes work).agenda = s.agenda := rfl
@[simp] theorem State.dropBytes_due (work : Nat × Nat) : (s.dropBytes work).due = s.due := rfl
@[simp] theorem State.dropBytes_cur (work : Nat × Nat) : (s.dropBytes work).cur = s.cur := rfl
@[simp] theorem State.dropBytes_stalls (work : Nat × Nat) : (s.dropBytes work).stalls = s.stalls.filter (fun h => h.work != work) := rfl
@[simp] theorem State.dropBytes_heldBytes (work : Nat × Nat) : (s.dropBytes work).heldBytes = s.heldBytes.filter (fun h => h.work != work) := rfl

@[simp] theorem State.updWave_mem (w : WaveId) (f : Wave → Wave) : (s.updWave w f).mem = s.mem := rfl
@[simp] theorem State.updWave_stores (w : WaveId) (f : Wave → Wave) : (s.updWave w f).stores = s.stores := rfl
@[simp] theorem State.updWave_retired (w : WaveId) (f : Wave → Wave) : (s.updWave w f).retired = s.retired := rfl
@[simp] theorem State.updWave_badBlocks (w : WaveId) (f : Wave → Wave) : (s.updWave w f).badBlocks = s.badBlocks := rfl
@[simp] theorem State.updWave_errLog (w : WaveId) (f : Wave → Wave) : (s.updWave w f).errLog = s.errLog := rfl
@[simp] theorem State.updWave_booted (w : WaveId) (f : Wave → Wave) : (s.updWave w f).booted = s.booted := rfl
@[simp] theorem State.updWave_recovery (w : WaveId) (f : Wave → Wave) : (s.updWave w f).recovery = s.recovery := rfl
@[simp] theorem State.updWave_record (w : WaveId) (f : Wave → Wave) : (s.updWave w f).record = s.record := rfl
@[simp] theorem State.updWave_assignment (w : WaveId) (f : Wave → Wave) : (s.updWave w f).assignment = s.assignment := rfl
@[simp] theorem State.updWave_clockStep (w : WaveId) (f : Wave → Wave) : (s.updWave w f).clockStep = s.clockStep := rfl
@[simp] theorem State.updWave_powerLimit (w : WaveId) (f : Wave → Wave) : (s.updWave w f).powerLimit = s.powerLimit := rfl
@[simp] theorem State.updWave_shutdown (w : WaveId) (f : Wave → Wave) : (s.updWave w f).shutdown = s.shutdown := rfl
@[simp] theorem State.updWave_layers (w : WaveId) (f : Wave → Wave) : (s.updWave w f).layers = s.layers := rfl
@[simp] theorem State.updWave_capSeq (w : WaveId) (f : Wave → Wave) : (s.updWave w f).capSeq = s.capSeq := rfl
@[simp] theorem State.updWave_ports (w : WaveId) (f : Wave → Wave) : (s.updWave w f).ports = s.ports := rfl
@[simp] theorem State.updWave_records (w : WaveId) (f : Wave → Wave) : (s.updWave w f).records = s.records := rfl
@[simp] theorem State.updWave_lastServed (w : WaveId) (f : Wave → Wave) : (s.updWave w f).lastServed = s.lastServed := rfl
@[simp] theorem State.updWave_sidingEvents (w : WaveId) (f : Wave → Wave) : (s.updWave w f).sidingEvents = s.sidingEvents := rfl
@[simp] theorem State.updWave_tlb (w : WaveId) (f : Wave → Wave) : (s.updWave w f).tlb = s.tlb := rfl
@[simp] theorem State.updWave_ualOut (w : WaveId) (f : Wave → Wave) : (s.updWave w f).ualOut = s.ualOut := rfl
@[simp] theorem State.updWave_peers (w : WaveId) (f : Wave → Wave) : (s.updWave w f).peers = s.peers := rfl
@[simp] theorem State.updWave_chans (w : WaveId) (f : Wave → Wave) : (s.updWave w f).chans = s.chans := rfl
@[simp] theorem State.updWave_rowCtr (w : WaveId) (f : Wave → Wave) : (s.updWave w f).rowCtr = s.rowCtr := rfl
@[simp] theorem State.updWave_cores (w : WaveId) (f : Wave → Wave) : (s.updWave w f).cores = s.cores := rfl
@[simp] theorem State.updWave_ctxs (w : WaveId) (f : Wave → Wave) : (s.updWave w f).ctxs = s.ctxs := rfl
@[simp] theorem State.updWave_grids (w : WaveId) (f : Wave → Wave) : (s.updWave w f).grids = s.grids := rfl
@[simp] theorem State.updWave_teams (w : WaveId) (f : Wave → Wave) : (s.updWave w f).teams = s.teams := rfl
@[simp] theorem State.updWave_waves (w : WaveId) (f : Wave → Wave) : (s.updWave w f).waves = s.waves.map (fun x => if x.id = w then f x else x) := rfl
@[simp] theorem State.updWave_reqs (w : WaveId) (f : Wave → Wave) : (s.updWave w f).reqs = s.reqs := rfl
@[simp] theorem State.updWave_waiting (w : WaveId) (f : Wave → Wave) : (s.updWave w f).waiting = s.waiting := rfl
@[simp] theorem State.updWave_xfers (w : WaveId) (f : Wave → Wave) : (s.updWave w f).xfers = s.xfers := rfl
@[simp] theorem State.updWave_csigs (w : WaveId) (f : Wave → Wave) : (s.updWave w f).csigs = s.csigs := rfl
@[simp] theorem State.updWave_colls (w : WaveId) (f : Wave → Wave) : (s.updWave w f).colls = s.colls := rfl
@[simp] theorem State.updWave_updates (w : WaveId) (f : Wave → Wave) : (s.updWave w f).updates = s.updates := rfl
@[simp] theorem State.updWave_ualIn (w : WaveId) (f : Wave → Wave) : (s.updWave w f).ualIn = s.ualIn := rfl
@[simp] theorem State.updWave_heldBytes (w : WaveId) (f : Wave → Wave) : (s.updWave w f).heldBytes = s.heldBytes := rfl
@[simp] theorem State.updWave_held (w : WaveId) (f : Wave → Wave) : (s.updWave w f).held = s.held := rfl
@[simp] theorem State.updWave_stalls (w : WaveId) (f : Wave → Wave) : (s.updWave w f).stalls = s.stalls := rfl
@[simp] theorem State.updWave_launches (w : WaveId) (f : Wave → Wave) : (s.updWave w f).launches = s.launches := rfl
@[simp] theorem State.updWave_nextId (w : WaveId) (f : Wave → Wave) : (s.updWave w f).nextId = s.nextId := rfl
@[simp] theorem State.updWave_fresh (w : WaveId) (f : Wave → Wave) : (s.updWave w f).fresh = s.fresh := rfl
@[simp] theorem State.updWave_agenda (w : WaveId) (f : Wave → Wave) : (s.updWave w f).agenda = s.agenda := rfl
@[simp] theorem State.updWave_due (w : WaveId) (f : Wave → Wave) : (s.updWave w f).due = s.due := rfl
@[simp] theorem State.updWave_cur (w : WaveId) (f : Wave → Wave) : (s.updWave w f).cur = s.cur := rfl

@[simp] theorem State.updTeam_mem (t : TeamId) (f : Team → Team) : (s.updTeam t f).mem = s.mem := rfl
@[simp] theorem State.updTeam_stores (t : TeamId) (f : Team → Team) : (s.updTeam t f).stores = s.stores := rfl
@[simp] theorem State.updTeam_retired (t : TeamId) (f : Team → Team) : (s.updTeam t f).retired = s.retired := rfl
@[simp] theorem State.updTeam_badBlocks (t : TeamId) (f : Team → Team) : (s.updTeam t f).badBlocks = s.badBlocks := rfl
@[simp] theorem State.updTeam_errLog (t : TeamId) (f : Team → Team) : (s.updTeam t f).errLog = s.errLog := rfl
@[simp] theorem State.updTeam_booted (t : TeamId) (f : Team → Team) : (s.updTeam t f).booted = s.booted := rfl
@[simp] theorem State.updTeam_recovery (t : TeamId) (f : Team → Team) : (s.updTeam t f).recovery = s.recovery := rfl
@[simp] theorem State.updTeam_record (t : TeamId) (f : Team → Team) : (s.updTeam t f).record = s.record := rfl
@[simp] theorem State.updTeam_assignment (t : TeamId) (f : Team → Team) : (s.updTeam t f).assignment = s.assignment := rfl
@[simp] theorem State.updTeam_clockStep (t : TeamId) (f : Team → Team) : (s.updTeam t f).clockStep = s.clockStep := rfl
@[simp] theorem State.updTeam_powerLimit (t : TeamId) (f : Team → Team) : (s.updTeam t f).powerLimit = s.powerLimit := rfl
@[simp] theorem State.updTeam_shutdown (t : TeamId) (f : Team → Team) : (s.updTeam t f).shutdown = s.shutdown := rfl
@[simp] theorem State.updTeam_layers (t : TeamId) (f : Team → Team) : (s.updTeam t f).layers = s.layers := rfl
@[simp] theorem State.updTeam_capSeq (t : TeamId) (f : Team → Team) : (s.updTeam t f).capSeq = s.capSeq := rfl
@[simp] theorem State.updTeam_ports (t : TeamId) (f : Team → Team) : (s.updTeam t f).ports = s.ports := rfl
@[simp] theorem State.updTeam_records (t : TeamId) (f : Team → Team) : (s.updTeam t f).records = s.records := rfl
@[simp] theorem State.updTeam_lastServed (t : TeamId) (f : Team → Team) : (s.updTeam t f).lastServed = s.lastServed := rfl
@[simp] theorem State.updTeam_sidingEvents (t : TeamId) (f : Team → Team) : (s.updTeam t f).sidingEvents = s.sidingEvents := rfl
@[simp] theorem State.updTeam_tlb (t : TeamId) (f : Team → Team) : (s.updTeam t f).tlb = s.tlb := rfl
@[simp] theorem State.updTeam_ualOut (t : TeamId) (f : Team → Team) : (s.updTeam t f).ualOut = s.ualOut := rfl
@[simp] theorem State.updTeam_peers (t : TeamId) (f : Team → Team) : (s.updTeam t f).peers = s.peers := rfl
@[simp] theorem State.updTeam_chans (t : TeamId) (f : Team → Team) : (s.updTeam t f).chans = s.chans := rfl
@[simp] theorem State.updTeam_rowCtr (t : TeamId) (f : Team → Team) : (s.updTeam t f).rowCtr = s.rowCtr := rfl
@[simp] theorem State.updTeam_cores (t : TeamId) (f : Team → Team) : (s.updTeam t f).cores = s.cores := rfl
@[simp] theorem State.updTeam_ctxs (t : TeamId) (f : Team → Team) : (s.updTeam t f).ctxs = s.ctxs := rfl
@[simp] theorem State.updTeam_grids (t : TeamId) (f : Team → Team) : (s.updTeam t f).grids = s.grids := rfl
@[simp] theorem State.updTeam_teams (t : TeamId) (f : Team → Team) : (s.updTeam t f).teams = s.teams.map (fun x => if x.id = t then f x else x) := rfl
@[simp] theorem State.updTeam_waves (t : TeamId) (f : Team → Team) : (s.updTeam t f).waves = s.waves := rfl
@[simp] theorem State.updTeam_reqs (t : TeamId) (f : Team → Team) : (s.updTeam t f).reqs = s.reqs := rfl
@[simp] theorem State.updTeam_waiting (t : TeamId) (f : Team → Team) : (s.updTeam t f).waiting = s.waiting := rfl
@[simp] theorem State.updTeam_xfers (t : TeamId) (f : Team → Team) : (s.updTeam t f).xfers = s.xfers := rfl
@[simp] theorem State.updTeam_csigs (t : TeamId) (f : Team → Team) : (s.updTeam t f).csigs = s.csigs := rfl
@[simp] theorem State.updTeam_colls (t : TeamId) (f : Team → Team) : (s.updTeam t f).colls = s.colls := rfl
@[simp] theorem State.updTeam_updates (t : TeamId) (f : Team → Team) : (s.updTeam t f).updates = s.updates := rfl
@[simp] theorem State.updTeam_ualIn (t : TeamId) (f : Team → Team) : (s.updTeam t f).ualIn = s.ualIn := rfl
@[simp] theorem State.updTeam_heldBytes (t : TeamId) (f : Team → Team) : (s.updTeam t f).heldBytes = s.heldBytes := rfl
@[simp] theorem State.updTeam_held (t : TeamId) (f : Team → Team) : (s.updTeam t f).held = s.held := rfl
@[simp] theorem State.updTeam_stalls (t : TeamId) (f : Team → Team) : (s.updTeam t f).stalls = s.stalls := rfl
@[simp] theorem State.updTeam_launches (t : TeamId) (f : Team → Team) : (s.updTeam t f).launches = s.launches := rfl
@[simp] theorem State.updTeam_nextId (t : TeamId) (f : Team → Team) : (s.updTeam t f).nextId = s.nextId := rfl
@[simp] theorem State.updTeam_fresh (t : TeamId) (f : Team → Team) : (s.updTeam t f).fresh = s.fresh := rfl
@[simp] theorem State.updTeam_agenda (t : TeamId) (f : Team → Team) : (s.updTeam t f).agenda = s.agenda := rfl
@[simp] theorem State.updTeam_due (t : TeamId) (f : Team → Team) : (s.updTeam t f).due = s.due := rfl
@[simp] theorem State.updTeam_cur (t : TeamId) (f : Team → Team) : (s.updTeam t f).cur = s.cur := rfl

@[simp] theorem State.updGrid_mem (g : GridId) (f : Grid → Grid) : (s.updGrid g f).mem = s.mem := rfl
@[simp] theorem State.updGrid_stores (g : GridId) (f : Grid → Grid) : (s.updGrid g f).stores = s.stores := rfl
@[simp] theorem State.updGrid_retired (g : GridId) (f : Grid → Grid) : (s.updGrid g f).retired = s.retired := rfl
@[simp] theorem State.updGrid_badBlocks (g : GridId) (f : Grid → Grid) : (s.updGrid g f).badBlocks = s.badBlocks := rfl
@[simp] theorem State.updGrid_errLog (g : GridId) (f : Grid → Grid) : (s.updGrid g f).errLog = s.errLog := rfl
@[simp] theorem State.updGrid_booted (g : GridId) (f : Grid → Grid) : (s.updGrid g f).booted = s.booted := rfl
@[simp] theorem State.updGrid_recovery (g : GridId) (f : Grid → Grid) : (s.updGrid g f).recovery = s.recovery := rfl
@[simp] theorem State.updGrid_record (g : GridId) (f : Grid → Grid) : (s.updGrid g f).record = s.record := rfl
@[simp] theorem State.updGrid_assignment (g : GridId) (f : Grid → Grid) : (s.updGrid g f).assignment = s.assignment := rfl
@[simp] theorem State.updGrid_clockStep (g : GridId) (f : Grid → Grid) : (s.updGrid g f).clockStep = s.clockStep := rfl
@[simp] theorem State.updGrid_powerLimit (g : GridId) (f : Grid → Grid) : (s.updGrid g f).powerLimit = s.powerLimit := rfl
@[simp] theorem State.updGrid_shutdown (g : GridId) (f : Grid → Grid) : (s.updGrid g f).shutdown = s.shutdown := rfl
@[simp] theorem State.updGrid_layers (g : GridId) (f : Grid → Grid) : (s.updGrid g f).layers = s.layers := rfl
@[simp] theorem State.updGrid_capSeq (g : GridId) (f : Grid → Grid) : (s.updGrid g f).capSeq = s.capSeq := rfl
@[simp] theorem State.updGrid_ports (g : GridId) (f : Grid → Grid) : (s.updGrid g f).ports = s.ports := rfl
@[simp] theorem State.updGrid_records (g : GridId) (f : Grid → Grid) : (s.updGrid g f).records = s.records := rfl
@[simp] theorem State.updGrid_lastServed (g : GridId) (f : Grid → Grid) : (s.updGrid g f).lastServed = s.lastServed := rfl
@[simp] theorem State.updGrid_sidingEvents (g : GridId) (f : Grid → Grid) : (s.updGrid g f).sidingEvents = s.sidingEvents := rfl
@[simp] theorem State.updGrid_tlb (g : GridId) (f : Grid → Grid) : (s.updGrid g f).tlb = s.tlb := rfl
@[simp] theorem State.updGrid_ualOut (g : GridId) (f : Grid → Grid) : (s.updGrid g f).ualOut = s.ualOut := rfl
@[simp] theorem State.updGrid_peers (g : GridId) (f : Grid → Grid) : (s.updGrid g f).peers = s.peers := rfl
@[simp] theorem State.updGrid_chans (g : GridId) (f : Grid → Grid) : (s.updGrid g f).chans = s.chans := rfl
@[simp] theorem State.updGrid_rowCtr (g : GridId) (f : Grid → Grid) : (s.updGrid g f).rowCtr = s.rowCtr := rfl
@[simp] theorem State.updGrid_cores (g : GridId) (f : Grid → Grid) : (s.updGrid g f).cores = s.cores := rfl
@[simp] theorem State.updGrid_ctxs (g : GridId) (f : Grid → Grid) : (s.updGrid g f).ctxs = s.ctxs := rfl
@[simp] theorem State.updGrid_grids (g : GridId) (f : Grid → Grid) : (s.updGrid g f).grids = s.grids.map (fun x => if x.id = g then f x else x) := rfl
@[simp] theorem State.updGrid_teams (g : GridId) (f : Grid → Grid) : (s.updGrid g f).teams = s.teams := rfl
@[simp] theorem State.updGrid_waves (g : GridId) (f : Grid → Grid) : (s.updGrid g f).waves = s.waves := rfl
@[simp] theorem State.updGrid_reqs (g : GridId) (f : Grid → Grid) : (s.updGrid g f).reqs = s.reqs := rfl
@[simp] theorem State.updGrid_waiting (g : GridId) (f : Grid → Grid) : (s.updGrid g f).waiting = s.waiting := rfl
@[simp] theorem State.updGrid_xfers (g : GridId) (f : Grid → Grid) : (s.updGrid g f).xfers = s.xfers := rfl
@[simp] theorem State.updGrid_csigs (g : GridId) (f : Grid → Grid) : (s.updGrid g f).csigs = s.csigs := rfl
@[simp] theorem State.updGrid_colls (g : GridId) (f : Grid → Grid) : (s.updGrid g f).colls = s.colls := rfl
@[simp] theorem State.updGrid_updates (g : GridId) (f : Grid → Grid) : (s.updGrid g f).updates = s.updates := rfl
@[simp] theorem State.updGrid_ualIn (g : GridId) (f : Grid → Grid) : (s.updGrid g f).ualIn = s.ualIn := rfl
@[simp] theorem State.updGrid_heldBytes (g : GridId) (f : Grid → Grid) : (s.updGrid g f).heldBytes = s.heldBytes := rfl
@[simp] theorem State.updGrid_held (g : GridId) (f : Grid → Grid) : (s.updGrid g f).held = s.held := rfl
@[simp] theorem State.updGrid_stalls (g : GridId) (f : Grid → Grid) : (s.updGrid g f).stalls = s.stalls := rfl
@[simp] theorem State.updGrid_launches (g : GridId) (f : Grid → Grid) : (s.updGrid g f).launches = s.launches := rfl
@[simp] theorem State.updGrid_nextId (g : GridId) (f : Grid → Grid) : (s.updGrid g f).nextId = s.nextId := rfl
@[simp] theorem State.updGrid_fresh (g : GridId) (f : Grid → Grid) : (s.updGrid g f).fresh = s.fresh := rfl
@[simp] theorem State.updGrid_agenda (g : GridId) (f : Grid → Grid) : (s.updGrid g f).agenda = s.agenda := rfl
@[simp] theorem State.updGrid_due (g : GridId) (f : Grid → Grid) : (s.updGrid g f).due = s.due := rfl
@[simp] theorem State.updGrid_cur (g : GridId) (f : Grid → Grid) : (s.updGrid g f).cur = s.cur := rfl

@[simp] theorem State.updCtx_mem (a : Nat) (f : Ctx → Ctx) : (s.updCtx a f).mem = s.mem := rfl
@[simp] theorem State.updCtx_stores (a : Nat) (f : Ctx → Ctx) : (s.updCtx a f).stores = s.stores := rfl
@[simp] theorem State.updCtx_retired (a : Nat) (f : Ctx → Ctx) : (s.updCtx a f).retired = s.retired := rfl
@[simp] theorem State.updCtx_badBlocks (a : Nat) (f : Ctx → Ctx) : (s.updCtx a f).badBlocks = s.badBlocks := rfl
@[simp] theorem State.updCtx_errLog (a : Nat) (f : Ctx → Ctx) : (s.updCtx a f).errLog = s.errLog := rfl
@[simp] theorem State.updCtx_booted (a : Nat) (f : Ctx → Ctx) : (s.updCtx a f).booted = s.booted := rfl
@[simp] theorem State.updCtx_recovery (a : Nat) (f : Ctx → Ctx) : (s.updCtx a f).recovery = s.recovery := rfl
@[simp] theorem State.updCtx_record (a : Nat) (f : Ctx → Ctx) : (s.updCtx a f).record = s.record := rfl
@[simp] theorem State.updCtx_assignment (a : Nat) (f : Ctx → Ctx) : (s.updCtx a f).assignment = s.assignment := rfl
@[simp] theorem State.updCtx_clockStep (a : Nat) (f : Ctx → Ctx) : (s.updCtx a f).clockStep = s.clockStep := rfl
@[simp] theorem State.updCtx_powerLimit (a : Nat) (f : Ctx → Ctx) : (s.updCtx a f).powerLimit = s.powerLimit := rfl
@[simp] theorem State.updCtx_shutdown (a : Nat) (f : Ctx → Ctx) : (s.updCtx a f).shutdown = s.shutdown := rfl
@[simp] theorem State.updCtx_layers (a : Nat) (f : Ctx → Ctx) : (s.updCtx a f).layers = s.layers := rfl
@[simp] theorem State.updCtx_capSeq (a : Nat) (f : Ctx → Ctx) : (s.updCtx a f).capSeq = s.capSeq := rfl
@[simp] theorem State.updCtx_ports (a : Nat) (f : Ctx → Ctx) : (s.updCtx a f).ports = s.ports := rfl
@[simp] theorem State.updCtx_records (a : Nat) (f : Ctx → Ctx) : (s.updCtx a f).records = s.records := rfl
@[simp] theorem State.updCtx_lastServed (a : Nat) (f : Ctx → Ctx) : (s.updCtx a f).lastServed = s.lastServed := rfl
@[simp] theorem State.updCtx_sidingEvents (a : Nat) (f : Ctx → Ctx) : (s.updCtx a f).sidingEvents = s.sidingEvents := rfl
@[simp] theorem State.updCtx_tlb (a : Nat) (f : Ctx → Ctx) : (s.updCtx a f).tlb = s.tlb := rfl
@[simp] theorem State.updCtx_ualOut (a : Nat) (f : Ctx → Ctx) : (s.updCtx a f).ualOut = s.ualOut := rfl
@[simp] theorem State.updCtx_peers (a : Nat) (f : Ctx → Ctx) : (s.updCtx a f).peers = s.peers := rfl
@[simp] theorem State.updCtx_chans (a : Nat) (f : Ctx → Ctx) : (s.updCtx a f).chans = s.chans := rfl
@[simp] theorem State.updCtx_rowCtr (a : Nat) (f : Ctx → Ctx) : (s.updCtx a f).rowCtr = s.rowCtr := rfl
@[simp] theorem State.updCtx_cores (a : Nat) (f : Ctx → Ctx) : (s.updCtx a f).cores = s.cores := rfl
@[simp] theorem State.updCtx_ctxs (a : Nat) (f : Ctx → Ctx) : (s.updCtx a f).ctxs = s.ctxs.map (fun x => if x.asid = a then f x else x) := rfl
@[simp] theorem State.updCtx_grids (a : Nat) (f : Ctx → Ctx) : (s.updCtx a f).grids = s.grids := rfl
@[simp] theorem State.updCtx_teams (a : Nat) (f : Ctx → Ctx) : (s.updCtx a f).teams = s.teams := rfl
@[simp] theorem State.updCtx_waves (a : Nat) (f : Ctx → Ctx) : (s.updCtx a f).waves = s.waves := rfl
@[simp] theorem State.updCtx_reqs (a : Nat) (f : Ctx → Ctx) : (s.updCtx a f).reqs = s.reqs := rfl
@[simp] theorem State.updCtx_waiting (a : Nat) (f : Ctx → Ctx) : (s.updCtx a f).waiting = s.waiting := rfl
@[simp] theorem State.updCtx_xfers (a : Nat) (f : Ctx → Ctx) : (s.updCtx a f).xfers = s.xfers := rfl
@[simp] theorem State.updCtx_csigs (a : Nat) (f : Ctx → Ctx) : (s.updCtx a f).csigs = s.csigs := rfl
@[simp] theorem State.updCtx_colls (a : Nat) (f : Ctx → Ctx) : (s.updCtx a f).colls = s.colls := rfl
@[simp] theorem State.updCtx_updates (a : Nat) (f : Ctx → Ctx) : (s.updCtx a f).updates = s.updates := rfl
@[simp] theorem State.updCtx_ualIn (a : Nat) (f : Ctx → Ctx) : (s.updCtx a f).ualIn = s.ualIn := rfl
@[simp] theorem State.updCtx_heldBytes (a : Nat) (f : Ctx → Ctx) : (s.updCtx a f).heldBytes = s.heldBytes := rfl
@[simp] theorem State.updCtx_held (a : Nat) (f : Ctx → Ctx) : (s.updCtx a f).held = s.held := rfl
@[simp] theorem State.updCtx_stalls (a : Nat) (f : Ctx → Ctx) : (s.updCtx a f).stalls = s.stalls := rfl
@[simp] theorem State.updCtx_launches (a : Nat) (f : Ctx → Ctx) : (s.updCtx a f).launches = s.launches := rfl
@[simp] theorem State.updCtx_nextId (a : Nat) (f : Ctx → Ctx) : (s.updCtx a f).nextId = s.nextId := rfl
@[simp] theorem State.updCtx_fresh (a : Nat) (f : Ctx → Ctx) : (s.updCtx a f).fresh = s.fresh := rfl
@[simp] theorem State.updCtx_agenda (a : Nat) (f : Ctx → Ctx) : (s.updCtx a f).agenda = s.agenda := rfl
@[simp] theorem State.updCtx_due (a : Nat) (f : Ctx → Ctx) : (s.updCtx a f).due = s.due := rfl
@[simp] theorem State.updCtx_cur (a : Nat) (f : Ctx → Ctx) : (s.updCtx a f).cur = s.cur := rfl

@[simp] theorem State.updCore_mem (c : Nat) (f : Core → Core) : (s.updCore c f).mem = s.mem := rfl
@[simp] theorem State.updCore_stores (c : Nat) (f : Core → Core) : (s.updCore c f).stores = s.stores := rfl
@[simp] theorem State.updCore_retired (c : Nat) (f : Core → Core) : (s.updCore c f).retired = s.retired := rfl
@[simp] theorem State.updCore_badBlocks (c : Nat) (f : Core → Core) : (s.updCore c f).badBlocks = s.badBlocks := rfl
@[simp] theorem State.updCore_errLog (c : Nat) (f : Core → Core) : (s.updCore c f).errLog = s.errLog := rfl
@[simp] theorem State.updCore_booted (c : Nat) (f : Core → Core) : (s.updCore c f).booted = s.booted := rfl
@[simp] theorem State.updCore_recovery (c : Nat) (f : Core → Core) : (s.updCore c f).recovery = s.recovery := rfl
@[simp] theorem State.updCore_record (c : Nat) (f : Core → Core) : (s.updCore c f).record = s.record := rfl
@[simp] theorem State.updCore_assignment (c : Nat) (f : Core → Core) : (s.updCore c f).assignment = s.assignment := rfl
@[simp] theorem State.updCore_clockStep (c : Nat) (f : Core → Core) : (s.updCore c f).clockStep = s.clockStep := rfl
@[simp] theorem State.updCore_powerLimit (c : Nat) (f : Core → Core) : (s.updCore c f).powerLimit = s.powerLimit := rfl
@[simp] theorem State.updCore_shutdown (c : Nat) (f : Core → Core) : (s.updCore c f).shutdown = s.shutdown := rfl
@[simp] theorem State.updCore_layers (c : Nat) (f : Core → Core) : (s.updCore c f).layers = s.layers := rfl
@[simp] theorem State.updCore_capSeq (c : Nat) (f : Core → Core) : (s.updCore c f).capSeq = s.capSeq := rfl
@[simp] theorem State.updCore_ports (c : Nat) (f : Core → Core) : (s.updCore c f).ports = s.ports := rfl
@[simp] theorem State.updCore_records (c : Nat) (f : Core → Core) : (s.updCore c f).records = s.records := rfl
@[simp] theorem State.updCore_lastServed (c : Nat) (f : Core → Core) : (s.updCore c f).lastServed = s.lastServed := rfl
@[simp] theorem State.updCore_sidingEvents (c : Nat) (f : Core → Core) : (s.updCore c f).sidingEvents = s.sidingEvents := rfl
@[simp] theorem State.updCore_tlb (c : Nat) (f : Core → Core) : (s.updCore c f).tlb = s.tlb := rfl
@[simp] theorem State.updCore_ualOut (c : Nat) (f : Core → Core) : (s.updCore c f).ualOut = s.ualOut := rfl
@[simp] theorem State.updCore_peers (c : Nat) (f : Core → Core) : (s.updCore c f).peers = s.peers := rfl
@[simp] theorem State.updCore_chans (c : Nat) (f : Core → Core) : (s.updCore c f).chans = s.chans := rfl
@[simp] theorem State.updCore_rowCtr (c : Nat) (f : Core → Core) : (s.updCore c f).rowCtr = s.rowCtr := rfl
@[simp] theorem State.updCore_cores (c : Nat) (f : Core → Core) : (s.updCore c f).cores = cellSet Core.reset s.cores c (f (s.core c)) := rfl
@[simp] theorem State.updCore_ctxs (c : Nat) (f : Core → Core) : (s.updCore c f).ctxs = s.ctxs := rfl
@[simp] theorem State.updCore_grids (c : Nat) (f : Core → Core) : (s.updCore c f).grids = s.grids := rfl
@[simp] theorem State.updCore_teams (c : Nat) (f : Core → Core) : (s.updCore c f).teams = s.teams := rfl
@[simp] theorem State.updCore_waves (c : Nat) (f : Core → Core) : (s.updCore c f).waves = s.waves := rfl
@[simp] theorem State.updCore_reqs (c : Nat) (f : Core → Core) : (s.updCore c f).reqs = s.reqs := rfl
@[simp] theorem State.updCore_waiting (c : Nat) (f : Core → Core) : (s.updCore c f).waiting = s.waiting := rfl
@[simp] theorem State.updCore_xfers (c : Nat) (f : Core → Core) : (s.updCore c f).xfers = s.xfers := rfl
@[simp] theorem State.updCore_csigs (c : Nat) (f : Core → Core) : (s.updCore c f).csigs = s.csigs := rfl
@[simp] theorem State.updCore_colls (c : Nat) (f : Core → Core) : (s.updCore c f).colls = s.colls := rfl
@[simp] theorem State.updCore_updates (c : Nat) (f : Core → Core) : (s.updCore c f).updates = s.updates := rfl
@[simp] theorem State.updCore_ualIn (c : Nat) (f : Core → Core) : (s.updCore c f).ualIn = s.ualIn := rfl
@[simp] theorem State.updCore_heldBytes (c : Nat) (f : Core → Core) : (s.updCore c f).heldBytes = s.heldBytes := rfl
@[simp] theorem State.updCore_held (c : Nat) (f : Core → Core) : (s.updCore c f).held = s.held := rfl
@[simp] theorem State.updCore_stalls (c : Nat) (f : Core → Core) : (s.updCore c f).stalls = s.stalls := rfl
@[simp] theorem State.updCore_launches (c : Nat) (f : Core → Core) : (s.updCore c f).launches = s.launches := rfl
@[simp] theorem State.updCore_nextId (c : Nat) (f : Core → Core) : (s.updCore c f).nextId = s.nextId := rfl
@[simp] theorem State.updCore_fresh (c : Nat) (f : Core → Core) : (s.updCore c f).fresh = s.fresh := rfl
@[simp] theorem State.updCore_agenda (c : Nat) (f : Core → Core) : (s.updCore c f).agenda = s.agenda := rfl
@[simp] theorem State.updCore_due (c : Nat) (f : Core → Core) : (s.updCore c f).due = s.due := rfl
@[simp] theorem State.updCore_cur (c : Nat) (f : Core → Core) : (s.updCore c f).cur = s.cur := rfl

@[simp] theorem State.pushDue_mem (i : Instr) : (s.pushDue i).mem = s.mem := rfl
@[simp] theorem State.pushDue_stores (i : Instr) : (s.pushDue i).stores = s.stores := rfl
@[simp] theorem State.pushDue_retired (i : Instr) : (s.pushDue i).retired = s.retired := rfl
@[simp] theorem State.pushDue_badBlocks (i : Instr) : (s.pushDue i).badBlocks = s.badBlocks := rfl
@[simp] theorem State.pushDue_errLog (i : Instr) : (s.pushDue i).errLog = s.errLog := rfl
@[simp] theorem State.pushDue_booted (i : Instr) : (s.pushDue i).booted = s.booted := rfl
@[simp] theorem State.pushDue_recovery (i : Instr) : (s.pushDue i).recovery = s.recovery := rfl
@[simp] theorem State.pushDue_record (i : Instr) : (s.pushDue i).record = s.record := rfl
@[simp] theorem State.pushDue_assignment (i : Instr) : (s.pushDue i).assignment = s.assignment := rfl
@[simp] theorem State.pushDue_clockStep (i : Instr) : (s.pushDue i).clockStep = s.clockStep := rfl
@[simp] theorem State.pushDue_powerLimit (i : Instr) : (s.pushDue i).powerLimit = s.powerLimit := rfl
@[simp] theorem State.pushDue_shutdown (i : Instr) : (s.pushDue i).shutdown = s.shutdown := rfl
@[simp] theorem State.pushDue_layers (i : Instr) : (s.pushDue i).layers = s.layers := rfl
@[simp] theorem State.pushDue_capSeq (i : Instr) : (s.pushDue i).capSeq = s.capSeq := rfl
@[simp] theorem State.pushDue_ports (i : Instr) : (s.pushDue i).ports = s.ports := rfl
@[simp] theorem State.pushDue_records (i : Instr) : (s.pushDue i).records = s.records := rfl
@[simp] theorem State.pushDue_lastServed (i : Instr) : (s.pushDue i).lastServed = s.lastServed := rfl
@[simp] theorem State.pushDue_sidingEvents (i : Instr) : (s.pushDue i).sidingEvents = s.sidingEvents := rfl
@[simp] theorem State.pushDue_tlb (i : Instr) : (s.pushDue i).tlb = s.tlb := rfl
@[simp] theorem State.pushDue_ualOut (i : Instr) : (s.pushDue i).ualOut = s.ualOut := rfl
@[simp] theorem State.pushDue_peers (i : Instr) : (s.pushDue i).peers = s.peers := rfl
@[simp] theorem State.pushDue_chans (i : Instr) : (s.pushDue i).chans = s.chans := rfl
@[simp] theorem State.pushDue_rowCtr (i : Instr) : (s.pushDue i).rowCtr = s.rowCtr := rfl
@[simp] theorem State.pushDue_cores (i : Instr) : (s.pushDue i).cores = s.cores := rfl
@[simp] theorem State.pushDue_ctxs (i : Instr) : (s.pushDue i).ctxs = s.ctxs := rfl
@[simp] theorem State.pushDue_grids (i : Instr) : (s.pushDue i).grids = s.grids := rfl
@[simp] theorem State.pushDue_teams (i : Instr) : (s.pushDue i).teams = s.teams := rfl
@[simp] theorem State.pushDue_waves (i : Instr) : (s.pushDue i).waves = s.waves := rfl
@[simp] theorem State.pushDue_reqs (i : Instr) : (s.pushDue i).reqs = s.reqs := rfl
@[simp] theorem State.pushDue_waiting (i : Instr) : (s.pushDue i).waiting = s.waiting := rfl
@[simp] theorem State.pushDue_xfers (i : Instr) : (s.pushDue i).xfers = s.xfers := rfl
@[simp] theorem State.pushDue_csigs (i : Instr) : (s.pushDue i).csigs = s.csigs := rfl
@[simp] theorem State.pushDue_colls (i : Instr) : (s.pushDue i).colls = s.colls := rfl
@[simp] theorem State.pushDue_updates (i : Instr) : (s.pushDue i).updates = s.updates := rfl
@[simp] theorem State.pushDue_ualIn (i : Instr) : (s.pushDue i).ualIn = s.ualIn := rfl
@[simp] theorem State.pushDue_heldBytes (i : Instr) : (s.pushDue i).heldBytes = s.heldBytes := rfl
@[simp] theorem State.pushDue_held (i : Instr) : (s.pushDue i).held = s.held := rfl
@[simp] theorem State.pushDue_stalls (i : Instr) : (s.pushDue i).stalls = s.stalls := rfl
@[simp] theorem State.pushDue_launches (i : Instr) : (s.pushDue i).launches = s.launches := rfl
@[simp] theorem State.pushDue_nextId (i : Instr) : (s.pushDue i).nextId = s.nextId := rfl
@[simp] theorem State.pushDue_fresh (i : Instr) : (s.pushDue i).fresh = s.fresh := rfl
@[simp] theorem State.pushDue_agenda (i : Instr) : (s.pushDue i).agenda = s.agenda := rfl
@[simp] theorem State.pushDue_due (i : Instr) : (s.pushDue i).due = s.due ++ [i] := rfl
@[simp] theorem State.pushDue_cur (i : Instr) : (s.pushDue i).cur = s.cur := rfl

@[simp] theorem State.emit_mem (r : BitVec 512) : (s.emit r).mem = s.mem := rfl
@[simp] theorem State.emit_stores (r : BitVec 512) : (s.emit r).stores = s.stores := rfl
@[simp] theorem State.emit_retired (r : BitVec 512) : (s.emit r).retired = s.retired := rfl
@[simp] theorem State.emit_badBlocks (r : BitVec 512) : (s.emit r).badBlocks = s.badBlocks := rfl
@[simp] theorem State.emit_errLog (r : BitVec 512) : (s.emit r).errLog = s.errLog := rfl
@[simp] theorem State.emit_booted (r : BitVec 512) : (s.emit r).booted = s.booted := rfl
@[simp] theorem State.emit_recovery (r : BitVec 512) : (s.emit r).recovery = s.recovery := rfl
@[simp] theorem State.emit_record (r : BitVec 512) : (s.emit r).record = s.record := rfl
@[simp] theorem State.emit_assignment (r : BitVec 512) : (s.emit r).assignment = s.assignment := rfl
@[simp] theorem State.emit_clockStep (r : BitVec 512) : (s.emit r).clockStep = s.clockStep := rfl
@[simp] theorem State.emit_powerLimit (r : BitVec 512) : (s.emit r).powerLimit = s.powerLimit := rfl
@[simp] theorem State.emit_shutdown (r : BitVec 512) : (s.emit r).shutdown = s.shutdown := rfl
@[simp] theorem State.emit_layers (r : BitVec 512) : (s.emit r).layers = s.layers := rfl
@[simp] theorem State.emit_capSeq (r : BitVec 512) : (s.emit r).capSeq = s.capSeq := rfl
@[simp] theorem State.emit_ports (r : BitVec 512) : (s.emit r).ports = s.ports := rfl
@[simp] theorem State.emit_records (r : BitVec 512) : (s.emit r).records = s.records ++ [r] := rfl
@[simp] theorem State.emit_lastServed (r : BitVec 512) : (s.emit r).lastServed = s.lastServed := rfl
@[simp] theorem State.emit_sidingEvents (r : BitVec 512) : (s.emit r).sidingEvents = s.sidingEvents := rfl
@[simp] theorem State.emit_tlb (r : BitVec 512) : (s.emit r).tlb = s.tlb := rfl
@[simp] theorem State.emit_ualOut (r : BitVec 512) : (s.emit r).ualOut = s.ualOut := rfl
@[simp] theorem State.emit_peers (r : BitVec 512) : (s.emit r).peers = s.peers := rfl
@[simp] theorem State.emit_chans (r : BitVec 512) : (s.emit r).chans = s.chans := rfl
@[simp] theorem State.emit_rowCtr (r : BitVec 512) : (s.emit r).rowCtr = s.rowCtr := rfl
@[simp] theorem State.emit_cores (r : BitVec 512) : (s.emit r).cores = s.cores := rfl
@[simp] theorem State.emit_ctxs (r : BitVec 512) : (s.emit r).ctxs = s.ctxs := rfl
@[simp] theorem State.emit_grids (r : BitVec 512) : (s.emit r).grids = s.grids := rfl
@[simp] theorem State.emit_teams (r : BitVec 512) : (s.emit r).teams = s.teams := rfl
@[simp] theorem State.emit_waves (r : BitVec 512) : (s.emit r).waves = s.waves := rfl
@[simp] theorem State.emit_reqs (r : BitVec 512) : (s.emit r).reqs = s.reqs := rfl
@[simp] theorem State.emit_waiting (r : BitVec 512) : (s.emit r).waiting = s.waiting := rfl
@[simp] theorem State.emit_xfers (r : BitVec 512) : (s.emit r).xfers = s.xfers := rfl
@[simp] theorem State.emit_csigs (r : BitVec 512) : (s.emit r).csigs = s.csigs := rfl
@[simp] theorem State.emit_colls (r : BitVec 512) : (s.emit r).colls = s.colls := rfl
@[simp] theorem State.emit_updates (r : BitVec 512) : (s.emit r).updates = s.updates := rfl
@[simp] theorem State.emit_ualIn (r : BitVec 512) : (s.emit r).ualIn = s.ualIn := rfl
@[simp] theorem State.emit_heldBytes (r : BitVec 512) : (s.emit r).heldBytes = s.heldBytes := rfl
@[simp] theorem State.emit_held (r : BitVec 512) : (s.emit r).held = s.held := rfl
@[simp] theorem State.emit_stalls (r : BitVec 512) : (s.emit r).stalls = s.stalls := rfl
@[simp] theorem State.emit_launches (r : BitVec 512) : (s.emit r).launches = s.launches := rfl
@[simp] theorem State.emit_nextId (r : BitVec 512) : (s.emit r).nextId = s.nextId := rfl
@[simp] theorem State.emit_fresh (r : BitVec 512) : (s.emit r).fresh = s.fresh := rfl
@[simp] theorem State.emit_agenda (r : BitVec 512) : (s.emit r).agenda = s.agenda := rfl
@[simp] theorem State.emit_due (r : BitVec 512) : (s.emit r).due = s.due := rfl
@[simp] theorem State.emit_cur (r : BitVec 512) : (s.emit r).cur = s.cur := rfl

@[simp] theorem State.owe_mem (t : TeamId) (up : Bool) : (s.owe t up).mem = s.mem := rfl
@[simp] theorem State.owe_stores (t : TeamId) (up : Bool) : (s.owe t up).stores = s.stores := rfl
@[simp] theorem State.owe_retired (t : TeamId) (up : Bool) : (s.owe t up).retired = s.retired := rfl
@[simp] theorem State.owe_badBlocks (t : TeamId) (up : Bool) : (s.owe t up).badBlocks = s.badBlocks := rfl
@[simp] theorem State.owe_errLog (t : TeamId) (up : Bool) : (s.owe t up).errLog = s.errLog := rfl
@[simp] theorem State.owe_booted (t : TeamId) (up : Bool) : (s.owe t up).booted = s.booted := rfl
@[simp] theorem State.owe_recovery (t : TeamId) (up : Bool) : (s.owe t up).recovery = s.recovery := rfl
@[simp] theorem State.owe_record (t : TeamId) (up : Bool) : (s.owe t up).record = s.record := rfl
@[simp] theorem State.owe_assignment (t : TeamId) (up : Bool) : (s.owe t up).assignment = s.assignment := rfl
@[simp] theorem State.owe_clockStep (t : TeamId) (up : Bool) : (s.owe t up).clockStep = s.clockStep := rfl
@[simp] theorem State.owe_powerLimit (t : TeamId) (up : Bool) : (s.owe t up).powerLimit = s.powerLimit := rfl
@[simp] theorem State.owe_shutdown (t : TeamId) (up : Bool) : (s.owe t up).shutdown = s.shutdown := rfl
@[simp] theorem State.owe_layers (t : TeamId) (up : Bool) : (s.owe t up).layers = s.layers := rfl
@[simp] theorem State.owe_capSeq (t : TeamId) (up : Bool) : (s.owe t up).capSeq = s.capSeq := rfl
@[simp] theorem State.owe_ports (t : TeamId) (up : Bool) : (s.owe t up).ports = s.ports := rfl
@[simp] theorem State.owe_records (t : TeamId) (up : Bool) : (s.owe t up).records = s.records := rfl
@[simp] theorem State.owe_lastServed (t : TeamId) (up : Bool) : (s.owe t up).lastServed = s.lastServed := rfl
@[simp] theorem State.owe_sidingEvents (t : TeamId) (up : Bool) : (s.owe t up).sidingEvents = s.sidingEvents := rfl
@[simp] theorem State.owe_tlb (t : TeamId) (up : Bool) : (s.owe t up).tlb = s.tlb := rfl
@[simp] theorem State.owe_ualOut (t : TeamId) (up : Bool) : (s.owe t up).ualOut = s.ualOut := rfl
@[simp] theorem State.owe_peers (t : TeamId) (up : Bool) : (s.owe t up).peers = s.peers := rfl
@[simp] theorem State.owe_chans (t : TeamId) (up : Bool) : (s.owe t up).chans = s.chans := rfl
@[simp] theorem State.owe_rowCtr (t : TeamId) (up : Bool) : (s.owe t up).rowCtr = s.rowCtr := rfl
@[simp] theorem State.owe_cores (t : TeamId) (up : Bool) : (s.owe t up).cores = s.cores := rfl
@[simp] theorem State.owe_ctxs (t : TeamId) (up : Bool) : (s.owe t up).ctxs = s.ctxs := rfl
@[simp] theorem State.owe_grids (t : TeamId) (up : Bool) : (s.owe t up).grids = s.grids := rfl
@[simp] theorem State.owe_waves (t : TeamId) (up : Bool) : (s.owe t up).waves = s.waves := rfl
@[simp] theorem State.owe_reqs (t : TeamId) (up : Bool) : (s.owe t up).reqs = s.reqs := rfl
@[simp] theorem State.owe_waiting (t : TeamId) (up : Bool) : (s.owe t up).waiting = s.waiting := rfl
@[simp] theorem State.owe_xfers (t : TeamId) (up : Bool) : (s.owe t up).xfers = s.xfers := rfl
@[simp] theorem State.owe_csigs (t : TeamId) (up : Bool) : (s.owe t up).csigs = s.csigs := rfl
@[simp] theorem State.owe_colls (t : TeamId) (up : Bool) : (s.owe t up).colls = s.colls := rfl
@[simp] theorem State.owe_updates (t : TeamId) (up : Bool) : (s.owe t up).updates = s.updates := rfl
@[simp] theorem State.owe_ualIn (t : TeamId) (up : Bool) : (s.owe t up).ualIn = s.ualIn := rfl
@[simp] theorem State.owe_heldBytes (t : TeamId) (up : Bool) : (s.owe t up).heldBytes = s.heldBytes := rfl
@[simp] theorem State.owe_held (t : TeamId) (up : Bool) : (s.owe t up).held = s.held := rfl
@[simp] theorem State.owe_stalls (t : TeamId) (up : Bool) : (s.owe t up).stalls = s.stalls := rfl
@[simp] theorem State.owe_launches (t : TeamId) (up : Bool) : (s.owe t up).launches = s.launches := rfl
@[simp] theorem State.owe_nextId (t : TeamId) (up : Bool) : (s.owe t up).nextId = s.nextId := rfl
@[simp] theorem State.owe_fresh (t : TeamId) (up : Bool) : (s.owe t up).fresh = s.fresh := rfl
@[simp] theorem State.owe_agenda (t : TeamId) (up : Bool) : (s.owe t up).agenda = s.agenda := rfl
@[simp] theorem State.owe_due (t : TeamId) (up : Bool) : (s.owe t up).due = s.due := rfl
@[simp] theorem State.owe_cur (t : TeamId) (up : Bool) : (s.owe t up).cur = s.cur := rfl

@[simp] theorem State.storeBytes_mem (pa : Nat) (bs : List Byte) : (s.storeBytes pa bs).mem = s.mem := rfl
@[simp] theorem State.storeBytes_errLog (pa : Nat) (bs : List Byte) : (s.storeBytes pa bs).errLog = s.errLog := rfl
@[simp] theorem State.storeBytes_booted (pa : Nat) (bs : List Byte) : (s.storeBytes pa bs).booted = s.booted := rfl
@[simp] theorem State.storeBytes_recovery (pa : Nat) (bs : List Byte) : (s.storeBytes pa bs).recovery = s.recovery := rfl
@[simp] theorem State.storeBytes_record (pa : Nat) (bs : List Byte) : (s.storeBytes pa bs).record = s.record := rfl
@[simp] theorem State.storeBytes_assignment (pa : Nat) (bs : List Byte) : (s.storeBytes pa bs).assignment = s.assignment := rfl
@[simp] theorem State.storeBytes_clockStep (pa : Nat) (bs : List Byte) : (s.storeBytes pa bs).clockStep = s.clockStep := rfl
@[simp] theorem State.storeBytes_powerLimit (pa : Nat) (bs : List Byte) : (s.storeBytes pa bs).powerLimit = s.powerLimit := rfl
@[simp] theorem State.storeBytes_shutdown (pa : Nat) (bs : List Byte) : (s.storeBytes pa bs).shutdown = s.shutdown := rfl
@[simp] theorem State.storeBytes_layers (pa : Nat) (bs : List Byte) : (s.storeBytes pa bs).layers = s.layers := rfl
@[simp] theorem State.storeBytes_capSeq (pa : Nat) (bs : List Byte) : (s.storeBytes pa bs).capSeq = s.capSeq := rfl
@[simp] theorem State.storeBytes_ports (pa : Nat) (bs : List Byte) : (s.storeBytes pa bs).ports = s.ports := rfl
@[simp] theorem State.storeBytes_records (pa : Nat) (bs : List Byte) : (s.storeBytes pa bs).records = s.records := rfl
@[simp] theorem State.storeBytes_lastServed (pa : Nat) (bs : List Byte) : (s.storeBytes pa bs).lastServed = s.lastServed := rfl
@[simp] theorem State.storeBytes_sidingEvents (pa : Nat) (bs : List Byte) : (s.storeBytes pa bs).sidingEvents = s.sidingEvents := rfl
@[simp] theorem State.storeBytes_tlb (pa : Nat) (bs : List Byte) : (s.storeBytes pa bs).tlb = s.tlb := rfl
@[simp] theorem State.storeBytes_ualOut (pa : Nat) (bs : List Byte) : (s.storeBytes pa bs).ualOut = s.ualOut := rfl
@[simp] theorem State.storeBytes_peers (pa : Nat) (bs : List Byte) : (s.storeBytes pa bs).peers = s.peers := rfl
@[simp] theorem State.storeBytes_chans (pa : Nat) (bs : List Byte) : (s.storeBytes pa bs).chans = s.chans := rfl
@[simp] theorem State.storeBytes_rowCtr (pa : Nat) (bs : List Byte) : (s.storeBytes pa bs).rowCtr = s.rowCtr := rfl
@[simp] theorem State.storeBytes_cores (pa : Nat) (bs : List Byte) : (s.storeBytes pa bs).cores = s.cores := rfl
@[simp] theorem State.storeBytes_ctxs (pa : Nat) (bs : List Byte) : (s.storeBytes pa bs).ctxs = s.ctxs := rfl
@[simp] theorem State.storeBytes_grids (pa : Nat) (bs : List Byte) : (s.storeBytes pa bs).grids = s.grids := rfl
@[simp] theorem State.storeBytes_teams (pa : Nat) (bs : List Byte) : (s.storeBytes pa bs).teams = s.teams := rfl
@[simp] theorem State.storeBytes_waves (pa : Nat) (bs : List Byte) : (s.storeBytes pa bs).waves = s.waves := rfl
@[simp] theorem State.storeBytes_reqs (pa : Nat) (bs : List Byte) : (s.storeBytes pa bs).reqs = s.reqs := rfl
@[simp] theorem State.storeBytes_waiting (pa : Nat) (bs : List Byte) : (s.storeBytes pa bs).waiting = s.waiting := rfl
@[simp] theorem State.storeBytes_xfers (pa : Nat) (bs : List Byte) : (s.storeBytes pa bs).xfers = s.xfers := rfl
@[simp] theorem State.storeBytes_csigs (pa : Nat) (bs : List Byte) : (s.storeBytes pa bs).csigs = s.csigs := rfl
@[simp] theorem State.storeBytes_colls (pa : Nat) (bs : List Byte) : (s.storeBytes pa bs).colls = s.colls := rfl
@[simp] theorem State.storeBytes_updates (pa : Nat) (bs : List Byte) : (s.storeBytes pa bs).updates = s.updates := rfl
@[simp] theorem State.storeBytes_ualIn (pa : Nat) (bs : List Byte) : (s.storeBytes pa bs).ualIn = s.ualIn := rfl
@[simp] theorem State.storeBytes_heldBytes (pa : Nat) (bs : List Byte) : (s.storeBytes pa bs).heldBytes = s.heldBytes := rfl
@[simp] theorem State.storeBytes_held (pa : Nat) (bs : List Byte) : (s.storeBytes pa bs).held = s.held := rfl
@[simp] theorem State.storeBytes_stalls (pa : Nat) (bs : List Byte) : (s.storeBytes pa bs).stalls = s.stalls := rfl
@[simp] theorem State.storeBytes_launches (pa : Nat) (bs : List Byte) : (s.storeBytes pa bs).launches = s.launches := rfl
@[simp] theorem State.storeBytes_nextId (pa : Nat) (bs : List Byte) : (s.storeBytes pa bs).nextId = s.nextId := rfl
@[simp] theorem State.storeBytes_fresh (pa : Nat) (bs : List Byte) : (s.storeBytes pa bs).fresh = s.fresh := rfl
@[simp] theorem State.storeBytes_agenda (pa : Nat) (bs : List Byte) : (s.storeBytes pa bs).agenda = s.agenda := rfl
@[simp] theorem State.storeBytes_due (pa : Nat) (bs : List Byte) : (s.storeBytes pa bs).due = s.due := rfl
@[simp] theorem State.storeBytes_cur (pa : Nat) (bs : List Byte) : (s.storeBytes pa bs).cur = s.cur := rfl

variable (w : Wave)

@[simp] theorem Wave.updThread_id (l : Nat) (f : Thread → Thread) : (w.updThread l f).id = w.id := rfl
@[simp] theorem Wave.updThread_role (l : Nat) (f : Thread → Thread) : (w.updThread l f).role = w.role := rfl
@[simp] theorem Wave.updThread_core (l : Nat) (f : Thread → Thread) : (w.updThread l f).core = w.core := rfl
@[simp] theorem Wave.updThread_bay (l : Nat) (f : Thread → Thread) : (w.updThread l f).bay = w.bay := rfl
@[simp] theorem Wave.updThread_place (l : Nat) (f : Thread → Thread) : (w.updThread l f).place = w.place := rfl
@[simp] theorem Wave.updThread_nregs (l : Nat) (f : Thread → Thread) : (w.updThread l f).nregs = w.nregs := rfl
@[simp] theorem Wave.updThread_bpc (l : Nat) (f : Thread → Thread) : (w.updThread l f).bpc = w.bpc := rfl
@[simp] theorem Wave.updThread_fair (l : Nat) (f : Thread → Thread) : (w.updThread l f).fair = w.fair := rfl
@[simp] theorem Wave.updThread_fair1 (l : Nat) (f : Thread → Thread) : (w.updThread l f).fair1 = w.fair1 := rfl
@[simp] theorem Wave.updThread_fair2 (l : Nat) (f : Thread → Thread) : (w.updThread l f).fair2 = w.fair2 := rfl
@[simp] theorem Wave.updThread_s (l : Nat) (f : Thread → Thread) : (w.updThread l f).s = w.s := rfl
@[simp] theorem Wave.updThread_v (l : Nat) (f : Thread → Thread) : (w.updThread l f).v = w.v := rfl
@[simp] theorem Wave.updThread_empties (l : Nat) (f : Thread → Thread) : (w.updThread l f).empties = w.empties := rfl
@[simp] theorem Wave.updThread_failed (l : Nat) (f : Thread → Thread) : (w.updThread l f).failed = w.failed := rfl
@[simp] theorem Wave.updThread_flags (l : Nat) (f : Thread → Thread) : (w.updThread l f).flags = w.flags := rfl
@[simp] theorem Wave.updThread_srkey (l : Nat) (f : Thread → Thread) : (w.updThread l f).srkey = w.srkey := rfl
@[simp] theorem Wave.updThread_wlrange (l : Nat) (f : Thread → Thread) : (w.updThread l f).wlrange = w.wlrange := rfl
@[simp] theorem Wave.updThread_dslack (l : Nat) (f : Thread → Thread) : (w.updThread l f).dslack = w.dslack := rfl
@[simp] theorem Wave.updThread_badRegs (l : Nat) (f : Thread → Thread) : (w.updThread l f).badRegs = w.badRegs := rfl
@[simp] theorem Wave.updThread_saver (l : Nat) (f : Thread → Thread) : (w.updThread l f).saver = w.saver := rfl
@[simp] theorem Wave.updThread_others (l : Nat) (f : Thread → Thread) : (w.updThread l f).others = w.others := rfl
@[simp] theorem Wave.updThread_prioGrid (l : Nat) (f : Thread → Thread) : (w.updThread l f).prioGrid = w.prioGrid := rfl
@[simp] theorem Wave.updThread_prioLevel (l : Nat) (f : Thread → Thread) : (w.updThread l f).prioLevel = w.prioLevel := rfl
@[simp] theorem Wave.updThread_prioUse (l : Nat) (f : Thread → Thread) : (w.updThread l f).prioUse = w.prioUse := rfl
@[simp] theorem Wave.updThread_handler (l : Nat) (f : Thread → Thread) : (w.updThread l f).handler = w.handler := rfl
@[simp] theorem Wave.updThread_tlevel (l : Nat) (f : Thread → Thread) : (w.updThread l f).tlevel = w.tlevel := rfl
@[simp] theorem Wave.updThread_tskid (l : Nat) (f : Thread → Thread) : (w.updThread l f).tskid = w.tskid := rfl
@[simp] theorem Wave.updThread_bank1 (l : Nat) (f : Thread → Thread) : (w.updThread l f).bank1 = w.bank1 := rfl
@[simp] theorem Wave.updThread_bank2 (l : Nat) (f : Thread → Thread) : (w.updThread l f).bank2 = w.bank2 := rfl
@[simp] theorem Wave.updThread_joins (l : Nat) (f : Thread → Thread) : (w.updThread l f).joins = w.joins := rfl
@[simp] theorem Wave.updThread_ring (l : Nat) (f : Thread → Thread) : (w.updThread l f).ring = w.ring := rfl
@[simp] theorem Wave.updThread_decPos (l : Nat) (f : Thread → Thread) : (w.updThread l f).decPos = w.decPos := rfl
@[simp] theorem Wave.updThread_active (l : Nat) (f : Thread → Thread) : (w.updThread l f).active = w.active := rfl
@[simp] theorem Wave.updThread_age (l : Nat) (f : Thread → Thread) : (w.updThread l f).age = w.age := rfl
@[simp] theorem Wave.updThread_blockedFor (l : Nat) (f : Thread → Thread) : (w.updThread l f).blockedFor = w.blockedFor := rfl
@[simp] theorem Wave.updThread_yielded (l : Nat) (f : Thread → Thread) : (w.updThread l f).yielded = w.yielded := rfl
@[simp] theorem Wave.updThread_resident (l : Nat) (f : Thread → Thread) : (w.updThread l f).resident = w.resident := rfl
@[simp] theorem Wave.updThread_moves (l : Nat) (f : Thread → Thread) : (w.updThread l f).moves = w.moves := rfl
@[simp] theorem Wave.updThread_halt (l : Nat) (f : Thread → Thread) : (w.updThread l f).halt = w.halt := rfl
@[simp] theorem Wave.updThread_firstFetch (l : Nat) (f : Thread → Thread) : (w.updThread l f).firstFetch = w.firstFetch := rfl
@[simp] theorem Wave.updThread_entry (l : Nat) (f : Thread → Thread) : (w.updThread l f).entry = w.entry := rfl
@[simp] theorem Wave.updThread_hold (l : Nat) (f : Thread → Thread) : (w.updThread l f).hold = w.hold := rfl
@[simp] theorem Wave.updThread_issued (l : Nat) (f : Thread → Thread) : (w.updThread l f).issued = w.issued := rfl

@[simp] theorem Wave.setS_id (n : Nat) (v : DWord) : (w.setS n v).id = w.id := rfl
@[simp] theorem Wave.setS_role (n : Nat) (v : DWord) : (w.setS n v).role = w.role := rfl
@[simp] theorem Wave.setS_core (n : Nat) (v : DWord) : (w.setS n v).core = w.core := rfl
@[simp] theorem Wave.setS_bay (n : Nat) (v : DWord) : (w.setS n v).bay = w.bay := rfl
@[simp] theorem Wave.setS_place (n : Nat) (v : DWord) : (w.setS n v).place = w.place := rfl
@[simp] theorem Wave.setS_nregs (n : Nat) (v : DWord) : (w.setS n v).nregs = w.nregs := rfl
@[simp] theorem Wave.setS_bpc (n : Nat) (v : DWord) : (w.setS n v).bpc = w.bpc := rfl
@[simp] theorem Wave.setS_fair (n : Nat) (v : DWord) : (w.setS n v).fair = w.fair := rfl
@[simp] theorem Wave.setS_fair1 (n : Nat) (v : DWord) : (w.setS n v).fair1 = w.fair1 := rfl
@[simp] theorem Wave.setS_fair2 (n : Nat) (v : DWord) : (w.setS n v).fair2 = w.fair2 := rfl
@[simp] theorem Wave.setS_v (n : Nat) (v : DWord) : (w.setS n v).v = w.v := rfl
@[simp] theorem Wave.setS_empties (n : Nat) (v : DWord) : (w.setS n v).empties = w.empties := rfl
@[simp] theorem Wave.setS_failed (n : Nat) (v : DWord) : (w.setS n v).failed = w.failed := rfl
@[simp] theorem Wave.setS_threads (n : Nat) (v : DWord) : (w.setS n v).threads = w.threads := rfl
@[simp] theorem Wave.setS_flags (n : Nat) (v : DWord) : (w.setS n v).flags = w.flags := rfl
@[simp] theorem Wave.setS_srkey (n : Nat) (v : DWord) : (w.setS n v).srkey = w.srkey := rfl
@[simp] theorem Wave.setS_wlrange (n : Nat) (v : DWord) : (w.setS n v).wlrange = w.wlrange := rfl
@[simp] theorem Wave.setS_dslack (n : Nat) (v : DWord) : (w.setS n v).dslack = w.dslack := rfl
@[simp] theorem Wave.setS_badRegs (n : Nat) (v : DWord) : (w.setS n v).badRegs = w.badRegs.filter (fun q => q != (0, 384 + n)) := rfl
@[simp] theorem Wave.setS_saver (n : Nat) (v : DWord) : (w.setS n v).saver = w.saver := rfl
@[simp] theorem Wave.setS_others (n : Nat) (v : DWord) : (w.setS n v).others = w.others := rfl
@[simp] theorem Wave.setS_prioGrid (n : Nat) (v : DWord) : (w.setS n v).prioGrid = w.prioGrid := rfl
@[simp] theorem Wave.setS_prioLevel (n : Nat) (v : DWord) : (w.setS n v).prioLevel = w.prioLevel := rfl
@[simp] theorem Wave.setS_prioUse (n : Nat) (v : DWord) : (w.setS n v).prioUse = w.prioUse := rfl
@[simp] theorem Wave.setS_handler (n : Nat) (v : DWord) : (w.setS n v).handler = w.handler := rfl
@[simp] theorem Wave.setS_tlevel (n : Nat) (v : DWord) : (w.setS n v).tlevel = w.tlevel := rfl
@[simp] theorem Wave.setS_tskid (n : Nat) (v : DWord) : (w.setS n v).tskid = w.tskid := rfl
@[simp] theorem Wave.setS_bank1 (n : Nat) (v : DWord) : (w.setS n v).bank1 = w.bank1 := rfl
@[simp] theorem Wave.setS_bank2 (n : Nat) (v : DWord) : (w.setS n v).bank2 = w.bank2 := rfl
@[simp] theorem Wave.setS_joins (n : Nat) (v : DWord) : (w.setS n v).joins = w.joins := rfl
@[simp] theorem Wave.setS_ring (n : Nat) (v : DWord) : (w.setS n v).ring = w.ring := rfl
@[simp] theorem Wave.setS_decPos (n : Nat) (v : DWord) : (w.setS n v).decPos = w.decPos := rfl
@[simp] theorem Wave.setS_active (n : Nat) (v : DWord) : (w.setS n v).active = w.active := rfl
@[simp] theorem Wave.setS_age (n : Nat) (v : DWord) : (w.setS n v).age = w.age := rfl
@[simp] theorem Wave.setS_blockedFor (n : Nat) (v : DWord) : (w.setS n v).blockedFor = w.blockedFor := rfl
@[simp] theorem Wave.setS_yielded (n : Nat) (v : DWord) : (w.setS n v).yielded = w.yielded := rfl
@[simp] theorem Wave.setS_resident (n : Nat) (v : DWord) : (w.setS n v).resident = w.resident := rfl
@[simp] theorem Wave.setS_moves (n : Nat) (v : DWord) : (w.setS n v).moves = w.moves := rfl
@[simp] theorem Wave.setS_halt (n : Nat) (v : DWord) : (w.setS n v).halt = w.halt := rfl
@[simp] theorem Wave.setS_firstFetch (n : Nat) (v : DWord) : (w.setS n v).firstFetch = w.firstFetch := rfl
@[simp] theorem Wave.setS_entry (n : Nat) (v : DWord) : (w.setS n v).entry = w.entry := rfl
@[simp] theorem Wave.setS_hold (n : Nat) (v : DWord) : (w.setS n v).hold = w.hold := rfl
@[simp] theorem Wave.setS_issued (n : Nat) (v : DWord) : (w.setS n v).issued = w.issued := rfl

@[simp] theorem Wave.setV_id (l r : Nat) (x : Word) : (w.setV l r x).id = w.id := rfl
@[simp] theorem Wave.setV_role (l r : Nat) (x : Word) : (w.setV l r x).role = w.role := rfl
@[simp] theorem Wave.setV_core (l r : Nat) (x : Word) : (w.setV l r x).core = w.core := rfl
@[simp] theorem Wave.setV_bay (l r : Nat) (x : Word) : (w.setV l r x).bay = w.bay := rfl
@[simp] theorem Wave.setV_place (l r : Nat) (x : Word) : (w.setV l r x).place = w.place := rfl
@[simp] theorem Wave.setV_nregs (l r : Nat) (x : Word) : (w.setV l r x).nregs = w.nregs := rfl
@[simp] theorem Wave.setV_bpc (l r : Nat) (x : Word) : (w.setV l r x).bpc = w.bpc := rfl
@[simp] theorem Wave.setV_fair (l r : Nat) (x : Word) : (w.setV l r x).fair = w.fair := rfl
@[simp] theorem Wave.setV_fair1 (l r : Nat) (x : Word) : (w.setV l r x).fair1 = w.fair1 := rfl
@[simp] theorem Wave.setV_fair2 (l r : Nat) (x : Word) : (w.setV l r x).fair2 = w.fair2 := rfl
@[simp] theorem Wave.setV_s (l r : Nat) (x : Word) : (w.setV l r x).s = w.s := rfl
@[simp] theorem Wave.setV_empties (l r : Nat) (x : Word) : (w.setV l r x).empties = w.empties.filter (· != (vkey l r, 0)) := rfl
@[simp] theorem Wave.setV_threads (l r : Nat) (x : Word) : (w.setV l r x).threads = w.threads := rfl
@[simp] theorem Wave.setV_flags (l r : Nat) (x : Word) : (w.setV l r x).flags = w.flags := rfl
@[simp] theorem Wave.setV_srkey (l r : Nat) (x : Word) : (w.setV l r x).srkey = w.srkey := rfl
@[simp] theorem Wave.setV_wlrange (l r : Nat) (x : Word) : (w.setV l r x).wlrange = w.wlrange := rfl
@[simp] theorem Wave.setV_dslack (l r : Nat) (x : Word) : (w.setV l r x).dslack = w.dslack := rfl
@[simp] theorem Wave.setV_badRegs (l r : Nat) (x : Word) : (w.setV l r x).badRegs = w.badRegs.filter (fun q => q != (l, r)) := rfl
@[simp] theorem Wave.setV_saver (l r : Nat) (x : Word) : (w.setV l r x).saver = w.saver := rfl
@[simp] theorem Wave.setV_others (l r : Nat) (x : Word) : (w.setV l r x).others = w.others := rfl
@[simp] theorem Wave.setV_prioGrid (l r : Nat) (x : Word) : (w.setV l r x).prioGrid = w.prioGrid := rfl
@[simp] theorem Wave.setV_prioLevel (l r : Nat) (x : Word) : (w.setV l r x).prioLevel = w.prioLevel := rfl
@[simp] theorem Wave.setV_prioUse (l r : Nat) (x : Word) : (w.setV l r x).prioUse = w.prioUse := rfl
@[simp] theorem Wave.setV_handler (l r : Nat) (x : Word) : (w.setV l r x).handler = w.handler := rfl
@[simp] theorem Wave.setV_tlevel (l r : Nat) (x : Word) : (w.setV l r x).tlevel = w.tlevel := rfl
@[simp] theorem Wave.setV_tskid (l r : Nat) (x : Word) : (w.setV l r x).tskid = w.tskid := rfl
@[simp] theorem Wave.setV_bank1 (l r : Nat) (x : Word) : (w.setV l r x).bank1 = w.bank1 := rfl
@[simp] theorem Wave.setV_bank2 (l r : Nat) (x : Word) : (w.setV l r x).bank2 = w.bank2 := rfl
@[simp] theorem Wave.setV_joins (l r : Nat) (x : Word) : (w.setV l r x).joins = w.joins := rfl
@[simp] theorem Wave.setV_ring (l r : Nat) (x : Word) : (w.setV l r x).ring = w.ring := rfl
@[simp] theorem Wave.setV_decPos (l r : Nat) (x : Word) : (w.setV l r x).decPos = w.decPos := rfl
@[simp] theorem Wave.setV_active (l r : Nat) (x : Word) : (w.setV l r x).active = w.active := rfl
@[simp] theorem Wave.setV_age (l r : Nat) (x : Word) : (w.setV l r x).age = w.age := rfl
@[simp] theorem Wave.setV_blockedFor (l r : Nat) (x : Word) : (w.setV l r x).blockedFor = w.blockedFor := rfl
@[simp] theorem Wave.setV_yielded (l r : Nat) (x : Word) : (w.setV l r x).yielded = w.yielded := rfl
@[simp] theorem Wave.setV_resident (l r : Nat) (x : Word) : (w.setV l r x).resident = w.resident := rfl
@[simp] theorem Wave.setV_moves (l r : Nat) (x : Word) : (w.setV l r x).moves = w.moves := rfl
@[simp] theorem Wave.setV_halt (l r : Nat) (x : Word) : (w.setV l r x).halt = w.halt := rfl
@[simp] theorem Wave.setV_firstFetch (l r : Nat) (x : Word) : (w.setV l r x).firstFetch = w.firstFetch := rfl
@[simp] theorem Wave.setV_entry (l r : Nat) (x : Word) : (w.setV l r x).entry = w.entry := rfl
@[simp] theorem Wave.setV_hold (l r : Nat) (x : Word) : (w.setV l r x).hold = w.hold := rfl
@[simp] theorem Wave.setV_issued (l r : Nat) (x : Word) : (w.setV l r x).issued = w.issued := rfl

@[simp] theorem Wave.markEmpty_id (l r n req : Nat) : (w.markEmpty l r n req).id = w.id := rfl
@[simp] theorem Wave.markEmpty_role (l r n req : Nat) : (w.markEmpty l r n req).role = w.role := rfl
@[simp] theorem Wave.markEmpty_core (l r n req : Nat) : (w.markEmpty l r n req).core = w.core := rfl
@[simp] theorem Wave.markEmpty_bay (l r n req : Nat) : (w.markEmpty l r n req).bay = w.bay := rfl
@[simp] theorem Wave.markEmpty_place (l r n req : Nat) : (w.markEmpty l r n req).place = w.place := rfl
@[simp] theorem Wave.markEmpty_nregs (l r n req : Nat) : (w.markEmpty l r n req).nregs = w.nregs := rfl
@[simp] theorem Wave.markEmpty_bpc (l r n req : Nat) : (w.markEmpty l r n req).bpc = w.bpc := rfl
@[simp] theorem Wave.markEmpty_fair (l r n req : Nat) : (w.markEmpty l r n req).fair = w.fair := rfl
@[simp] theorem Wave.markEmpty_fair1 (l r n req : Nat) : (w.markEmpty l r n req).fair1 = w.fair1 := rfl
@[simp] theorem Wave.markEmpty_fair2 (l r n req : Nat) : (w.markEmpty l r n req).fair2 = w.fair2 := rfl
@[simp] theorem Wave.markEmpty_s (l r n req : Nat) : (w.markEmpty l r n req).s = w.s := rfl
@[simp] theorem Wave.markEmpty_v (l r n req : Nat) : (w.markEmpty l r n req).v = w.v := rfl
@[simp] theorem Wave.markEmpty_threads (l r n req : Nat) : (w.markEmpty l r n req).threads = w.threads := rfl
@[simp] theorem Wave.markEmpty_flags (l r n req : Nat) : (w.markEmpty l r n req).flags = w.flags := rfl
@[simp] theorem Wave.markEmpty_srkey (l r n req : Nat) : (w.markEmpty l r n req).srkey = w.srkey := rfl
@[simp] theorem Wave.markEmpty_wlrange (l r n req : Nat) : (w.markEmpty l r n req).wlrange = w.wlrange := rfl
@[simp] theorem Wave.markEmpty_dslack (l r n req : Nat) : (w.markEmpty l r n req).dslack = w.dslack := rfl
@[simp] theorem Wave.markEmpty_badRegs (l r n req : Nat) : (w.markEmpty l r n req).badRegs = w.badRegs := rfl
@[simp] theorem Wave.markEmpty_saver (l r n req : Nat) : (w.markEmpty l r n req).saver = w.saver := rfl
@[simp] theorem Wave.markEmpty_others (l r n req : Nat) : (w.markEmpty l r n req).others = w.others := rfl
@[simp] theorem Wave.markEmpty_prioGrid (l r n req : Nat) : (w.markEmpty l r n req).prioGrid = w.prioGrid := rfl
@[simp] theorem Wave.markEmpty_prioLevel (l r n req : Nat) : (w.markEmpty l r n req).prioLevel = w.prioLevel := rfl
@[simp] theorem Wave.markEmpty_prioUse (l r n req : Nat) : (w.markEmpty l r n req).prioUse = w.prioUse := rfl
@[simp] theorem Wave.markEmpty_handler (l r n req : Nat) : (w.markEmpty l r n req).handler = w.handler := rfl
@[simp] theorem Wave.markEmpty_tlevel (l r n req : Nat) : (w.markEmpty l r n req).tlevel = w.tlevel := rfl
@[simp] theorem Wave.markEmpty_tskid (l r n req : Nat) : (w.markEmpty l r n req).tskid = w.tskid := rfl
@[simp] theorem Wave.markEmpty_bank1 (l r n req : Nat) : (w.markEmpty l r n req).bank1 = w.bank1 := rfl
@[simp] theorem Wave.markEmpty_bank2 (l r n req : Nat) : (w.markEmpty l r n req).bank2 = w.bank2 := rfl
@[simp] theorem Wave.markEmpty_joins (l r n req : Nat) : (w.markEmpty l r n req).joins = w.joins := rfl
@[simp] theorem Wave.markEmpty_ring (l r n req : Nat) : (w.markEmpty l r n req).ring = w.ring := rfl
@[simp] theorem Wave.markEmpty_decPos (l r n req : Nat) : (w.markEmpty l r n req).decPos = w.decPos := rfl
@[simp] theorem Wave.markEmpty_active (l r n req : Nat) : (w.markEmpty l r n req).active = w.active := rfl
@[simp] theorem Wave.markEmpty_age (l r n req : Nat) : (w.markEmpty l r n req).age = w.age := rfl
@[simp] theorem Wave.markEmpty_blockedFor (l r n req : Nat) : (w.markEmpty l r n req).blockedFor = w.blockedFor := rfl
@[simp] theorem Wave.markEmpty_yielded (l r n req : Nat) : (w.markEmpty l r n req).yielded = w.yielded := rfl
@[simp] theorem Wave.markEmpty_resident (l r n req : Nat) : (w.markEmpty l r n req).resident = w.resident := rfl
@[simp] theorem Wave.markEmpty_moves (l r n req : Nat) : (w.markEmpty l r n req).moves = w.moves := rfl
@[simp] theorem Wave.markEmpty_halt (l r n req : Nat) : (w.markEmpty l r n req).halt = w.halt := rfl
@[simp] theorem Wave.markEmpty_firstFetch (l r n req : Nat) : (w.markEmpty l r n req).firstFetch = w.firstFetch := rfl
@[simp] theorem Wave.markEmpty_entry (l r n req : Nat) : (w.markEmpty l r n req).entry = w.entry := rfl
@[simp] theorem Wave.markEmpty_hold (l r n req : Nat) : (w.markEmpty l r n req).hold = w.hold := rfl
@[simp] theorem Wave.markEmpty_issued (l r n req : Nat) : (w.markEmpty l r n req).issued = w.issued := rfl

end Sys2Proof.Machine
end

