-- ==== Sys2Proof/Laws/Access.lean ====
section
/-!
SUPPORT. Reading a unit or a register after an update: the updated one gives the new value, every other the old.
-/
namespace Sys2Proof.Machine

theorem find?_map_upd {α : Type} (l : List α) (p q : α → Bool) (c : α → Prop) [DecidablePred c] (f : α → α)
    (hq : ∀ x, q (if c x then f x else x) = q x) (hpq : p = q) :
    (l.map (fun x => if c x then f x else x)).find? p = (l.find? p).map (fun x => if c x then f x else x) := by
  subst hpq
  induction l with
  | nil => rfl
  | cons a t ih =>
    simp only [List.map_cons, List.find?_cons, hq]
    cases p a <;> simp_all

/-- A wave after a wave's update. -/
theorem State.wave?_updWave (s : State) (w w' : WaveId) (f : Wave → Wave) (hf : ∀ x, (f x).id = x.id) :
    (s.updWave w f).wave? w' = (s.wave? w').map (fun x => if x.id = w then f x else x) := by
  unfold State.wave? State.updWave
  refine find?_map_upd s.waves _ _ (fun x => x.id = w) f (fun x => ?_) rfl
  by_cases h : x.id = w <;> simp [h, hf]

theorem State.wave?_id {s : State} {w : WaveId} {x : Wave} (h : s.wave? w = some x) : x.id = w := by
  simpa using List.find?_some h

/-- The updated wave. -/
theorem State.wave?_updWave_self {s : State} {w : WaveId} {x : Wave} (f : Wave → Wave) (hf : ∀ x, (f x).id = x.id)
    (h : s.wave? w = some x) : (s.updWave w f).wave? w = some (f x) := by
  rw [State.wave?_updWave s w w f hf, h]
  simp [State.wave?_id h]

/-- Another wave. -/
theorem State.wave?_updWave_ne {s : State} {w w' : WaveId} (f : Wave → Wave) (hf : ∀ x, (f x).id = x.id) (h : w' ≠ w) :
    (s.updWave w f).wave? w' = s.wave? w' := by
  rw [State.wave?_updWave s w w' f hf]
  cases hx : s.wave? w' with
  | none => rfl
  | some x => have := State.wave?_id hx; simp [this, h]

/-- A team after a team's update. -/
theorem State.team?_updTeam (s : State) (t t' : TeamId) (f : Team → Team) (hf : ∀ x, (f x).id = x.id) :
    (s.updTeam t f).team? t' = (s.team? t').map (fun x => if x.id = t then f x else x) := by
  unfold State.team? State.updTeam
  refine find?_map_upd s.teams _ _ (fun x => x.id = t) f (fun x => ?_) rfl
  by_cases h : x.id = t <;> simp [h, hf]

theorem State.team?_id {s : State} {t : TeamId} {x : Team} (h : s.team? t = some x) : x.id = t := by
  simpa using List.find?_some h

/-- The updated team. -/
theorem State.team?_updTeam_self {s : State} {t : TeamId} {x : Team} (f : Team → Team) (hf : ∀ x, (f x).id = x.id)
    (h : s.team? t = some x) : (s.updTeam t f).team? t = some (f x) := by
  rw [State.team?_updTeam s t t f hf, h]
  simp [State.team?_id h]

/-- A context after a context's update. -/
theorem State.ctx?_updCtx (s : State) (a a' : Nat) (f : Ctx → Ctx) (hf : ∀ x, (f x).asid = x.asid) :
    (s.updCtx a f).ctx? a' = (s.ctx? a').map (fun x => if x.asid = a then f x else x) := by
  unfold State.ctx? State.updCtx
  refine find?_map_upd s.ctxs _ _ (fun x => x.asid = a) f (fun x => ?_) rfl
  by_cases h : x.asid = a <;> simp [h, hf]

theorem State.ctx?_asid {s : State} {a : Nat} {x : Ctx} (h : s.ctx? a = some x) : x.asid = a := by
  simpa using List.find?_some h

/-- The updated context. -/
theorem State.ctx?_updCtx_self {s : State} {a : Nat} {x : Ctx} (f : Ctx → Ctx) (hf : ∀ x, (f x).asid = x.asid)
    (h : s.ctx? a = some x) : (s.updCtx a f).ctx? a = some (f x) := by
  rw [State.ctx?_updCtx s a a f hf, h]
  simp [State.ctx?_asid h]

/-- A grid after a grid's update. -/
theorem State.grid?_updGrid (s : State) (g g' : GridId) (f : Grid → Grid) (hf : ∀ x, (f x).id = x.id) :
    (s.updGrid g f).grid? g' = (s.grid? g').map (fun x => if x.id = g then f x else x) := by
  unfold State.grid? State.updGrid
  refine find?_map_upd s.grids _ _ (fun x => x.id = g) f (fun x => ?_) rfl
  by_cases h : x.id = g <;> simp [h, hf]

/-- A core after a core's update. -/
theorem State.core_updCore (s : State) (c c' : Nat) (f : Core → Core) :
    (s.updCore c f).core c' = if c = c' then f (s.core c) else s.core c' := by
  simp [State.updCore, State.core, cellGet_cellSet]

/-- The thread of a lane after a lane's update. -/
theorem Wave.thread_updThread (w : Wave) (l k : Nat) (f : Thread → Thread) :
    (w.updThread l f).thread k = if l = k then f (w.thread l) else w.thread k := by
  simp [Wave.updThread, Wave.thread, cellGet_cellSet]

/-- The threads after an update of some lanes, each named once. -/
theorem Wave.thread_updThreads (w : Wave) (ls : List Nat) (hn : ls.Nodup) (f : Nat → Thread → Thread) (k : Nat) :
    (w.updThreads ls f).thread k = if k ∈ ls then f k (w.thread k) else w.thread k := by
  unfold Wave.updThreads
  induction ls generalizing w with
  | nil => rfl
  | cons l t ih =>
    obtain ⟨hl, ht⟩ := List.nodup_cons.mp hn
    rw [List.foldl_cons, ih _ ht, Wave.thread_updThread]
    by_cases hk : l = k
    · subst hk; simp [hl]
    · have : k ≠ l := fun h => hk h.symm
      simp [hk, this]

/-- An update of threads changes nothing else in a wave. -/
theorem Wave.updThreads_eq (w : Wave) (ls : List Nat) (f : Nat → Thread → Thread) :
    w.updThreads ls f = { w with threads := (w.updThreads ls f).threads } := by
  unfold Wave.updThreads
  induction ls generalizing w with
  | nil => rfl
  | cons l t ih => rw [List.foldl_cons, ih]; rfl

@[simp] theorem Wave.updThreads_id (w : Wave) (ls : List Nat) (f : Nat → Thread → Thread) : (w.updThreads ls f).id = w.id := by
  rw [Wave.updThreads_eq]

/-- An S register after a write of one. -/
theorem Wave.sreg_setS (w : Wave) (n k : Nat) (v : DWord) : (w.setS n v).sreg k = if n = k then v else w.sreg k := by
  simp [Wave.setS, Wave.sreg, cellGet_cellSet]

theorem vkey_inj {l r l' r' : Nat} (hl : l < 32) (hl' : l' < 32) : vkey l r = vkey l' r' ↔ l = l' ∧ r = r' := by
  unfold vkey; omega

/-- A V register after a write of one. -/
theorem Wave.vreg_setV (w : Wave) {l l' : Nat} (r r' : Nat) (x : Word) (hl : l < 32) (hl' : l' < 32) :
    (w.setV l r x).vreg l' r' = if l = l' ∧ r = r' then x else w.vreg l' r' := by
  simp [Wave.setV, Wave.vreg, cellGet_cellSet, vkey_inj hl hl']

@[simp] theorem Wave.vreg_setS (w : Wave) (n l r : Nat) (v : DWord) : (w.setS n v).vreg l r = w.vreg l r := rfl
@[simp] theorem Wave.sreg_setV (w : Wave) (l r k : Nat) (x : Word) : (w.setV l r x).sreg k = w.sreg k := rfl
@[simp] theorem Wave.thread_setS (w : Wave) (n k : Nat) (v : DWord) : (w.setS n v).thread k = w.thread k := rfl
@[simp] theorem Wave.thread_setV (w : Wave) (l r k : Nat) (x : Word) : (w.setV l r x).thread k = w.thread k := rfl

/-- A write to a register field changes no thread, and no field of the wave but its registers. -/
theorem Wave.writeReg_eq (w : Wave) (l code n x : Nat) :
    w.writeReg l code n x = { w with s := (w.writeReg l code n x).s, v := (w.writeReg l code n x).v,
                                     empties := (w.writeReg l code n x).empties,
                                     failed := (w.writeReg l code n x).failed, badRegs := (w.writeReg l code n x).badRegs } := by
  unfold Wave.writeReg
  split
  · split <;> rfl
  · split <;> rfl

/-- The V registers that a write to a register field names. -/
def writtenV (code n r : Nat) : Prop := code < 320 ∧ (r = code ∨ (2 ≤ n ∧ r = code + 1))

/-- A write to a register field keeps every mark of a pending write, and ends those that no write is to fill in the registers it names. -/
theorem Wave.mem_empties_writeReg (w : Wave) (l code n x : Nat) (p : Nat × Nat) :
    p ∈ (w.writeReg l code n x).empties ↔ p ∈ w.empties ∧ ¬ (p.2 = 0 ∧ ∃ r, writtenV code n r ∧ p.1 = vkey l r) := by
  obtain ⟨k, q⟩ := p
  unfold Wave.writeReg writtenV
  by_cases hc : code < 320
  · by_cases hn : n ≥ 2
    · simp [hc, hn, List.mem_filter]; grind
    · simp [hc, hn, List.mem_filter]; grind
  · simp only [hc, if_false, false_and, exists_false, and_false, not_false_eq_true, and_true]
    split <;> simp

/-- A write to a register field ends the failed marks of the registers it names. -/
theorem Wave.mem_failed_writeReg (w : Wave) (l code n x k : Nat) :
    k ∈ (w.writeReg l code n x).failed ↔ k ∈ w.failed ∧ ¬ ∃ r, writtenV code n r ∧ k = vkey l r := by
  unfold Wave.writeReg writtenV
  by_cases hc : code < 320
  · by_cases hn : n ≥ 2
    · simp [hc, hn, Wave.setV, List.mem_filter]; grind
    · simp [hc, hn, Wave.setV, List.mem_filter]
  · simp only [hc, if_false, false_and, exists_false, not_false_eq_true, and_true]
    split <;> simp

/-- A write to a register field mends the registers it names. -/
theorem Wave.mem_badRegs_writeReg (w : Wave) (l code n x : Nat) (p : Nat × Nat) :
    p ∈ (w.writeReg l code n x).badRegs ↔
      p ∈ w.badRegs ∧ ¬ ((∃ r, writtenV code n r ∧ p = (l, r)) ∨ (384 ≤ code ∧ code < 448 ∧ p = (0, code))) := by
  unfold Wave.writeReg writtenV
  by_cases hc : code < 320
  · have : ¬ 384 ≤ code := by omega
    by_cases hn : n ≥ 2
    · simp [hc, hn, this, Wave.setV, List.mem_filter]; grind
    · simp [hc, hn, this, Wave.setV, List.mem_filter]
  · simp only [hc, if_false, false_and, exists_false, false_or]
    by_cases hs : 384 ≤ code ∧ code < 448
    · have h : 384 + (code - 384) = code := by omega
      simp [hs, Wave.setS, List.mem_filter, h]
    · have hb : (decide (384 ≤ code) && decide (code < 448)) = false := by simp; omega
      have : ¬ (384 ≤ code ∧ code < 448 ∧ p = (0, code)) := fun h => hs ⟨h.1, h.2.1⟩
      simp [hb, this]

@[simp] theorem Wave.writeReg_id (w : Wave) (l code n x : Nat) : (w.writeReg l code n x).id = w.id := by
  rw [Wave.writeReg_eq]

@[simp] theorem Wave.thread_writeReg (w : Wave) (l code n x k : Nat) : (w.writeReg l code n x).thread k = w.thread k := by
  rw [Wave.writeReg_eq]; rfl

@[simp] theorem Wave.flags_writeReg (w : Wave) (l code n x : Nat) : (w.writeReg l code n x).flags = w.flags := by
  rw [Wave.writeReg_eq]

/-- A V register after a write to a register field. -/
theorem Wave.vreg_writeReg (w : Wave) {l l' : Nat} (code n x r : Nat) (hl : l < 32) (hl' : l' < 32) :
    (w.writeReg l code n x).vreg l' r =
      if l = l' ∧ code < 320 ∧ r = code then BitVec.ofNat 32 x
      else if l = l' ∧ code < 320 ∧ n ≥ 2 ∧ r = code + 1 then BitVec.ofNat 32 (x / 2 ^ 32)
      else w.vreg l' r := by
  unfold Wave.writeReg
  by_cases hc : code < 320
  · by_cases hn : n ≥ 2
    · simp only [hc, hn, if_true, Wave.vreg_setV _ _ _ _ hl hl']
      grind
    · simp only [hc, hn, if_true, if_false, Wave.vreg_setV _ _ _ _ hl hl']
      grind
  · simp only [hc, if_false]
    split <;> simp

/-- An S register after a write to a register field. -/
theorem Wave.sreg_writeReg (w : Wave) (l code n x k : Nat) :
    (w.writeReg l code n x).sreg k = if 384 ≤ code ∧ code < 448 ∧ k + 384 = code then BitVec.ofNat 64 x else w.sreg k := by
  unfold Wave.writeReg
  by_cases hc : code < 320
  · have h : ¬ (384 ≤ code ∧ code < 448 ∧ k + 384 = code) := by omega
    simp only [hc, if_true, h, if_false]
    split <;> simp
  · simp only [hc, if_false]
    by_cases hs : 384 ≤ code ∧ code < 448
    · have hb : (decide (384 ≤ code) && decide (code < 448)) = true := by simp [hs]
      simp only [hb, if_true, Wave.sreg_setS]
      by_cases hk : code - 384 = k
      · have : k + 384 = code := by omega
        simp [hk, hs, this]
      · have : ¬ k + 384 = code := by omega
        simp [hk, this]
    · have hb : (decide (384 ≤ code) && decide (code < 448)) = false := by simp; omega
      have : ¬ (384 ≤ code ∧ code < 448 ∧ k + 384 = code) := by omega
      simp [hb, this]

/-- The lanes of a mask are distinct lanes of a wave. -/
theorem lanesOf_nodup (m : LaneMask) : (lanesOf m).Nodup := List.Pairwise.filter _ List.nodup_range

theorem lanesOf_lt {m : LaneMask} {l : Nat} (h : l ∈ lanesOf m) : l < 32 := by
  simpa using (List.mem_filter.mp h).1

end Sys2Proof.Machine
end

