-- ==== Sys2Proof/Laws/Issue.lean ====
section
/-!
SUPPORT. The issue of an instruction that nothing stands in the way of: what `issue` answers, and what the arithmetic
instructions leave in their wave.
-/
namespace Sys2Proof.Machine

theorem Issues.group_nodup {i : Instr} {h : Hdr} {s : State} {x : Iss} (H : Issues i h s x) : x.group.Nodup := by
  obtain ⟨c, _, _, _, hg⟩ := H.cur
  rw [← hg]; exact lanesOf_nodup _

theorem Issues.group_lt {i : Instr} {h : Hdr} {s : State} {x : Iss} (H : Issues i h s x) {l : Nat} (hl : l ∈ x.group) :
    l < 32 := by
  obtain ⟨c, _, _, _, hg⟩ := H.cur
  rw [← hg] at hl; exact lanesOf_lt hl

theorem Issues.act_sub {i : Instr} {h : Hdr} {s : State} {x : Iss} (H : Issues i h s x) {l : Nat} (hl : l ∈ x.act) :
    l ∈ x.group := by
  rw [H.act] at hl; exact (List.mem_filter.mp hl).1

theorem Issues.act_nodup {i : Instr} {h : Hdr} {s : State} {x : Iss} (H : Issues i h s x) : x.act.Nodup := by
  rw [H.act]; exact List.Pairwise.filter _ H.group_nodup

theorem Issues.lanes_sub {i : Instr} {h : Hdr} {s : State} {x : Iss} (H : Issues i h s x) {l : Nat} (hl : l ∈ x.lanes) :
    l ∈ x.act := by
  rw [H.lanes] at hl
  split at hl
  · exact List.mem_of_mem_take hl
  · exact hl

theorem Issues.lanes_nodup {i : Instr} {h : Hdr} {s : State} {x : Iss} (H : Issues i h s x) : x.lanes.Nodup := by
  rw [H.lanes]
  split
  · exact List.Pairwise.sublist (List.take_sublist 1 x.act) H.act_nodup
  · exact H.act_nodup

theorem Issues.lanes_lt {i : Instr} {h : Hdr} {s : State} {x : Iss} (H : Issues i h s x) {l : Nat} (hl : l ∈ x.lanes) :
    l < 32 := H.group_lt (H.act_sub (H.lanes_sub hl))

theorem any_false {α : Type} {l : List α} {p : α → Bool} (h : ∀ x ∈ l, p x = false) : l.any p = false := by
  simpa [List.any_eq_false] using h

/-- What an instruction of one lane reads, it reads as one of several lanes. -/
theorem readIn_mono {i : Instr} {ls : List Nat} {l k : Nat} {o : Opnd} (hl : l ∈ ls) (hk : k ∈ readIn i [l] o) : k ∈ readIn i ls o := by
  unfold readIn at *
  split at hk <;> simp_all
  split at hk <;> simp_all

/-- An instruction with nothing in its way ends as its own effect ends. -/
theorem issue_clear {i : Instr} {h : Hdr} {s : State} {x : Iss} (body : Iss → State → Res) (H : Issues i h s x) :
    issue i h body s = commit s (finish x s (body x s)) := by
  obtain ⟨c, hc, hw, hp, hg⟩ := H.cur
  have hwave : s.wave? c.wid = some x.w := by rw [hw]; exact H.wave
  have hactG : (lanesOf c.lanes).filter (guardTrue h x.w) = x.act := by rw [hg]; exact H.act.symm
  have hblk : x.act.filter (blockedAt i x.w) = [] := by
    refine List.filter_eq_nil_iff.mpr (fun l hl => ?_)
    rw [Bool.not_eq_true]
    refine any_false (fun o ho => ?_)
    cases hv : o.isV with
    | false => simp
    | true =>
      obtain ⟨hd, hs⟩ := H.full o ho hv
      cases hdst : o.dst with
      | true => simp [hd hdst l hl]
      | false =>
        have : (readIn i [l] o).any (fun k => x.w.anyEmpty k o.code o.count) = false :=
          any_false (fun k hk => (hs hdst k (readIn_mono hl hk)).1)
        simp [this]
  have hfail : ((spansOf i x.w).filter (fun o => o.isV && !o.dst)).flatMap (fun o =>
      (readIn i x.act o).filter (fun l => x.w.anyFailed l o.code o.count)) = [] := by
    refine List.flatMap_eq_nil_iff.mpr (fun o ho => ?_)
    obtain ⟨ho, hb⟩ := List.mem_filter.mp ho
    obtain ⟨hv, hd⟩ : o.isV = true ∧ o.dst = false := by simpa using hb
    refine List.filter_eq_nil_iff.mpr (fun l hl => ?_)
    simp [((H.full o ho hv).2 hd l hl).2]
  have hempty : (spansOf i x.w).find? (fun o => !(emptyLanes i x.w x.act o).isEmpty) = none := by
    refine List.find?_eq_none.mpr (fun o ho => ?_)
    have : emptyLanes i x.w x.act o = [] := by
      refine List.filter_eq_nil_iff.mpr (fun l hl => ?_)
      cases hv : o.isV with
      | false => simp
      | true => cases hd : o.dst with
        | true => simp
        | false => simp [((H.full o ho hv).2 hd l hl).1]
    simp [this]
  have hne : x.act.isEmpty = false := by simpa using H.active
  have hx : (⟨c.wid, x.w, lanesOf c.lanes, c.pc, x.act, isUniform i, if isUniform i then x.act.take 1 else x.act⟩ : Iss) = x := by
    have h1 := H.uni; have h2 := H.lanes
    rw [h1] at h2
    cases x
    simp_all
  have hfilt : ∀ ls : List Nat, ls.filter (fun l => !([] : List Nat).contains l) = ls := by
    intro ls; exact List.filter_eq_self.mpr (fun a _ => by simp)
  unfold issue
  simp only [hc, hwave]
  unfold issueAt
  simp only [H.operands, hactG, hne, H.role, hblk, hfilt, hfail, hempty, H.sound, Bool.false_eq_true, if_false, Res.orQueue]
  rw [hx]

/-- The state in which a step of an instruction with nothing in its way ends, for an effect that goes on. -/
theorem issue_go {i : Instr} {h : Hdr} {s s' : State} {x : Iss} {stay : List Nat} (body : Iss → State → Res)
    (H : Issues i h s x) (hb : body x s = .go s' stay) : issue i h body s = .next (wentOn x s s' stay) := by
  rw [issue_clear body H, hb]; rfl

/-- Every thread of the group goes on when none stays. -/
theorem wentOn_all (x : Iss) (s s' : State) : wentOn x s s' [] = drained s (advance s' x.wid x.group x.pc) := by
  have : x.group.filter (fun l => !([] : List Nat).contains l) = x.group := List.filter_eq_self.mpr (fun a _ => by simp)
  simp only [wentOn, this]

end Sys2Proof.Machine
end

