-- ==== Sys2Proof/Laws/Arith.lean ====
section
/-!
SUPPORT. What the shared ending of the arithmetic instructions leaves in the state: the results of every executing lane, and
nothing else.
-/
namespace Sys2Proof.Machine

/-- Results that do not meet: one result of any width, or several of one V register each in distinct registers; at most one
predicate result. -/
def LaneOut.tidy (o : LaneOut) : Prop :=
  (o.writes.map (·.1)).Nodup ∧ (o.writes.length ≤ 1 ∨ ∀ p ∈ o.writes, p.2.1 ≤ 1) ∧ o.preds.length ≤ 1

/-- One result. -/
theorem LaneOut.tidy_one (c n x : Nat) (e : BitVec 6) : (LaneOut.one c n x e).tidy :=
  ⟨by simp [LaneOut.one], .inl (by simp [LaneOut.one]), by simp [LaneOut.one]⟩

/-- The results of one lane, written. -/
def Wave.putAll (w : Wave) (l : Nat) (ws : List (Nat × Nat × Nat)) : Wave :=
  ws.foldl (fun w p => w.writeReg l p.1 p.2.1 p.2.2) w

theorem Wave.putAll_eq (w : Wave) (l : Nat) (ws : List (Nat × Nat × Nat)) :
    w.putAll l ws = { w with s := (w.putAll l ws).s, v := (w.putAll l ws).v, empties := (w.putAll l ws).empties,
                             failed := (w.putAll l ws).failed, badRegs := (w.putAll l ws).badRegs } := by
  unfold Wave.putAll
  induction ws generalizing w with
  | nil => rfl
  | cons p t ih => rw [List.foldl_cons, ih, Wave.writeReg_eq w]

/-- What writing results does to the marks of registers (R157, R223, R412). -/
theorem Wave.mem_marks_putAll (w : Wave) (l : Nat) (ws : List (Nat × Nat × Nat)) :
    (∀ p, p ∈ (w.putAll l ws).empties ↔
      p ∈ w.empties ∧ ¬ (p.2 = 0 ∧ ∃ r, (∃ q ∈ ws, writtenV q.1 q.2.1 r) ∧ p.1 = vkey l r)) ∧
    (∀ k, k ∈ (w.putAll l ws).failed ↔ k ∈ w.failed ∧ ¬ ∃ r, (∃ q ∈ ws, writtenV q.1 q.2.1 r) ∧ k = vkey l r) ∧
    (∀ p, p ∈ (w.putAll l ws).badRegs ↔ p ∈ w.badRegs ∧
      ¬ ((∃ r, (∃ q ∈ ws, writtenV q.1 q.2.1 r) ∧ p = (l, r)) ∨ ∃ q ∈ ws, 384 ≤ q.1 ∧ q.1 < 448 ∧ p = (0, q.1))) := by
  unfold Wave.putAll
  induction ws generalizing w with
  | nil => simp
  | cons q t ih =>
    obtain ⟨a, b, c⟩ := ih (w.writeReg l q.1 q.2.1 q.2.2)
    refine ⟨fun p => ?_, fun k => ?_, fun p => ?_⟩
    · rw [List.foldl_cons, a, Wave.mem_empties_writeReg]; simp only [List.mem_cons, or_and_right, exists_or, exists_eq_left, and_or_left, not_or, and_assoc]
    · rw [List.foldl_cons, b, Wave.mem_failed_writeReg]; simp only [List.mem_cons, or_and_right, exists_or, exists_eq_left, not_or, and_assoc]
    · rw [List.foldl_cons, c, Wave.mem_badRegs_writeReg]; simp only [List.mem_cons, or_and_right, exists_or, exists_eq_left, not_or, and_assoc]
      exact and_congr_right (fun _ => and_congr_right (fun _ => and_left_comm))

theorem Wave.thread_putAll (w : Wave) (l : Nat) (ws : List (Nat × Nat × Nat)) (k : Nat) :
    (w.putAll l ws).thread k = w.thread k := by
  rw [Wave.putAll_eq]; rfl

theorem Wave.putAll_vreg_frame (w : Wave) {l : Nat} (hl : l < 32) (ws : List (Nat × Nat × Nat)) {k r : Nat} (hk : k < 32)
    (h : ¬ (k = l ∧ ∃ p ∈ ws, p.1 < 320 ∧ (r = p.1 ∨ (2 ≤ p.2.1 ∧ r = p.1 + 1)))) :
    (w.putAll l ws).vreg k r = w.vreg k r := by
  unfold Wave.putAll
  induction ws generalizing w with
  | nil => rfl
  | cons p t ih =>
    rw [List.foldl_cons, ih _ (fun ⟨a, q, hq, b⟩ => h ⟨a, q, by simp [hq], b⟩), Wave.vreg_writeReg w _ _ _ _ hl hk]
    have h1 : ¬ (l = k ∧ p.1 < 320 ∧ r = p.1) := fun ⟨a, b, c⟩ => h ⟨a.symm, p, by simp, b, .inl c⟩
    have h2 : ¬ (l = k ∧ p.1 < 320 ∧ p.2.1 ≥ 2 ∧ r = p.1 + 1) := fun ⟨a, b, c, d⟩ => h ⟨a.symm, p, by simp, b, .inr ⟨c, d⟩⟩
    simp only [h1, h2, if_false]

theorem Wave.putAll_sreg_frame (w : Wave) (l : Nat) (ws : List (Nat × Nat × Nat)) {k : Nat} (h : ∀ p ∈ ws, p.1 ≠ k + 384) :
    (w.putAll l ws).sreg k = w.sreg k := by
  unfold Wave.putAll
  induction ws generalizing w with
  | nil => rfl
  | cons p t ih =>
    rw [List.foldl_cons, ih _ (fun q hq => h q (by simp [hq])), Wave.sreg_writeReg]
    have : ¬ (384 ≤ p.1 ∧ p.1 < 448 ∧ k + 384 = p.1) := fun ⟨_, _, c⟩ => h p (by simp) c.symm
    simp only [this, if_false]

theorem Wave.putAll_vreg (w : Wave) {l : Nat} (hl : l < 32) (ws : List (Nat × Nat × Nat)) (hn : (ws.map (·.1)).Nodup)
    (hw : ws.length ≤ 1 ∨ ∀ p ∈ ws, p.2.1 ≤ 1) {p : Nat × Nat × Nat} (hp : p ∈ ws) (hc : p.1 < 320) :
    (w.putAll l ws).vreg l p.1 = BitVec.ofNat 32 p.2.2 ∧
      (2 ≤ p.2.1 → (w.putAll l ws).vreg l (p.1 + 1) = BitVec.ofNat 32 (p.2.2 / 2 ^ 32)) := by
  induction ws generalizing w with
  | nil => simp at hp
  | cons q t ih =>
    have hput : w.putAll l (q :: t) = (w.writeReg l q.1 q.2.1 q.2.2).putAll l t := rfl
    rw [hput]
    simp only [List.map_cons, List.nodup_cons] at hn
    have ht : t.length ≤ 1 ∨ ∀ p ∈ t, p.2.1 ≤ 1 := by
      rcases hw with h | h
      · simp at h; simp [h]
      · exact .inr (fun p hp => h p (by simp [hp]))
    rcases List.mem_cons.mp hp with rfl | hp
    · have hfree : ∀ r, (r = p.1 ∨ (2 ≤ p.2.1 ∧ r = p.1 + 1)) →
          ¬ (l = l ∧ ∃ q ∈ t, q.1 < 320 ∧ (r = q.1 ∨ (2 ≤ q.2.1 ∧ r = q.1 + 1))) := by
        rintro r hr ⟨-, q, hq, -, hqr⟩
        have hne : q.1 ≠ p.1 := fun e => hn.1 (List.mem_map.mpr ⟨q, hq, e⟩)
        rcases hw with h | h
        · simp at h; simp [h] at hq
        · have h1 := h p (by simp)
          have h2 := h q (by simp [hq])
          omega
      refine ⟨?_, fun h2 => ?_⟩
      · rw [Wave.putAll_vreg_frame _ hl t hl (hfree p.1 (.inl rfl)), Wave.vreg_writeReg w _ _ _ _ hl hl]
        simp [hc]
      · rw [Wave.putAll_vreg_frame _ hl t hl (hfree (p.1 + 1) (.inr ⟨h2, rfl⟩)), Wave.vreg_writeReg w _ _ _ _ hl hl]
        simp [hc, h2]
    · exact ih _ hn.2 ht hp

theorem Wave.putAll_sreg (w : Wave) (l : Nat) (ws : List (Nat × Nat × Nat)) (hn : (ws.map (·.1)).Nodup)
    {p : Nat × Nat × Nat} (hp : p ∈ ws) (h1 : 384 ≤ p.1) (h2 : p.1 < 448) :
    (w.putAll l ws).sreg (p.1 - 384) = BitVec.ofNat 64 p.2.2 := by
  induction ws generalizing w with
  | nil => simp at hp
  | cons q t ih =>
    have hput : w.putAll l (q :: t) = (w.writeReg l q.1 q.2.1 q.2.2).putAll l t := rfl
    rw [hput]
    simp only [List.map_cons, List.nodup_cons] at hn
    rcases List.mem_cons.mp hp with rfl | hp
    · have hfree : ∀ q ∈ t, q.1 ≠ p.1 - 384 + 384 := by
        intro q hq e
        exact hn.1 (List.mem_map.mpr ⟨q, hq, by omega⟩)
      rw [Wave.putAll_sreg_frame _ _ t hfree, Wave.sreg_writeReg]
      have : p.1 - 384 + 384 = p.1 := by omega
      simp [h1, h2, this]
    · exact ih _ hn.2 hp

/-- The bits of a one in a place. -/
theorem bit_place (p q : Nat) : ((1#8) <<< p).getLsbD q = (decide (q < 8) && decide (p = q)) := by
  rw [BitVec.getLsbD_shiftLeft]
  have h1 : (1#8).getLsbD (q - p) = decide (q - p = 0) := by
    cases h : q - p with
    | zero => rfl
    | succ n => simp [BitVec.getLsbD, Nat.testBit_succ]
  rw [h1]
  by_cases h : p = q
  · simp [h]
  · by_cases hq : q < p
    · simp [hq, h]
    · have : ¬ q - p = 0 := by omega
      simp [this, h]

/-- A bit of the predicates after one of them is written. -/
theorem bit_write (t : BitVec 8) (p q : Nat) (b : Bool) :
    (if b then t ||| (1#8 <<< p) else t &&& ~~~(1#8 <<< p)).getLsbD q =
      if p = q then b && decide (q < 8) else t.getLsbD q := by
  by_cases h8 : q < 8
  · cases b
    · simp only [Bool.false_eq_true, if_false, BitVec.getLsbD_and, BitVec.getLsbD_not, bit_place]
      by_cases h : p = q <;> simp [h, h8]
    · simp only [if_true, BitVec.getLsbD_or, bit_place]
      by_cases h : p = q <;> simp [h, h8]
  · have hge : 8 ≤ q := by omega
    rw [BitVec.getLsbD_of_ge _ q hge, BitVec.getLsbD_of_ge _ q hge]
    simp [h8]

/-- A predicate after a write of one. -/
theorem Wave.pred_setPred (w : Wave) (l p : Nat) (b : Bool) (k q : Nat) (hp : p < 8) :
    (w.setPred l p b).pred k q = if l = k ∧ p = q ∧ p ≠ 0 then b else w.pred k q := by
  unfold Wave.setPred Wave.pred
  by_cases hp0 : p = 0
  · subst hp0; simp
  · simp only [beq_iff_eq, hp0, if_false, Wave.thread_updThread]
    by_cases hl : l = k
    · subst hl
      by_cases hq : q = 0
      · subst hq; simp [hp0]
      · rw [if_pos rfl]
        simp only [bit_write]
        by_cases hpq : p = q
        · subst hpq; simp [hp0, hp]
        · simp [hpq]
    · simp [hl]

/-- A write of a predicate changes the predicates of one thread and nothing else. -/
theorem Wave.thread_setPred (w : Wave) (l p : Nat) (b : Bool) (k : Nat) :
    (w.setPred l p b).thread k = { w.thread k with preds := ((w.setPred l p b).thread k).preds } := by
  unfold Wave.setPred
  split
  · rfl
  · rw [Wave.thread_updThread]
    split
    · next h => subst h; rfl
    · rfl

theorem Wave.setPred_eq (w : Wave) (l p : Nat) (b : Bool) : w.setPred l p b = { w with threads := (w.setPred l p b).threads } := by
  unfold Wave.setPred
  split <;> rfl

/-- A predicate written in several threads. -/
def Wave.setPreds (w : Wave) (ks : List Nat) (p : Nat) (b : Bool) : Wave := ks.foldl (fun w k => w.setPred k p b) w

theorem Wave.setPreds_eq (w : Wave) (ks : List Nat) (p : Nat) (b : Bool) :
    w.setPreds ks p b = { w with threads := (w.setPreds ks p b).threads } := by
  unfold Wave.setPreds
  induction ks generalizing w with
  | nil => rfl
  | cons k t ih => rw [List.foldl_cons, ih, Wave.setPred_eq w]

theorem Wave.thread_setPreds (w : Wave) (ks : List Nat) (p : Nat) (b : Bool) (k : Nat) :
    (w.setPreds ks p b).thread k = { w.thread k with preds := ((w.setPreds ks p b).thread k).preds } := by
  unfold Wave.setPreds
  induction ks generalizing w with
  | nil => rfl
  | cons a t ih => rw [List.foldl_cons, ih, Wave.thread_setPred w]

theorem Wave.pred_setPreds (w : Wave) (ks : List Nat) (p : Nat) (b : Bool) (hp : p < 8) (k q : Nat) :
    (w.setPreds ks p b).pred k q = if k ∈ ks ∧ p = q ∧ p ≠ 0 then b else w.pred k q := by
  unfold Wave.setPreds
  induction ks generalizing w with
  | nil => simp
  | cons a t ih =>
    rw [List.foldl_cons, ih, Wave.pred_setPred w _ _ _ _ _ hp]
    by_cases h1 : k ∈ t <;> by_cases h2 : a = k <;> by_cases h3 : p = q ∧ p ≠ 0 <;> simp_all <;> grind

theorem Wave.pred_setPreds_ne (w : Wave) (ks : List Nat) (p : Nat) (b : Bool) {k q : Nat} (h : q = p → k ∉ ks) :
    (w.setPreds ks p b).pred k q = w.pred k q := by
  unfold Wave.setPreds
  induction ks generalizing w with
  | nil => rfl
  | cons a t ih =>
    rw [List.foldl_cons, ih _ (fun e hk => h e (by simp [hk]))]
    unfold Wave.setPred Wave.pred
    split
    · rfl
    · rw [Wave.thread_updThread]
      split
      · next ha =>
        subst ha
        have hqp : q ≠ p := fun e => h e (by simp)
        have hpq : ¬ p = q := fun e => hqp e.symm
        simp only [bit_write, hpq, if_false]
      · rfl

/-- Everything that writing a lane's tidy results does. -/
theorem Wave.writeOut_spec (w : Wave) (group : List Nat) (uni : Bool) {l : Nat} (hl : l < 32) (o : LaneOut) (ho : o.tidy) :
    let w' := w.writeOut group uni l o
    let ks := if uni then group else [l]
    w' = { w with s := w'.s, v := w'.v, empties := w'.empties, failed := w'.failed, badRegs := w'.badRegs, threads := w'.threads } ∧
    (∀ k r, k < 32 → ¬ (k = l ∧ o.names r) → w'.vreg k r = w.vreg k r) ∧
    (∀ p ∈ o.writes, p.1 < 320 → w'.vreg l p.1 = BitVec.ofNat 32 p.2.2 ∧
      (2 ≤ p.2.1 → w'.vreg l (p.1 + 1) = BitVec.ofNat 32 (p.2.2 / 2 ^ 32))) ∧
    (∀ k, (∀ p ∈ o.writes, p.1 ≠ k + 384) → w'.sreg k = w.sreg k) ∧
    (∀ p ∈ o.writes, 384 ≤ p.1 → p.1 < 448 → w'.sreg (p.1 - 384) = BitVec.ofNat 64 p.2.2) ∧
    (∀ q ∈ o.preds, q.1 ≠ 0 → q.1 < 8 → ∀ k ∈ ks, w'.pred k q.1 = q.2) ∧
    (∀ k p, (∀ q ∈ o.preds, q.1 = p → k ∉ ks) → w'.pred k p = w.pred k p) ∧
    (∀ k, w'.thread k = { w.thread k with preds := (w'.thread k).preds, srcnt := (w'.thread k).srcnt }) ∧
    (∀ k, (w'.thread k).srcnt = (w.thread k).srcnt + if k = l then BitVec.ofNat 64 o.draws else 0) ∧
    (∀ p, p ∈ w'.empties ↔ p ∈ w.empties ∧ ¬ (p.2 = 0 ∧ ∃ r, o.names r ∧ p.1 = vkey l r)) ∧
    (∀ k, k ∈ w'.failed ↔ k ∈ w.failed ∧ ¬ ∃ r, o.names r ∧ k = vkey l r) ∧
    (∀ p, p ∈ w'.badRegs ↔ p ∈ w.badRegs ∧ ¬ o.regs l p) := by
  obtain ⟨hn, hw, hp⟩ := ho
  let w1 := w.putAll l o.writes
  let ks := if uni then group else [l]
  let w2 := match o.preds with | [] => w1 | q :: _ => w1.setPreds ks q.1 q.2
  let w3 := if o.draws = 0 then w2 else w2.updThread l (fun t => { t with srcnt := t.srcnt + BitVec.ofNat 64 o.draws })
  have hw3 : w.writeOut group uni l o = w3 := by
    unfold Wave.writeOut
    have : o.preds.foldl (fun w p => (if uni = true then group else [l]).foldl (fun w k => w.setPred k p.1 p.2) w)
        (o.writes.foldl (fun w p => w.writeReg l p.1 p.2.1 p.2.2) w) = w2 := by
      match hq : o.preds with
      | [] => simp only [w2, hq]; rfl
      | [q] => simp only [w2, hq]; rfl
      | q :: q' :: t => simp [hq] at hp
    simp only [this]; rfl
  have e1 : w1 = { w with s := w1.s, v := w1.v, empties := w1.empties, failed := w1.failed, badRegs := w1.badRegs } := Wave.putAll_eq w l o.writes
  have e2 : w2 = { w1 with threads := w2.threads } := by
    simp only [w2]
    split
    · rfl
    · exact Wave.setPreds_eq _ _ _ _
  have e3 : w3 = { w2 with threads := w3.threads } := by
    simp only [w3]
    split <;> rfl
  have t2 : ∀ k, w2.thread k = { w.thread k with preds := (w2.thread k).preds } := by
    intro k
    have t1 : w1.thread k = w.thread k := Wave.thread_putAll w l o.writes k
    rw [← t1]
    simp only [w2]
    split
    · rfl
    · exact Wave.thread_setPreds _ _ _ _ _
  have t3 : ∀ k, w3.thread k = { w2.thread k with srcnt := (w2.thread k).srcnt + if k = l then BitVec.ofNat 64 o.draws else 0 } := by
    intro k
    simp only [w3]
    split
    · next h => simp [h]
    · rw [Wave.thread_updThread]
      by_cases h : l = k
      · subst h; simp
      · have : ¬ k = l := fun e => h e.symm
        simp [h, this]
  have v3 : ∀ k r, w3.vreg k r = w1.vreg k r := by
    intro k r
    unfold Wave.vreg
    rw [e3, e2]
  have s3 : ∀ k, w3.sreg k = w1.sreg k := by
    intro k
    unfold Wave.sreg
    rw [e3, e2]
  have p3 : ∀ k p, w3.pred k p = w2.pred k p := by
    intro k p
    unfold Wave.pred
    rw [t3]
  have p1 : ∀ k p, w1.pred k p = w.pred k p := by
    intro k p
    unfold Wave.pred
    rw [Wave.thread_putAll]
  have hnames : ∀ r, (∃ q ∈ o.writes, writtenV q.1 q.2.1 r) ↔ o.names r := fun r => by
    unfold writtenV LaneOut.names; exact Iff.rfl
  obtain ⟨m1, m2, m3⟩ := Wave.mem_marks_putAll w l o.writes
  rw [hw3]
  refine ⟨?_, ?_, ?_, ?_, ?_, ?_, ?_, ?_, ?_, ?_, ?_, ?_⟩
  · rw [e3, e2, e1]
  · intro k r hk h
    rw [v3]; exact Wave.putAll_vreg_frame w hl _ hk h
  · intro p hp hc
    rw [v3, v3]; exact Wave.putAll_vreg w hl _ hn hw hp hc
  · intro k h
    rw [s3]; exact Wave.putAll_sreg_frame w l _ h
  · intro p hp h1 h2
    rw [s3]; exact Wave.putAll_sreg w l _ hn hp h1 h2
  · intro q hq h0 h8 k hk
    rw [p3]
    match hqs : o.preds with
    | [] => simp [hqs] at hq
    | [q'] =>
      have : q = q' := by simpa [hqs] using hq
      subst this
      have : w2 = w1.setPreds ks q.1 q.2 := by simp only [w2, hqs]
      rw [this, Wave.pred_setPreds _ _ _ _ h8]
      simp [h0, show k ∈ ks from hk]
    | a :: b :: t => simp [hqs] at hp
  · intro k p h
    rw [p3, ← p1]
    match hqs : o.preds with
    | [] =>
      have : w2 = w1 := by simp only [w2, hqs]
      rw [this]
    | [q] =>
      have : w2 = w1.setPreds ks q.1 q.2 := by simp only [w2, hqs]
      rw [this]
      exact Wave.pred_setPreds_ne _ _ _ _ (fun e => h q (by simp [hqs]) e.symm)
    | a :: b :: t => simp [hqs] at hp
  · intro k
    rw [t3, t2]
  · intro k
    rw [t3, t2]
  · intro p
    have : w3.empties = w1.empties := by rw [e3, e2]
    rw [this, m1]; simp only [hnames]
  · intro k
    have : w3.failed = w1.failed := by rw [e3, e2]
    rw [this, m2]; simp only [hnames]
  · intro p
    have : w3.badRegs = w1.badRegs := by rw [e3, e2]
    rw [this, m3]; simp only [hnames]; rfl

/-- The results of several lanes, written. -/
def Wave.writeOuts (w : Wave) (group : List Nat) (uni : Bool) (f : Nat → LaneOut) (ls : List Nat) : Wave :=
  ls.foldl (fun w l => w.writeOut group uni l (f l)) w

/-- Everything that writing the tidy results of distinct lanes does; one lane for a uniform instruction. -/
theorem Wave.writeOuts_spec (w : Wave) (group : List Nat) (uni : Bool) (f : Nat → LaneOut) (ls : List Nat) (hnd : ls.Nodup)
    (hlt : ∀ l ∈ ls, l < 32) (hf : ∀ l ∈ ls, (f l).tidy) (huni : uni = true → ls.length ≤ 1) :
    let w' := w.writeOuts group uni f ls
    let ks (l : Nat) := if uni then group else [l]
    w' = { w with s := w'.s, v := w'.v, empties := w'.empties, failed := w'.failed, badRegs := w'.badRegs, threads := w'.threads } ∧
    (∀ k r, k < 32 → ¬ (k ∈ ls ∧ (f k).names r) → w'.vreg k r = w.vreg k r) ∧
    (∀ l ∈ ls, ∀ p ∈ (f l).writes, p.1 < 320 → w'.vreg l p.1 = BitVec.ofNat 32 p.2.2 ∧
      (2 ≤ p.2.1 → w'.vreg l (p.1 + 1) = BitVec.ofNat 32 (p.2.2 / 2 ^ 32))) ∧
    (∀ k, (∀ l ∈ ls, ∀ p ∈ (f l).writes, p.1 ≠ k + 384) → w'.sreg k = w.sreg k) ∧
    (uni = true → ∀ l ∈ ls, ∀ p ∈ (f l).writes, 384 ≤ p.1 → p.1 < 448 → w'.sreg (p.1 - 384) = BitVec.ofNat 64 p.2.2) ∧
    (∀ l ∈ ls, ∀ q ∈ (f l).preds, q.1 ≠ 0 → q.1 < 8 → ∀ k ∈ ks l, w'.pred k q.1 = q.2) ∧
    (∀ k p, (∀ l ∈ ls, ∀ q ∈ (f l).preds, q.1 = p → k ∉ ks l) → w'.pred k p = w.pred k p) ∧
    (∀ k, w'.thread k = { w.thread k with preds := (w'.thread k).preds, srcnt := (w'.thread k).srcnt }) ∧
    (∀ k, (w'.thread k).srcnt = (w.thread k).srcnt + if k ∈ ls then BitVec.ofNat 64 (f k).draws else 0) ∧
    (∀ p, p ∈ w'.empties ↔ p ∈ w.empties ∧ ¬ (p.2 = 0 ∧ ∃ l ∈ ls, ∃ r, (f l).names r ∧ p.1 = vkey l r)) ∧
    (∀ k, k ∈ w'.failed ↔ k ∈ w.failed ∧ ¬ ∃ l ∈ ls, ∃ r, (f l).names r ∧ k = vkey l r) ∧
    (∀ p, p ∈ w'.badRegs ↔ p ∈ w.badRegs ∧ ¬ ∃ l ∈ ls, (f l).regs l p) := by
  induction ls generalizing w with
  | nil =>
    refine ⟨rfl, fun _ _ _ _ => rfl, by simp, fun _ _ => rfl, by simp, by simp, fun _ _ _ => rfl, fun _ => rfl, fun k => ?_, ?_, ?_, ?_⟩
    all_goals simp [Wave.writeOuts]
  | cons a t ih =>
    obtain ⟨ha, ht⟩ := List.nodup_cons.mp hnd
    have hw' : w.writeOuts group uni f (a :: t) = (w.writeOut group uni a (f a)).writeOuts group uni f t := rfl
    obtain ⟨e, v, r, sf, sv, p, pf, th, sc, me, mf, mb⟩ := Wave.writeOut_spec w group uni (hlt a (by simp)) (f a) (hf a (by simp))
    obtain ⟨e', v', r', sf', sv', p', pf', th', sc', me', mf', mb'⟩ := ih (w.writeOut group uni a (f a)) ht (fun l hl => hlt l (by simp [hl]))
      (fun l hl => hf l (by simp [hl])) (fun h => by have := huni h; simp at this; simp [this])
    have hne : ∀ l ∈ t, l ≠ a := fun l hl e => ha (e ▸ hl)
    simp only [hw']
    refine ⟨?_, ?_, ?_, ?_, ?_, ?_, ?_, ?_, ?_, ?_, ?_, ?_⟩
    · rw [e', e]
    · intro k r hk h
      rw [v' k r hk (fun ⟨a1, a2⟩ => h ⟨by simp [a1], a2⟩)]
      exact v k r hk (fun ⟨a1, a2⟩ => h ⟨by simp [a1], a1 ▸ a2⟩)
    · intro l hl q hq hc
      rcases List.mem_cons.mp hl with rfl | hl
      · have hl32 := hlt l (by simp)
        rw [v' l _ hl32 (fun ⟨h, _⟩ => ha h), v' l _ hl32 (fun ⟨h, _⟩ => ha h)]
        exact r q hq hc
      · exact r' l hl q hq hc
    · intro k h
      rw [sf' k (fun l hl => h l (by simp [hl])), sf k (h a (by simp))]
    · intro hu l hl q hq h1 h2
      have hnil : t = [] := by have := huni hu; simpa using this
      subst hnil
      have : l = a := by simpa using hl
      subst this
      exact sv q hq h1 h2
    · intro l hl q hq h0 h8 k hk
      rcases List.mem_cons.mp hl with rfl | hl
      · rw [pf' k q.1 (fun m hm q' hq' _ hin => ?_)]
        · exact p q hq h0 h8 k hk
        · cases hu : uni with
          | true => have := huni hu; simp at this; simp [this] at hm
          | false =>
            simp only [hu, Bool.false_eq_true, if_false, List.mem_singleton] at hk hin
            exact hne m hm (hin ▸ hk)
      · exact p' l hl q hq h0 h8 k hk
    · intro k q h
      rw [pf' k q (fun l hl => h l (by simp [hl])), pf k q (h a (by simp))]
    · intro k
      rw [th', th]
    · intro k
      rw [sc', sc]
      by_cases hk : k = a
      · subst hk; simp [ha]
      · simp [hk]
    · intro p
      rw [me', me]; simp only [List.mem_cons, or_and_right, exists_or, exists_eq_left, and_or_left, not_or, and_assoc]
    · intro k
      rw [mf', mf]; simp only [List.mem_cons, or_and_right, exists_or, exists_eq_left, not_or, and_assoc]
    · intro p
      rw [mb', mb]; simp only [List.mem_cons, or_and_right, exists_or, exists_eq_left, not_or, and_assoc]

/-- The wave after the results of an arithmetic instruction, and after its threads went on. -/
theorem arith_next {i : Instr} {h : Hdr} {s : State} {x : Iss} {f : Nat → LaneOut} {body : Iss → State → Res}
    (H : Issues i h s x) (hb : body x s = arith x s f) (hf : ∀ l ∈ x.lanes, (f l).tidy) (hn : NoTrap x f) :
    ∃ t, issue i h body s = .next t ∧ Computed x s t f := by
  let up (w : Wave) : Wave :=
    { w.writeOuts x.group x.uni f x.lanes with
      flags := x.lanes.foldl (fun e l => e ||| (f l).exc) (w.writeOuts x.group x.uni f x.lanes).flags }
  have hgo : arith x s f = .go (s.updWave x.wid up) [] := by
    unfold arith
    have : ((x.lanes.map (fun l => (l, f l))).filter (fun p => p.2.exc &&& (x.w.thread p.1).fen != 0)) = [] := by
      refine List.filter_eq_nil_iff.mpr (fun p hp => ?_)
      obtain ⟨l, hl, rfl⟩ := List.mem_map.mp hp
      simp [hn l hl]
    simp only [this, List.isEmpty_nil, if_true, List.foldl_map]
    rfl
  let mv (w : Wave) : Wave := w.goOn x.group x.pc
  have huni : x.uni = true → x.lanes.length ≤ 1 := by
    intro hu; rw [H.lanes, hu]; first | omega | (simp; done) | (simp; omega)
  have hspec := Wave.writeOuts_spec x.w x.group x.uni f x.lanes H.lanes_nodup (fun l hl => H.lanes_lt hl) hf huni
  have hid : ∀ w : Wave, (up w).id = w.id := by
    intro w
    have := (Wave.writeOuts_spec w x.group x.uni f x.lanes H.lanes_nodup (fun l hl => H.lanes_lt hl) hf huni).1
    show (Wave.writeOuts w x.group x.uni f x.lanes).id = w.id
    rw [this]
  have hmid : ∀ w : Wave, (mv w).id = w.id := by intro w; simp [mv, Wave.goOn]
  have hgone : issue i h body s = .next (drained s ((s.updWave x.wid up).updWave x.wid mv)) := by
    rw [issue_go _ H (hb.trans hgo), wentOn_all]; rfl
  refine ⟨_, hgone, ⟨?_, ?_, ?_⟩, mv (up x.w), ?_, ?_⟩
  · simp [drained, H.quiet]
  · intro k hk
    show State.wave? ((s.updWave x.wid up).updWave x.wid mv) k = _
    rw [State.wave?_updWave_ne _ hmid hk, State.wave?_updWave_ne _ hid hk]
  · intro pa
    simp [drained, State.byteAt, H.quiet]
  · show State.wave? ((s.updWave x.wid up).updWave x.wid mv) x.wid = _
    exact State.wave?_updWave_self mv hmid (State.wave?_updWave_self up hid H.wave)
  · obtain ⟨e, v, r, sf, sv, p, pf, th, sc, me, mf, mb⟩ := hspec
    have hth : ∀ k, (mv (up x.w)).thread k = if k ∈ x.group then
        { (x.w.writeOuts x.group x.uni f x.lanes).thread k with
            pc := nextPc x.pc, run := if ((x.w.writeOuts x.group x.uni f x.lanes).thread k).run = .ended then .ended else .ready,
            seen := ((x.w.writeOuts x.group x.uni f x.lanes).thread k).seen.filter (fun b => b.1 != x.pc) }
        else (x.w.writeOuts x.group x.uni f x.lanes).thread k := fun k => Wave.thread_updThreads _ _ H.group_nodup _ k
    have hpred : ∀ k q, (mv (up x.w)).pred k q = (x.w.writeOuts x.group x.uni f x.lanes).pred k q := by
      intro k q
      unfold Wave.pred
      rw [hth]
      split <;> rfl
    have heq : mv (up x.w) = { up x.w with threads := (mv (up x.w)).threads, hold := none } := by
      simp only [mv, Wave.goOn]
      rw [Wave.updThreads_eq]
    have hv : ∀ k r, (mv (up x.w)).vreg k r = (x.w.writeOuts x.group x.uni f x.lanes).vreg k r := by
      intro k r; unfold Wave.vreg; rw [heq]
    have hs : ∀ k, (mv (up x.w)).sreg k = (x.w.writeOuts x.group x.uni f x.lanes).sreg k := by
      intro k; unfold Wave.sreg; rw [heq]
    refine ⟨?_, ?_, ?_, ?_, ?_, ?_, ?_, ?_, ?_, ?_, ?_, ?_, ?_⟩
    · rw [heq]
      have hup : up x.w = { x.w with s := (up x.w).s, v := (up x.w).v, empties := (up x.w).empties, failed := (up x.w).failed, badRegs := (up x.w).badRegs, threads := (up x.w).threads, flags := (up x.w).flags } := by
        have hF : ∀ F, ({ x.w.writeOuts x.group x.uni f x.lanes with flags := F } : Wave) =
            { x.w with s := (x.w.writeOuts x.group x.uni f x.lanes).s, v := (x.w.writeOuts x.group x.uni f x.lanes).v,
                       empties := (x.w.writeOuts x.group x.uni f x.lanes).empties,
                       failed := (x.w.writeOuts x.group x.uni f x.lanes).failed, badRegs := (x.w.writeOuts x.group x.uni f x.lanes).badRegs,
                       threads := (x.w.writeOuts x.group x.uni f x.lanes).threads, flags := F } := by
          intro F
          conv => lhs; rw [e]
        exact hF _
      rw [hup]
    · rw [heq]
      show x.lanes.foldl (fun e l => e ||| (f l).exc) (x.w.writeOuts x.group x.uni f x.lanes).flags = _
      rw [e]
    · intro l hl q hq hc
      rw [hv, hv]; exact r l hl q hq hc
    · intro l q hl hh
      rw [hv]; exact v l q hl hh
    · intro hu l hl q hq h1 h2
      rw [hs]; exact sv hu l hl q hq h1 h2
    · intro k hh
      rw [hs]; exact sf k hh
    · intro p
      rw [heq]; exact me p
    · intro k
      rw [heq]; exact mf k
    · intro p
      rw [heq]; exact mb p
    · intro l hl q hq h0 h8 k hk
      rw [hpred]; exact p l hl q hq h0 h8 k hk
    · intro k q hh
      rw [hpred]; exact pf k q hh
    · intro l
      rw [hth]
      split <;> rw [th]
    · intro l
      rw [hth, ← sc]
      split <;> rfl

end Sys2Proof.Machine
end

