-- ==== Sys2Proof/Laws/Commit.lean ====
section
/-!
SUPPORT. Every operation ends by draining its stores into memory, or stops because the state names no issuing group; so every
step keeps memory in its canonical form.
-/
namespace Sys2Proof.Machine

/-- Whether a state names an issuing group whose wave is there. -/
def State.issuing (s : State) : Prop := ∃ c w, s.cur = some c ∧ s.wave? c.wid = some w

/-- What an operation can answer in a state. -/
def Commits (s : State) (r : Host.Outcome State Fault Refusal) : Prop :=
  (∃ s', r = .next (drained s s')) ∨ (r = .fault .noIssuingGroup ∧ ¬ s.issuing)

theorem not_issuing_cur {s : State} (h : s.cur = none) : ¬ s.issuing := by
  rintro ⟨c, w, hc, -⟩
  rw [h] at hc; cases hc

theorem not_issuing_wave {s : State} {c : Cur} (hc : s.cur = some c) (h : s.wave? c.wid = none) : ¬ s.issuing := by
  rintro ⟨d, w, hd, hw⟩
  rw [hc] at hd; cases hd
  rw [h] at hw; cases hw

theorem commits_commit (s s' : State) : Commits s (commit s s') := .inl ⟨s', rfl⟩

theorem commits_issue (i : Instr) (h : Hdr) (body : Iss → State → Res) (s : State) : Commits s (issue i h body s) := by
  unfold issue
  split
  · exact .inr ⟨rfl, not_issuing_cur ‹_›⟩
  · split
    · exact .inr ⟨rfl, not_issuing_wave ‹_› ‹_›⟩
    · exact commits_commit _ _

theorem commits_queued (h : CmdHeader) (b : List DWord) (go : Ctx → Cmd → State → State) (s : State) :
    Commits s (queued h b go s) := commits_commit _ _

theorem commits_control (h : CmdHeader) (go : State → State) (s : State) : Commits s (control h go s) := commits_commit _ _

theorem commits_controlCtx (h : CmdHeader) (go : Ctx → State → State) (s : State) : Commits s (controlCtx h go s) :=
  commits_control _ _ _

theorem commits_packageQuery (h : CmdHeader) (b : List DWord) (bad : Bool) (bytes : State → List Byte) (s : State) :
    Commits s (packageQuery h b bad bytes s) := by
  unfold packageQuery
  split
  · exact commits_control _ _ _
  · exact commits_queued _ _ _ _

theorem commits_contextQuery (h : CmdHeader) (b : List DWord) (bad : Ctx → Bool) (go : Ctx → State → State) (s : State) :
    Commits s (contextQuery h b bad go s) := by
  unfold contextQuery
  split
  · exact commits_control _ _ _
  · exact commits_queued _ _ _ _

theorem commits_badOpcode (o : Nat) (s : State) : Commits s (badOpcode o s) := by
  unfold badOpcode
  split
  · exact .inr ⟨rfl, not_issuing_cur ‹_›⟩
  · split
    · exact .inr ⟨rfl, not_issuing_wave ‹_› ‹_›⟩
    · exact commits_commit _ _

theorem commits_lineFetch (s : State) : Commits s (execLineFetch s) := by
  unfold execLineFetch
  split
  · exact .inr ⟨rfl, not_issuing_cur ‹_›⟩
  · split
    · exact .inr ⟨rfl, not_issuing_wave ‹_› ‹_›⟩
    · exact commits_commit _ _

/-- Every operation drains its stores or finds no issuing group. -/
theorem exec_commits (i : Instr) (s : State) : Commits s (exec i s) := by
  cases i with
  | nop _ => exact commits_issue _ _ _ _
  | exit _ => exact commits_issue _ _ _ _
  | yield _ => exact commits_issue _ _ _ _
  | bra _ => exact commits_issue _ _ _ _
  | bru _ => exact commits_issue _ _ _ _
  | call _ => exact commits_issue _ _ _ _
  | ret _ => exact commits_issue _ _ _ _
  | jmpi _ => exact commits_issue _ _ _ _
  | rcvset _ => exact commits_issue _ _ _ _
  | rcv _ => exact commits_issue _ _ _ _
  | launch _ => exact commits_issue _ _ _ _
  | agen _ => exact commits_issue _ _ _ _
  | andR _ => exact commits_issue _ _ _ _
  | andImm _ => exact commits_issue _ _ _ _
  | bfi _ => exact commits_issue _ _ _ _
  | bfx _ => exact commits_issue _ _ _ _
  | brev _ => exact commits_issue _ _ _ _
  | bsel _ => exact commits_issue _ _ _ _
  | clz _ => exact commits_issue _ _ _ _
  | iabs _ => exact commits_issue _ _ _ _
  | iadd _ => exact commits_issue _ _ _ _
  | iaddImm _ => exact commits_issue _ _ _ _
  | isub _ => exact commits_issue _ _ _ _
  | isubImm _ => exact commits_issue _ _ _ _
  | imul _ => exact commits_issue _ _ _ _
  | imulImm _ => exact commits_issue _ _ _ _
  | imulh _ => exact commits_issue _ _ _ _
  | imulhImm _ => exact commits_issue _ _ _ _
  | imad _ => exact commits_issue _ _ _ _
  | imax _ => exact commits_issue _ _ _ _
  | imaxImm _ => exact commits_issue _ _ _ _
  | imin _ => exact commits_issue _ _ _ _
  | iminImm _ => exact commits_issue _ _ _ _
  | idiv _ => exact commits_issue _ _ _ _
  | idivImm _ => exact commits_issue _ _ _ _
  | irem _ => exact commits_issue _ _ _ _
  | iremImm _ => exact commits_issue _ _ _ _
  | icmp _ => exact commits_issue _ _ _ _
  | icmpImm _ => exact commits_issue _ _ _ _
  | mov _ => exact commits_issue _ _ _ _
  | movFirst _ => exact commits_issue _ _ _ _
  | movi _ => exact commits_issue _ _ _ _
  | moviHi _ => exact commits_issue _ _ _ _
  | orR _ => exact commits_issue _ _ _ _
  | orImm _ => exact commits_issue _ _ _ _
  | popc _ => exact commits_issue _ _ _ _
  | rot _ => exact commits_issue _ _ _ _
  | rotImm _ => exact commits_issue _ _ _ _
  | sel _ => exact commits_issue _ _ _ _
  | shl _ => exact commits_issue _ _ _ _
  | shlImm _ => exact commits_issue _ _ _ _
  | shr _ => exact commits_issue _ _ _ _
  | shrImm _ => exact commits_issue _ _ _ _
  | sra _ => exact commits_issue _ _ _ _
  | sraImm _ => exact commits_issue _ _ _ _
  | xorR _ => exact commits_issue _ _ _ _
  | xorImm _ => exact commits_issue _ _ _ _
  | cvt _ => exact commits_issue _ _ _ _
  | fadd _ => exact commits_issue _ _ _ _
  | faddImm _ => exact commits_issue _ _ _ _
  | fsub _ => exact commits_issue _ _ _ _
  | fsubImm _ => exact commits_issue _ _ _ _
  | fmul _ => exact commits_issue _ _ _ _
  | fmulImm _ => exact commits_issue _ _ _ _
  | fdiv _ => exact commits_issue _ _ _ _
  | fdivImm _ => exact commits_issue _ _ _ _
  | ffma _ => exact commits_issue _ _ _ _
  | fmax _ => exact commits_issue _ _ _ _
  | fmaxImm _ => exact commits_issue _ _ _ _
  | fmin _ => exact commits_issue _ _ _ _
  | fminImm _ => exact commits_issue _ _ _ _
  | fcmp _ => exact commits_issue _ _ _ _
  | fcmpImm _ => exact commits_issue _ _ _ _
  | frnd _ => exact commits_issue _ _ _ _
  | fsqrt _ => exact commits_issue _ _ _ _
  | frcp _ => exact commits_issue _ _ _ _
  | frsq _ => exact commits_issue _ _ _ _
  | fexp2 _ => exact commits_issue _ _ _ _
  | flog2 _ => exact commits_issue _ _ _ _
  | fsin _ => exact commits_issue _ _ _ _
  | fcos _ => exact commits_issue _ _ _ _
  | ftsum _ => exact commits_issue _ _ _ _
  | pfma _ => exact commits_issue _ _ _ _
  | muel _ => exact commits_issue _ _ _ _
  | wadd _ => exact commits_issue _ _ _ _
  | wmul _ => exact commits_issue _ _ _ _
  | wfma _ => exact commits_issue _ _ _ _
  | wscal _ => exact commits_issue _ _ _ _
  | wexp _ => exact commits_issue _ _ _ _
  | wspan _ => exact commits_issue _ _ _ _
  | wsum _ => exact commits_issue _ _ _ _
  | wdot _ => exact commits_issue _ _ _ _
  | facc _ => exact commits_issue _ _ _ _
  | leafx _ => exact commits_issue _ _ _ _
  | tex _ => exact commits_issue _ _ _ _
  | texq _ => exact commits_issue _ _ _ _
  | texqRead _ => exact commits_issue _ _ _ _
  | trace _ => exact commits_issue _ _ _ _
  | ld _ => exact commits_issue _ _ _ _
  | st _ => exact commits_issue _ _ _ _
  | atom _ => exact commits_issue _ _ _ _
  | cas _ => exact commits_issue _ _ _ _
  | fence _ => exact commits_issue _ _ _ _
  | fenceWalk _ => exact commits_issue _ _ _ _
  | cflush _ => exact commits_issue _ _ _ _
  | pref _ => exact commits_issue _ _ _ _
  | mcst _ => exact commits_issue _ _ _ _
  | pldConv _ => exact commits_issue _ _ _ _
  | pldRed _ => exact commits_issue _ _ _ _
  | coll _ => exact commits_issue _ _ _ _
  | copy _ => exact commits_issue _ _ _ _
  | gath _ => exact commits_issue _ _ _ _
  | scat _ => exact commits_issue _ _ _ _
  | scatAdd _ => exact commits_issue _ _ _ _
  | csig _ => exact commits_issue _ _ _ _
  | csigNode _ => exact commits_issue _ _ _ _
  | ctest _ => exact commits_issue _ _ _ _
  | cwait _ => exact commits_issue _ _ _ _
  | node _ => exact commits_issue _ _ _ _
  | placeSet _ => exact commits_issue _ _ _ _
  | placeGet _ => exact commits_issue _ _ _ _
  | mwl _ => exact commits_issue _ _ _ _
  | mmac _ => exact commits_issue _ _ _ _
  | mzero _ => exact commits_issue _ _ _ _
  | mdrn _ => exact commits_issue _ _ _ _
  | vxm _ => exact commits_issue _ _ _ _
  | bar _ => exact commits_issue _ _ _ _
  | barArv _ => exact commits_issue _ _ _ _
  | decp _ => exact commits_issue _ _ _ _
  | dect _ => exact commits_issue _ _ _ _
  | lred _ => exact commits_issue _ _ _ _
  | matchR _ => exact commits_issue _ _ _ _
  | slane _ => exact commits_issue _ _ _ _
  | vpoll _ => exact commits_issue _ _ _ _
  | qpush _ => exact commits_issue _ _ _ _
  | qpop _ => exact commits_issue _ _ _ _
  | racq _ => exact commits_issue _ _ _ _
  | rrel _ => exact commits_issue _ _ _ _
  | xenq _ => exact commits_issue _ _ _ _
  | xdeq _ => exact commits_issue _ _ _ _
  | xstatQuery _ => exact commits_issue _ _ _ _
  | xstatFlush _ => exact commits_issue _ _ _ _
  | xstatReset _ => exact commits_issue _ _ _ _
  | bkpt _ => exact commits_issue _ _ _ _
  | gfin _ => exact commits_issue _ _ _ _
  | gfail _ => exact commits_issue _ _ _ _
  | merge _ => exact commits_issue _ _ _ _
  | rtt _ => exact commits_issue _ _ _ _
  | sreg _ => exact commits_issue _ _ _ _
  | swr _ => exact commits_issue _ _ _ _
  | trap _ => exact commits_issue _ _ _ _
  | lineFetch => exact commits_lineFetch _
  | parkedThreadReexecute _ _ => exact commits_commit _ _
  | fairnessTimerExpiry _ => exact commits_commit _ _
  | joinBarrierExpiry _ _ => exact commits_commit _ _
  | watchdog _ _ => exact commits_commit _ _
  | teamRetirement _ => exact commits_commit _ _
  | gridRetirement _ => exact commits_commit _ _
  | teamPlacement => exact commits_commit _ _
  | activeSetExchange _ _ => exact commits_commit _ _
  | blockedWaveSwap _ _ => exact commits_commit _ _
  | rotation _ _ => exact commits_commit _ _
  | registerMoveComplete _ => exact commits_commit _ _
  | skidStop _ => exact commits_commit _ _
  | engineCauseDelivery _ => exact commits_commit _ _
  | quarterTransfer _ _ _ => exact commits_commit _ _
  | matrixFifoAcceptance _ => exact commits_commit _ _
  | matrixEntryStart _ _ => exact commits_commit _ _
  | matrixEntryCompletion _ _ => exact commits_commit _ _
  | transferAcceptance _ => exact commits_commit _ _
  | sectorWrite _ _ => exact commits_commit _ _
  | transferCompletion _ => exact commits_commit _ _
  | csigEffect _ => exact commits_commit _ _
  | collectiveChunk _ _ => exact commits_commit _ _
  | conversionStart _ _ => exact commits_commit _ _
  | conversionEnd _ _ => exact commits_commit _ _
  | loadReply _ => exact commits_commit _ _
  | atomicReply _ => exact commits_commit _ _
  | texSampleComplete _ => exact commits_commit _ _
  | traceWalkEnd _ => exact commits_commit _ _
  | deferredUpdateArrival _ => exact commits_commit _ _
  | mergePerform _ => exact commits_commit _ _
  | fillFrameAvailable _ _ => exact commits_commit _ _
  | graphWorkCompletion _ _ => exact commits_commit _ _
  | enqueueEvent _ => exact commits_commit _ _
  | channelGrant _ => exact commits_commit _ _
  | laneReclaim _ => exact commits_commit _ _
  | rowActivationRefresh _ _ => exact commits_commit _ _
  | dirtyLineWriteBack _ _ _ => exact commits_commit _ _
  | portLinkLoss _ => exact commits_commit _ _
  | ualinkRequest _ => exact commits_commit _ _
  | boot => exact commits_commit _ _
  | powerLimitSet _ => exact commits_commit _ _
  | clockStepChange _ => exact commits_commit _ _
  | thermalStepDown _ => exact commits_commit _ _
  | thermalShutdown _ => exact commits_commit _ _
  | preemptAcknowledgement _ _ => exact commits_commit _ _
  | ctxCreate _ _ => exact commits_control _ _ _
  | ctxDestroy _ _ => exact commits_controlCtx _ _ _
  | map _ _ => exact commits_queued _ _ _ _
  | unmap _ _ => exact commits_queued _ _ _ _
  | launchCommand _ _ => exact commits_queued _ _ _ _
  | graphNode _ _ => exact commits_queued _ _ _ _
  | signal _ _ => exact commits_queued _ _ _ _
  | wait _ _ => exact commits_queued _ _ _ _
  | waitCompletion _ _ => exact commits_commit _ _
  | setDlevel _ _ => exact commits_queued _ _ _ _
  | procRangeRegister _ _ => exact commits_queued _ _ _ _
  | procRangeReset _ _ => exact commits_queued _ _ _ _
  | procRangeDeregister _ _ => exact commits_queued _ _ _ _
  | expertSetCreate _ _ => exact commits_queued _ _ _ _
  | expertSetDelete _ _ => exact commits_queued _ _ _ _
  | placementSet _ _ => exact commits_queued _ _ _ _
  | trigger _ _ => exact commits_queued _ _ _ _
  | preemptStop _ _ => exact commits_queued _ _ _ _
  | preemptResume _ _ => exact commits_controlCtx _ _ _
  | retentionRemove _ _ => exact commits_queued _ _ _ _
  | retentionRestore _ _ => exact commits_queued _ _ _ _
  | queryIdentity _ _ => exact commits_packageQuery _ _ _ _ _
  | queryErrorLog _ _ => exact commits_packageQuery _ _ _ _ _
  | queryCoreAssignment _ _ => exact commits_packageQuery _ _ _ _ _
  | queryBlockStates _ _ => exact commits_contextQuery _ _ _ _ _
  | queryGraphLog _ _ => exact commits_contextQuery _ _ _ _ _
  | queryLinkLog _ _ => exact commits_packageQuery _ _ _ _ _
  | queryContextSummary _ _ => exact commits_contextQuery _ _ _ _ _
  | attest h b =>
    simp only [exec, execAttest]
    exact commits_control _ _ _
  | unknownCmdMessage _ => exact commits_commit _ _
  | unassignedCodePoint _ => exact commits_badOpcode _ _
  | dataLaneLending _ => exact commits_commit _ _

end Sys2Proof.Machine
end

