-- ==== Sys2Proof/Laws/Decode.lean ====
section
/-!
SUPPORT. The fields of a slot that the encoder wrote are read back as they were, format by format (R73, R77 to R83).
-/
namespace Sys2Proof

open Machine

theorem extract_high {n m : Nat} {x : BitVec n} {y : BitVec m} {k w : Nat} (h : m ≤ k) :
    (x ++ y).extractLsb' k w = x.extractLsb' (k - m) w := by
  ext i hi
  simp only [BitVec.getElem_extractLsb', BitVec.getLsbD_append]
  rw [if_neg (by omega)]; congr 1; omega

theorem extract_low {n m : Nat} {x : BitVec n} {y : BitVec m} {k w : Nat} (h : k + w ≤ m) :
    (x ++ y).extractLsb' k w = y.extractLsb' k w := by
  ext i hi
  simp only [BitVec.getElem_extractLsb', BitVec.getLsbD_append]
  rw [if_pos (by omega)]

theorem extract_all {n : Nat} {x : BitVec n} {k : Nat} (h : k = 0) : x.extractLsb' k n = x := by
  subst h; ext i hi; simp

theorem bit_high {n m : Nat} {x : BitVec n} {y : BitVec m} {k : Nat} (h : m ≤ k) :
    (x ++ y).getLsbD k = x.getLsbD (k - m) := by
  rw [BitVec.getLsbD_append, if_neg (by omega)]

theorem bit_low {n m : Nat} {x : BitVec n} {y : BitVec m} {k : Nat} (h : k < m) : (x ++ y).getLsbD k = y.getLsbD k := by
  rw [BitVec.getLsbD_append, if_pos h]

theorem bit_bool {b : Bool} {k : Nat} (h : k = 0) : (BitVec.ofBool b).getLsbD k = b := by
  subst h; cases b <;> rfl

theorem bit_zero {n k : Nat} : (0#n).getLsbD k = false := by simp

/-- Format R: the fields, the reserved bits and the opcode of an encoded slot. -/
theorem getR_encR (o : Nat) (f : FmtR) : getR (encR o f) = f := by
  obtain ⟨⟨fe, gn, g⟩, d, a, b, c, ty, mode, fn⟩ := f
  simp only [getR, encR, getHdr, encHdr, FmtR.mk.injEq, Hdr.mk.injEq]
  refine ⟨⟨?_, ?_, ?_⟩, ?_, ?_, ?_, ?_, ?_, ?_, ?_⟩
  all_goals repeat first
    | exact extract_all (by decide)
    | exact bit_bool (by decide)
    | refine (extract_high (by decide)).trans ?_
    | refine (extract_low (by decide)).trans ?_
    | refine (bit_high (by decide)).trans ?_
    | refine (bit_low (by decide)).trans ?_

theorem opcOf_encR (o : Nat) (f : FmtR) : opcOf (encR o f) = o % 1024 := by
  have h : (encR o f).extractLsb' 0 10 = BitVec.ofNat 10 o := by
    simp only [encR, encHdr]
    repeat first
      | exact extract_all (by decide)
      | refine (extract_low (by decide)).trans ?_
  rw [opcOf, h, BitVec.toNat_ofNat]

theorem resR_encR (o : Nat) (f : FmtR) : resR (encR o f) = true := by
  have h1 : (encR o f).getLsbD 17 = false := by
    simp only [encR]
    repeat first
      | exact bit_zero
      | refine (bit_low (by decide)).trans ?_
      | refine (bit_high (by decide)).trans ?_
  have h2 : (encR o f).extractLsb' 72 24 = 0#24 := by
    simp only [encR]
    repeat first
      | exact extract_all (by decide)
      | refine (extract_low (by decide)).trans ?_
      | refine (extract_high (by decide)).trans ?_
  rw [resR, h1, h2]; rfl

theorem decR_encR (o : Nat) (f : FmtR) (k : FmtR → Instr) : decR (encR o f) k = some (k f) := by
  rw [decR, resR_encR, getR_encR]; rfl

/-- Format I: the fields, the reserved bits and the opcode of an encoded slot. -/
theorem getI_encI (o : Nat) (f : FmtI) : getI (encI o f) = f := by
  obtain ⟨⟨fe, gn, g⟩, d, a, ty, mode, fn, imm⟩ := f
  simp only [getI, encI, getHdr, encHdr, FmtI.mk.injEq, Hdr.mk.injEq]
  refine ⟨⟨?_, ?_, ?_⟩, ?_, ?_, ?_, ?_, ?_, ?_⟩
  all_goals repeat first
    | exact extract_all (by decide)
    | exact bit_bool (by decide)
    | refine (extract_high (by decide)).trans ?_
    | refine (extract_low (by decide)).trans ?_
    | refine (bit_high (by decide)).trans ?_
    | refine (bit_low (by decide)).trans ?_

theorem opcOf_encI (o : Nat) (f : FmtI) : opcOf (encI o f) = o % 1024 := by
  have h : (encI o f).extractLsb' 0 10 = BitVec.ofNat 10 o := by
    simp only [encI, encHdr]
    repeat first
      | exact extract_all (by decide)
      | refine (extract_low (by decide)).trans ?_
  rw [opcOf, h, BitVec.toNat_ofNat]

theorem resI_encI (o : Nat) (f : FmtI) : resI (encI o f) = true := by
  have h1 : (encI o f).getLsbD 17 = false := by
    simp only [encI]
    repeat first
      | exact bit_zero
      | refine (bit_low (by decide)).trans ?_
      | refine (bit_high (by decide)).trans ?_
  have h2 : (encI o f).extractLsb' 54 10 = 0#10 := by
    simp only [encI]
    repeat first
      | exact extract_all (by decide)
      | refine (extract_low (by decide)).trans ?_
      | refine (extract_high (by decide)).trans ?_
  rw [resI, h1, h2]; rfl

theorem decI_encI (o : Nat) (f : FmtI) (k : FmtI → Instr) : decI (encI o f) k = some (k f) := by
  rw [decI, resI_encI, getI_encI]; rfl

/-- Format M: the fields, the reserved bits and the opcode of an encoded slot. -/
theorem getM_encM (o : Nat) (f : FmtM) : getM (encM o f) = f := by
  obtain ⟨⟨fe, gn, g⟩, ds, ab, ai, sc, ord, rd, rep, sp, wd, off⟩ := f
  simp only [getM, encM, getHdr, encHdr, FmtM.mk.injEq, Hdr.mk.injEq]
  refine ⟨⟨?_, ?_, ?_⟩, ?_, ?_, ?_, ?_, ?_, ?_, ?_, ?_, ?_, ?_⟩
  all_goals repeat first
    | exact extract_all (by decide)
    | exact bit_bool (by decide)
    | refine (extract_high (by decide)).trans ?_
    | refine (extract_low (by decide)).trans ?_
    | refine (bit_high (by decide)).trans ?_
    | refine (bit_low (by decide)).trans ?_

theorem opcOf_encM (o : Nat) (f : FmtM) : opcOf (encM o f) = o % 1024 := by
  have h : (encM o f).extractLsb' 0 10 = BitVec.ofNat 10 o := by
    simp only [encM, encHdr]
    repeat first
      | exact extract_all (by decide)
      | refine (extract_low (by decide)).trans ?_
  rw [opcOf, h, BitVec.toNat_ofNat]

theorem resM_encM (o : Nat) (f : FmtM) : resM (encM o f) = true := by
  have h1 : (encM o f).getLsbD 17 = false := by
    simp only [encM]
    repeat first
      | exact bit_zero
      | refine (bit_low (by decide)).trans ?_
      | refine (bit_high (by decide)).trans ?_
  have h2 : (encM o f).getLsbD 63 = false := by
    simp only [encM]
    repeat first
      | exact bit_zero
      | refine (bit_low (by decide)).trans ?_
      | refine (bit_high (by decide)).trans ?_
  rw [resM, h1, h2]; rfl

theorem decM_encM (o : Nat) (f : FmtM) (k : FmtM → Instr) : decM (encM o f) k = some (k f) := by
  rw [decM, resM_encM, getM_encM]; rfl

/-- Format X: the fields, the reserved bits and the opcode of an encoded slot. -/
theorem getX_encX (o : Nat) (f : FmtX) : getX (encX o f) = f := by
  obtain ⟨⟨fe, gn, g⟩, d, a, b, c, fn, px, py, pb, imm8⟩ := f
  simp only [getX, encX, getHdr, encHdr, FmtX.mk.injEq, Hdr.mk.injEq]
  refine ⟨⟨?_, ?_, ?_⟩, ?_, ?_, ?_, ?_, ?_, ?_, ?_, ?_, ?_⟩
  all_goals repeat first
    | exact extract_all (by decide)
    | exact bit_bool (by decide)
    | refine (extract_high (by decide)).trans ?_
    | refine (extract_low (by decide)).trans ?_
    | refine (bit_high (by decide)).trans ?_
    | refine (bit_low (by decide)).trans ?_

theorem opcOf_encX (o : Nat) (f : FmtX) : opcOf (encX o f) = o % 1024 := by
  have h : (encX o f).extractLsb' 0 10 = BitVec.ofNat 10 o := by
    simp only [encX, encHdr]
    repeat first
      | exact extract_all (by decide)
      | refine (extract_low (by decide)).trans ?_
  rw [opcOf, h, BitVec.toNat_ofNat]

theorem resX_encX (o : Nat) (f : FmtX) : resX (encX o f) = true := by
  have h1 : (encX o f).getLsbD 17 = false := by
    simp only [encX]
    repeat first
      | exact bit_zero
      | refine (bit_low (by decide)).trans ?_
      | refine (bit_high (by decide)).trans ?_
  have h2 : (encX o f).extractLsb' 90 6 = 0#6 := by
    simp only [encX]
    repeat first
      | exact extract_all (by decide)
      | refine (extract_low (by decide)).trans ?_
      | refine (extract_high (by decide)).trans ?_
  rw [resX, h1, h2]; rfl

theorem decX_encX (o : Nat) (f : FmtX) (k : FmtX → Instr) : decX (encX o f) k = some (k f) := by
  rw [decX, resX_encX, getX_encX]; rfl

/-- Format B: the fields, the reserved bits and the opcode of an encoded slot. -/
theorem getB_encB (o : Nat) (f : FmtB) : getB (encB o f) = f := by
  obtain ⟨⟨fe, gn, g⟩, u, loff, slot, a, j, bound⟩ := f
  simp only [getB, encB, getHdr, encHdr, FmtB.mk.injEq, Hdr.mk.injEq]
  refine ⟨⟨?_, ?_, ?_⟩, ?_, ?_, ?_, ?_, ?_, ?_⟩
  all_goals repeat first
    | exact extract_all (by decide)
    | exact bit_bool (by decide)
    | refine (extract_high (by decide)).trans ?_
    | refine (extract_low (by decide)).trans ?_
    | refine (bit_high (by decide)).trans ?_
    | refine (bit_low (by decide)).trans ?_

theorem opcOf_encB (o : Nat) (f : FmtB) : opcOf (encB o f) = o % 1024 := by
  have h : (encB o f).extractLsb' 0 10 = BitVec.ofNat 10 o := by
    simp only [encB, encHdr]
    repeat first
      | exact extract_all (by decide)
      | refine (extract_low (by decide)).trans ?_
  rw [opcOf, h, BitVec.toNat_ofNat]

theorem resB_encB (o : Nat) (f : FmtB) : resB (encB o f) = true := by
  have h1 : (encB o f).extractLsb' 55 9 = 0#9 := by
    simp only [encB]
    repeat first
      | exact extract_all (by decide)
      | refine (extract_low (by decide)).trans ?_
      | refine (extract_high (by decide)).trans ?_
  rw [resB, h1]; rfl

theorem decB_encB (o : Nat) (f : FmtB) (k : FmtB → Instr) : decB (encB o f) k = some (k f) := by
  rw [decB, resB_encB, getB_encB]; rfl

/-- Format W: the fields, the reserved bits and the opcode of an encoded slot. -/
theorem getW_encW (o : Nat) (f : FmtW) : getW (encW o f) = f := by
  obtain ⟨⟨fe, gn, g⟩, wd, wa, wb, wc, vs, fn, mode⟩ := f
  simp only [getW, encW, getHdr, encHdr, FmtW.mk.injEq, Hdr.mk.injEq]
  refine ⟨⟨?_, ?_, ?_⟩, ?_, ?_, ?_, ?_, ?_, ?_, ?_⟩
  all_goals repeat first
    | exact extract_all (by decide)
    | exact bit_bool (by decide)
    | refine (extract_high (by decide)).trans ?_
    | refine (extract_low (by decide)).trans ?_
    | refine (bit_high (by decide)).trans ?_
    | refine (bit_low (by decide)).trans ?_

theorem opcOf_encW (o : Nat) (f : FmtW) : opcOf (encW o f) = o % 1024 := by
  have h : (encW o f).extractLsb' 0 10 = BitVec.ofNat 10 o := by
    simp only [encW, encHdr]
    repeat first
      | exact extract_all (by decide)
      | refine (extract_low (by decide)).trans ?_
  rw [opcOf, h, BitVec.toNat_ofNat]

theorem resW_encW (o : Nat) (f : FmtW) : resW (encW o f) = true := by
  have h1 : (encW o f).getLsbD 17 = false := by
    simp only [encW]
    repeat first
      | exact bit_zero
      | refine (bit_low (by decide)).trans ?_
      | refine (bit_high (by decide)).trans ?_
  have h2 : (encW o f).extractLsb' 57 39 = 0#39 := by
    simp only [encW]
    repeat first
      | exact extract_all (by decide)
      | refine (extract_low (by decide)).trans ?_
      | refine (extract_high (by decide)).trans ?_
  rw [resW, h1, h2]; rfl

theorem decW_encW (o : Nat) (f : FmtW) (k : FmtW → Instr) : decW (encW o f) k = some (k f) := by
  rw [decW, resW_encW, getW_encW]; rfl

/-- `x` holds the bits of `w` from bit `k` on. -/
def Agree {n N : Nat} (w : BitVec N) (k : Nat) (x : BitVec n) : Prop := ∀ i, i < n → x.getLsbD i = w.getLsbD (k + i)

theorem agree_append {n m N : Nat} {w : BitVec N} {k : Nat} {x : BitVec n} {y : BitVec m} (hx : Agree w (k + m) x)
    (hy : Agree w k y) : Agree w k (x ++ y) := by
  intro i hi
  by_cases h : i < m
  · rw [bit_low h]; exact hy i h
  · rw [bit_high (by omega), hx (i - m) (by omega)]; congr 1; omega

theorem agree_extract {n N : Nat} {w : BitVec N} {k j : Nat} (h : j = k) : Agree w k (w.extractLsb' j n) := by
  subst h; intro i hi; simp [hi]

theorem agree_bit {N : Nat} {w : BitVec N} {k j : Nat} (h : j = k) : Agree w k (BitVec.ofBool (w.getLsbD j)) := by
  subst h
  intro i hi
  have : i = 0 := by omega
  subst this
  exact bit_bool rfl

theorem agree_eq {n N : Nat} {w : BitVec N} {k j : Nat} {x : BitVec n} (h : w.extractLsb' j n = x) (e : j = k) : Agree w k x := by
  subst h; exact agree_extract e

theorem agree_clear {N : Nat} {w : BitVec N} {k j : Nat} (h : w.getLsbD j = false) (e : j = k) : Agree w k (0#1) := by
  subst e
  intro i hi
  have : i = 0 := by omega
  subst this
  simpa using h.symm

theorem eq_of_agree {w x : Slot} (h : Agree w 0 x) : x = w :=
  BitVec.eq_of_getLsbD_eq (fun i hi => by simpa using h i hi)

theorem opc_field {w : Slot} {o : Nat} (ho : opcOf w = o) : w.extractLsb' 0 10 = BitVec.ofNat 10 o := by
  subst ho; exact (BitVec.ofNat_toNat _ _).symm ▸ (by simp)

/-- A slot with its reserved bits zero is what the encoder writes for its opcode and fields. -/
theorem encR_getR {w : Slot} {o : Nat} (ho : opcOf w = o) (h : resR w = true) : encR o (getR w) = w := by
  have h1 : w.getLsbD 17 = false ∧ w.extractLsb' 72 24 = 0 := by
    simpa only [resR, Bool.and_eq_true, Bool.not_eq_true', beq_iff_eq] using h
  refine eq_of_agree ?_
  simp only [encR, getR, getHdr, encHdr]
  repeat' first
    | with_reducible refine agree_append ?_ ?_
    | with_reducible exact agree_extract (by decide)
    | with_reducible exact agree_bit (by decide)
    | with_reducible exact agree_eq (opc_field ho) (by decide)
    | with_reducible exact agree_clear h1.1 (by decide)
    | with_reducible exact agree_eq h1.2 (by decide)

/-- A slot with its reserved bits zero is what the encoder writes for its opcode and fields. -/
theorem encI_getI {w : Slot} {o : Nat} (ho : opcOf w = o) (h : resI w = true) : encI o (getI w) = w := by
  have h1 : w.getLsbD 17 = false ∧ w.extractLsb' 54 10 = 0 := by
    simpa only [resI, Bool.and_eq_true, Bool.not_eq_true', beq_iff_eq] using h
  refine eq_of_agree ?_
  simp only [encI, getI, getHdr, encHdr]
  repeat' first
    | with_reducible refine agree_append ?_ ?_
    | with_reducible exact agree_extract (by decide)
    | with_reducible exact agree_bit (by decide)
    | with_reducible exact agree_eq (opc_field ho) (by decide)
    | with_reducible exact agree_clear h1.1 (by decide)
    | with_reducible exact agree_eq h1.2 (by decide)

/-- A slot with its reserved bits zero is what the encoder writes for its opcode and fields. -/
theorem encM_getM {w : Slot} {o : Nat} (ho : opcOf w = o) (h : resM w = true) : encM o (getM w) = w := by
  have h1 : w.getLsbD 17 = false ∧ w.getLsbD 63 = false := by
    simpa only [resM, Bool.and_eq_true, Bool.not_eq_true', beq_iff_eq] using h
  refine eq_of_agree ?_
  simp only [encM, getM, getHdr, encHdr]
  repeat' first
    | with_reducible refine agree_append ?_ ?_
    | with_reducible exact agree_extract (by decide)
    | with_reducible exact agree_bit (by decide)
    | with_reducible exact agree_eq (opc_field ho) (by decide)
    | with_reducible exact agree_clear h1.1 (by decide)
    | with_reducible exact agree_clear h1.2 (by decide)

/-- A slot with its reserved bits zero is what the encoder writes for its opcode and fields. -/
theorem encX_getX {w : Slot} {o : Nat} (ho : opcOf w = o) (h : resX w = true) : encX o (getX w) = w := by
  have h1 : w.getLsbD 17 = false ∧ w.extractLsb' 90 6 = 0 := by
    simpa only [resX, Bool.and_eq_true, Bool.not_eq_true', beq_iff_eq] using h
  refine eq_of_agree ?_
  simp only [encX, getX, getHdr, encHdr]
  repeat' first
    | with_reducible refine agree_append ?_ ?_
    | with_reducible exact agree_extract (by decide)
    | with_reducible exact agree_bit (by decide)
    | with_reducible exact agree_eq (opc_field ho) (by decide)
    | with_reducible exact agree_clear h1.1 (by decide)
    | with_reducible exact agree_eq h1.2 (by decide)

/-- A slot with its reserved bits zero is what the encoder writes for its opcode and fields. -/
theorem encB_getB {w : Slot} {o : Nat} (ho : opcOf w = o) (h : resB w = true) : encB o (getB w) = w := by
  have h1 : w.extractLsb' 55 9 = 0 := by simpa [resB] using h
  refine eq_of_agree ?_
  simp only [encB, getB, getHdr, encHdr]
  repeat' first
    | with_reducible refine agree_append ?_ ?_
    | with_reducible exact agree_extract (by decide)
    | with_reducible exact agree_bit (by decide)
    | with_reducible exact agree_eq (opc_field ho) (by decide)
    | with_reducible exact agree_eq h1 (by decide)

/-- A slot with its reserved bits zero is what the encoder writes for its opcode and fields. -/
theorem encW_getW {w : Slot} {o : Nat} (ho : opcOf w = o) (h : resW w = true) : encW o (getW w) = w := by
  have h1 : w.getLsbD 17 = false ∧ w.extractLsb' 57 39 = 0 := by
    simpa only [resW, Bool.and_eq_true, Bool.not_eq_true', beq_iff_eq] using h
  refine eq_of_agree ?_
  simp only [encW, getW, getHdr, encHdr]
  repeat' first
    | with_reducible refine agree_append ?_ ?_
    | with_reducible exact agree_extract (by decide)
    | with_reducible exact agree_bit (by decide)
    | with_reducible exact agree_eq (opc_field ho) (by decide)
    | with_reducible exact agree_clear h1.1 (by decide)
    | with_reducible exact agree_eq h1.2 (by decide)

/-- A slot whose opcode and row are known decodes to the row's instruction when that is well formed. -/
theorem decodeSlot_of {w : Slot} {o : Nat} {i : Instr} (ho : opcOf w = o) (hd : decodeOp o w = some i) (hi : i.wf = true) :
    decodeSlot w = .ok i := by
  rw [decodeSlot, ho, hd]; simp [hi]

end Sys2Proof
end

