-- ==== Sys2Proof/Laws/Held.lean ====
section
/-!
SUPPORT. What held accesses, request slots and sector names come to where nothing is held: the forms in which a proof meets them in a
state without a conversion.
-/
namespace Sys2Proof.Machine

variable (s : State)

/-- Every sector has one name, and every name one sector (R199). -/
theorem sectorOf_sectorName (k : Int) : sectorOf (sectorName k) = k := by
  unfold sectorOf sectorName
  split <;> split <;> omega
theorem sectorName_sectorOf (n : Nat) : sectorName (sectorOf n) = n := by
  unfold sectorOf sectorName
  split <;> split <;> omega

/-- No access keeps no slot (R207). -/
@[simp] theorem State.keepSlots_nil (core : Nat) (w : WaveId) : s.keepSlots core w [] = s := rfl

/-- A value in an S register keeps the slots of its accesses (R207). -/
theorem State.keepSlots_waves (core : Nat) (w : WaveId) (slots : List SlotTok) : (s.keepSlots core w slots).waves = s.waves := by
  unfold State.keepSlots; split <;> rfl
theorem State.keepSlots_mem (core : Nat) (w : WaveId) (slots : List SlotTok) : (s.keepSlots core w slots).mem = s.mem := by
  unfold State.keepSlots; split <;> rfl

variable {s}

/-- Work of which nothing is held and which nothing holds (R320, R236). -/
theorem State.placesOf_none {work : Nat × Nat} (h : ∀ b ∈ s.heldBytes, b.work ≠ work) (part : Nat) : s.placesOf work part = [] := by
  unfold State.placesOf
  rw [List.filter_eq_nil_iff.mpr (fun b hb => by simp [h b hb])]; rfl
theorem State.freedOf_none {work : Nat × Nat} (h : ∀ b ∈ s.heldBytes, b.work ≠ work) (part : Nat) : s.freedOf work part = [] := by
  unfold State.freedOf
  rw [List.filter_eq_nil_iff.mpr (fun b hb => by simp [h b hb])]; rfl
theorem State.viaCtx_none {work : Nat × Nat} (h : ∀ b ∈ s.heldBytes, b.work ≠ work) (c : Ctx) (part va : Nat) :
    s.viaCtx c work part va = c := by
  simp [State.viaCtx, State.freedOf_none h]
theorem State.unstall_none {work : Nat × Nat} (h : ∀ b ∈ s.stalls, b.work ≠ work) : s.unstall work = s := by
  unfold State.unstall
  rw [List.filter_eq_self.mpr (fun b hb => by simpa using h b hb)]
theorem State.dropBytes_none {work : Nat × Nat} (h : ∀ b ∈ s.heldBytes, b.work ≠ work) (k : ∀ b ∈ s.stalls, b.work ≠ work) :
    s.dropBytes work = s := by
  unfold State.dropBytes
  rw [List.filter_eq_self.mpr (fun b (hb : b ∈ s.heldBytes) => by simpa using h b hb),
    List.filter_eq_self.mpr (fun b (hb : b ∈ s.stalls) => by simpa using k b hb)]

@[simp] theorem Places.accs_nil (as : List (Int × Nat)) : Places.accs [] as = as := rfl
@[simp] theorem Places.runs_nil (runs : List (Nat × List Byte)) : Places.runs [] runs = runs := rfl
@[simp] theorem Places.read_nil (rd : Int → Nat → Nat) : Places.read [] rd = rd := rfl

/-- Accesses of such work, with no released access before them, are checked where they are. -/
theorem State.engVia_none {work : Nat × Nat} (h : ∀ b ∈ s.heldBytes, b.work ≠ work) (c : Ctx) (own : Option (Nat × Nat))
    (view : Option TeamId) (acc : Acc) (part : Nat) {as : List (Int × Nat)}
    (hb : ∀ a ∈ as, s.behind work part c.asid (wrapN 64 a.1) a.2 = false) : s.engVia c own view acc work part as = s.engAll c own view acc as := by
  unfold State.engVia State.engAll
  simp only [State.placesOf_none h, State.viaCtx_none h, Places.accs_nil, List.isEmpty_nil, if_true]
  rw [if_neg]
  simpa using hb

/-- Rows that meet no converting entry are not held (R320). -/
theorem State.holdRows_none {x : Iss} {id : Nat} {rows : List LaneAcc}
    (h : ∀ c, s.ctx? (asidOf x.wid) = some c → ∀ a ∈ rows, c.converting a.va a.n = none) : s.holdRows x id rows = s := by
  unfold State.holdRows
  split
  · rename_i c hc
    rw [if_neg (by simpa using h c hc)]
  · rfl

/-- Nothing is made anew where nothing was released (R320). -/
theorem State.runHeld_none {asid : Nat} (h : ∀ r ∈ s.waiting, r.freed = true → asidOf r.wave ≠ asid) : s.runHeld asid = s := by
  unfold State.runHeld
  rw [List.filter_eq_nil_iff.mpr (fun r hr => by
    simp only [Bool.and_eq_true, beq_iff_eq, not_and]
    exact h r hr)]
  rfl

end Sys2Proof.Machine
end

