-- ==== Sys2Proof/Laws/PerInstr.lean ====
section
/-!
SUPPORT. What holds of each instruction as syntax, one lemma for each constructor of `Instr`. The family `Decode`: a well-formed
instruction that a slot can hold is decoded from the slot that the encoder writes for it.
-/
namespace Sys2Proof.Laws.Decode

open Sys2Proof Sys2Proof.Machine

/-- Decoding the slot of a well-formed instruction gives the instruction. -/
def Statement (i : Instr) : Prop := i.wf = true → ∀ w, encode i = some w → decodeSlot w = .ok i

theorem of_code {w : Slot} {i : Instr} {o : Nat} {e : Slot} (he : encode i = some e) (hw : encode i = some w)
    (ho : opcOf e = o) (hd : decodeOp o e = some i) (hi : i.wf = true) : decodeSlot w = .ok i := by
  rw [he] at hw
  cases hw
  exact decodeSlot_of ho hd hi

theorem pick_mov {f : FmtR} (hi : (Instr.mov f).wf = true) :
    (if f.fn == 1 then Instr.movFirst f else .mov f) = .mov f := by
  simp [Instr.wf, fieldsOk, oneR] at hi
  simp [hi]

theorem pick_movFirst {f : FmtR} (hi : (Instr.movFirst f).wf = true) :
    (if f.fn == 1 then Instr.movFirst f else .mov f) = .movFirst f := by
  simp [Instr.wf, fieldsOk] at hi
  simp [hi]

theorem pick_movi {f : FmtI} (hi : (Instr.movi f).wf = true) :
    (if f.fn == 1 then Instr.moviHi f else .movi f) = .movi f := by
  simp [Instr.wf, fieldsOk, oneI] at hi
  simp [hi]

theorem pick_moviHi {f : FmtI} (hi : (Instr.moviHi f).wf = true) :
    (if f.fn == 1 then Instr.moviHi f else .movi f) = .moviHi f := by
  simp [Instr.wf, fieldsOk] at hi
  simp [hi]

theorem pick_texq {f : FmtX} (hi : (Instr.texq f).wf = true) :
    (if f.fn == 1 then Instr.texqRead f else .texq f) = .texq f := by
  simp [Instr.wf, fieldsOk, plainX] at hi
  simp [hi]

theorem pick_texqRead {f : FmtX} (hi : (Instr.texqRead f).wf = true) :
    (if f.fn == 1 then Instr.texqRead f else .texq f) = .texqRead f := by
  simp [Instr.wf, fieldsOk] at hi
  simp [hi]

theorem pick_fence {f : FmtM} (hi : (Instr.fence f).wf = true) :
    (if f.ord == 5 then Instr.fenceWalk f else .fence f) = .fence f := by
  simp [Instr.wf, fieldsOk, fenceRest] at hi
  have hb : f.ord ≠ 5 := by intro h; simp [h] at hi
  rw [if_neg (by simpa using hb)]

theorem pick_fenceWalk {f : FmtM} (hi : (Instr.fenceWalk f).wf = true) :
    (if f.ord == 5 then Instr.fenceWalk f else .fence f) = .fenceWalk f := by
  simp [Instr.wf, fieldsOk, fenceRest] at hi
  have hb : f.ord = 5 := BitVec.eq_of_toNat_eq (by simpa using hi.1.2)
  simp [hb]

theorem pick_pldConv {f : FmtX} (hi : (Instr.pldConv f).wf = true) :
    (if f.fn == 1 then Instr.pldRed f else .pldConv f) = .pldConv f := by
  simp [Instr.wf, fieldsOk, plainX] at hi
  simp [hi]

theorem pick_pldRed {f : FmtX} (hi : (Instr.pldRed f).wf = true) :
    (if f.fn == 1 then Instr.pldRed f else .pldConv f) = .pldRed f := by
  simp [Instr.wf, fieldsOk] at hi
  simp [hi]

theorem pick_csig {f : FmtX} (hi : (Instr.csig f).wf = true) :
    (if f.fn == 1 then Instr.csigNode f else .csig f) = .csig f := by
  simp [Instr.wf, fieldsOk, plainX] at hi
  simp [hi]

theorem pick_csigNode {f : FmtX} (hi : (Instr.csigNode f).wf = true) :
    (if f.fn == 1 then Instr.csigNode f else .csig f) = .csigNode f := by
  simp [Instr.wf, fieldsOk] at hi
  simp [hi]

theorem pick_placeSet {f : FmtX} (hi : (Instr.placeSet f).wf = true) :
    (if f.fn == 1 then Instr.placeGet f else .placeSet f) = .placeSet f := by
  simp [Instr.wf, fieldsOk, plainX] at hi
  simp [hi]

theorem pick_placeGet {f : FmtX} (hi : (Instr.placeGet f).wf = true) :
    (if f.fn == 1 then Instr.placeGet f else .placeSet f) = .placeGet f := by
  simp [Instr.wf, fieldsOk] at hi
  simp [hi]

theorem pick_scat {f : FmtX} (hi : (Instr.scat f).wf = true) :
    (if f.imm8.getLsbD 1 then Instr.scatAdd f else .scat f) = .scat f := by
  simp [Instr.wf, fieldsOk] at hi
  have hb : f.imm8.getLsbD 1 = false := by
    have h1 : f.imm8.toNat >>> 1 = 0 := by rw [Nat.shiftRight_eq_div_pow]; omega
    simp [BitVec.getLsbD, Nat.testBit, h1]
  rw [hb]; rfl

theorem pick_scatAdd {f : FmtX} (hi : (Instr.scatAdd f).wf = true) :
    (if f.imm8.getLsbD 1 then Instr.scatAdd f else .scat f) = .scatAdd f := by
  simp [Instr.wf, fieldsOk] at hi
  have hb : f.imm8.getLsbD 1 = true := by
    rw [BitVec.getLsbD, Nat.testBit]
    rcases hi.2 with h | h <;> simp [h]
  rw [hb]; rfl

theorem pick_bar {f : FmtR} (hi : (Instr.bar f).wf = true) :
    (if f.fn.getLsbD 4 then Instr.barArv f else .bar f) = .bar f := by
  simp [Instr.wf, fieldsOk] at hi
  have hb : f.fn.getLsbD 4 = false := by
    have h1 : f.fn.toNat >>> 4 = 0 := by rw [Nat.shiftRight_eq_div_pow]; omega
    simp [BitVec.getLsbD, Nat.testBit, h1]
  rw [hb]; rfl

theorem pick_barArv {f : FmtR} (hi : (Instr.barArv f).wf = true) :
    (if f.fn.getLsbD 4 then Instr.barArv f else .bar f) = .barArv f := by
  simp [Instr.wf, fieldsOk] at hi
  have hb : f.fn.getLsbD 4 = true := by
    have h1 : f.fn.toNat >>> 4 = 1 := by rw [Nat.shiftRight_eq_div_pow]; omega
    simp [BitVec.getLsbD, Nat.testBit, h1]
  rw [hb]; rfl

theorem pick_xstatQuery {f : FmtR} (hi : (Instr.xstatQuery f).wf = true) :
    (if f.fn == 1 then Instr.xstatFlush f else if f.fn == 2 then .xstatReset f else .xstatQuery f) = .xstatQuery f := by
  simp [Instr.wf, fieldsOk] at hi
  simp [hi]

theorem pick_xstatFlush {f : FmtR} (hi : (Instr.xstatFlush f).wf = true) :
    (if f.fn == 1 then Instr.xstatFlush f else if f.fn == 2 then .xstatReset f else .xstatQuery f) = .xstatFlush f := by
  simp [Instr.wf, fieldsOk] at hi
  simp [hi]

theorem pick_xstatReset {f : FmtR} (hi : (Instr.xstatReset f).wf = true) :
    (if f.fn == 1 then Instr.xstatFlush f else if f.fn == 2 then .xstatReset f else .xstatQuery f) = .xstatReset f := by
  simp [Instr.wf, fieldsOk] at hi
  simp [hi]

theorem unassigned (o : Nat) (w : Slot) (h : Instr.wf.assignedOpc o = false) : decodeOp o w = some (.unassignedCodePoint w) := by
  unfold decodeOp
  split <;> first | rfl | exact absurd h (by decide)

theorem of_none {i : Instr} {w : Slot} (he : encode i = none) (hw : encode i = some w) : decodeSlot w = .ok i := by
  rw [he] at hw; cases hw

theorem nop (f : FmtR) : Statement (.nop f) := fun hi _ hw =>
  of_code (o := 0x000) rfl hw (opcOf_encR _ _) (decR_encR _ _ _) hi

theorem exit (f : FmtR) : Statement (.exit f) := fun hi _ hw =>
  of_code (o := 0x001) rfl hw (opcOf_encR _ _) (decR_encR _ _ _) hi

theorem yield (f : FmtR) : Statement (.yield f) := fun hi _ hw =>
  of_code (o := 0x002) rfl hw (opcOf_encR _ _) (decR_encR _ _ _) hi

theorem bra (f : FmtB) : Statement (.bra f) := fun hi _ hw =>
  of_code (o := 0x008) rfl hw (opcOf_encB _ _) (decB_encB _ _ _) hi

theorem bru (f : FmtB) : Statement (.bru f) := fun hi _ hw =>
  of_code (o := 0x009) rfl hw (opcOf_encB _ _) (decB_encB _ _ _) hi

theorem call (f : FmtB) : Statement (.call f) := fun hi _ hw =>
  of_code (o := 0x00A) rfl hw (opcOf_encB _ _) (decB_encB _ _ _) hi

theorem ret (f : FmtB) : Statement (.ret f) := fun hi _ hw =>
  of_code (o := 0x00B) rfl hw (opcOf_encB _ _) (decB_encB _ _ _) hi

theorem jmpi (f : FmtB) : Statement (.jmpi f) := fun hi _ hw =>
  of_code (o := 0x00C) rfl hw (opcOf_encB _ _) (decB_encB _ _ _) hi

theorem rcvset (f : FmtB) : Statement (.rcvset f) := fun hi _ hw =>
  of_code (o := 0x010) rfl hw (opcOf_encB _ _) (decB_encB _ _ _) hi

theorem rcv (f : FmtB) : Statement (.rcv f) := fun hi _ hw =>
  of_code (o := 0x011) rfl hw (opcOf_encB _ _) (decB_encB _ _ _) hi

theorem launch (f : FmtR) : Statement (.launch f) := fun hi _ hw =>
  of_code (o := 0x018) rfl hw (opcOf_encR _ _) (decR_encR _ _ _) hi

theorem agen (f : FmtM) : Statement (.agen f) := fun hi _ hw =>
  of_code (o := 0x040) rfl hw (opcOf_encM _ _) (decM_encM _ _ _) hi

theorem andR (f : FmtR) : Statement (.andR f) := fun hi _ hw =>
  of_code (o := 0x041) rfl hw (opcOf_encR _ _) (decR_encR _ _ _) hi

theorem andImm (f : FmtI) : Statement (.andImm f) := fun hi _ hw =>
  of_code (o := 0x081) rfl hw (opcOf_encI _ _) (decI_encI _ _ _) hi

theorem bfi (f : FmtR) : Statement (.bfi f) := fun hi _ hw =>
  of_code (o := 0x042) rfl hw (opcOf_encR _ _) (decR_encR _ _ _) hi

theorem bfx (f : FmtR) : Statement (.bfx f) := fun hi _ hw =>
  of_code (o := 0x043) rfl hw (opcOf_encR _ _) (decR_encR _ _ _) hi

theorem brev (f : FmtR) : Statement (.brev f) := fun hi _ hw =>
  of_code (o := 0x044) rfl hw (opcOf_encR _ _) (decR_encR _ _ _) hi

theorem bsel (f : FmtR) : Statement (.bsel f) := fun hi _ hw =>
  of_code (o := 0x045) rfl hw (opcOf_encR _ _) (decR_encR _ _ _) hi

theorem clz (f : FmtR) : Statement (.clz f) := fun hi _ hw =>
  of_code (o := 0x046) rfl hw (opcOf_encR _ _) (decR_encR _ _ _) hi

theorem iabs (f : FmtR) : Statement (.iabs f) := fun hi _ hw =>
  of_code (o := 0x047) rfl hw (opcOf_encR _ _) (decR_encR _ _ _) hi

theorem iadd (f : FmtR) : Statement (.iadd f) := fun hi _ hw =>
  of_code (o := 0x048) rfl hw (opcOf_encR _ _) (decR_encR _ _ _) hi

theorem iaddImm (f : FmtI) : Statement (.iaddImm f) := fun hi _ hw =>
  of_code (o := 0x088) rfl hw (opcOf_encI _ _) (decI_encI _ _ _) hi

theorem isub (f : FmtR) : Statement (.isub f) := fun hi _ hw =>
  of_code (o := 0x051) rfl hw (opcOf_encR _ _) (decR_encR _ _ _) hi

theorem isubImm (f : FmtI) : Statement (.isubImm f) := fun hi _ hw =>
  of_code (o := 0x091) rfl hw (opcOf_encI _ _) (decI_encI _ _ _) hi

theorem imul (f : FmtR) : Statement (.imul f) := fun hi _ hw =>
  of_code (o := 0x04E) rfl hw (opcOf_encR _ _) (decR_encR _ _ _) hi

theorem imulImm (f : FmtI) : Statement (.imulImm f) := fun hi _ hw =>
  of_code (o := 0x08E) rfl hw (opcOf_encI _ _) (decI_encI _ _ _) hi

theorem imulh (f : FmtR) : Statement (.imulh f) := fun hi _ hw =>
  of_code (o := 0x04F) rfl hw (opcOf_encR _ _) (decR_encR _ _ _) hi

theorem imulhImm (f : FmtI) : Statement (.imulhImm f) := fun hi _ hw =>
  of_code (o := 0x08F) rfl hw (opcOf_encI _ _) (decI_encI _ _ _) hi

theorem imad (f : FmtR) : Statement (.imad f) := fun hi _ hw =>
  of_code (o := 0x04B) rfl hw (opcOf_encR _ _) (decR_encR _ _ _) hi

theorem imax (f : FmtR) : Statement (.imax f) := fun hi _ hw =>
  of_code (o := 0x04C) rfl hw (opcOf_encR _ _) (decR_encR _ _ _) hi

theorem imaxImm (f : FmtI) : Statement (.imaxImm f) := fun hi _ hw =>
  of_code (o := 0x08C) rfl hw (opcOf_encI _ _) (decI_encI _ _ _) hi

theorem imin (f : FmtR) : Statement (.imin f) := fun hi _ hw =>
  of_code (o := 0x04D) rfl hw (opcOf_encR _ _) (decR_encR _ _ _) hi

theorem iminImm (f : FmtI) : Statement (.iminImm f) := fun hi _ hw =>
  of_code (o := 0x08D) rfl hw (opcOf_encI _ _) (decI_encI _ _ _) hi

theorem idiv (f : FmtR) : Statement (.idiv f) := fun hi _ hw =>
  of_code (o := 0x04A) rfl hw (opcOf_encR _ _) (decR_encR _ _ _) hi

theorem idivImm (f : FmtI) : Statement (.idivImm f) := fun hi _ hw =>
  of_code (o := 0x08A) rfl hw (opcOf_encI _ _) (decI_encI _ _ _) hi

theorem irem (f : FmtR) : Statement (.irem f) := fun hi _ hw =>
  of_code (o := 0x050) rfl hw (opcOf_encR _ _) (decR_encR _ _ _) hi

theorem iremImm (f : FmtI) : Statement (.iremImm f) := fun hi _ hw =>
  of_code (o := 0x090) rfl hw (opcOf_encI _ _) (decI_encI _ _ _) hi

theorem icmp (f : FmtR) : Statement (.icmp f) := fun hi _ hw =>
  of_code (o := 0x049) rfl hw (opcOf_encR _ _) (decR_encR _ _ _) hi

theorem icmpImm (f : FmtI) : Statement (.icmpImm f) := fun hi _ hw =>
  of_code (o := 0x089) rfl hw (opcOf_encI _ _) (decI_encI _ _ _) hi

theorem mov (f : FmtR) : Statement (.mov f) := fun hi _ hw =>
  of_code (o := 0x052) rfl hw (opcOf_encR _ _) ((decR_encR _ _ (fun f => if f.fn == 1 then Instr.movFirst f else Instr.mov f)).trans (congrArg some (pick_mov hi))) hi

theorem movFirst (f : FmtR) : Statement (.movFirst f) := fun hi _ hw =>
  of_code (o := 0x052) rfl hw (opcOf_encR _ _) ((decR_encR _ _ (fun f => if f.fn == 1 then Instr.movFirst f else Instr.mov f)).trans (congrArg some (pick_movFirst hi))) hi

theorem movi (f : FmtI) : Statement (.movi f) := fun hi _ hw =>
  of_code (o := 0x053) rfl hw (opcOf_encI _ _) ((decI_encI _ _ (fun f => if f.fn == 1 then Instr.moviHi f else Instr.movi f)).trans (congrArg some (pick_movi hi))) hi

theorem moviHi (f : FmtI) : Statement (.moviHi f) := fun hi _ hw =>
  of_code (o := 0x053) rfl hw (opcOf_encI _ _) ((decI_encI _ _ (fun f => if f.fn == 1 then Instr.moviHi f else Instr.movi f)).trans (congrArg some (pick_moviHi hi))) hi

theorem orR (f : FmtR) : Statement (.orR f) := fun hi _ hw =>
  of_code (o := 0x054) rfl hw (opcOf_encR _ _) (decR_encR _ _ _) hi

theorem orImm (f : FmtI) : Statement (.orImm f) := fun hi _ hw =>
  of_code (o := 0x094) rfl hw (opcOf_encI _ _) (decI_encI _ _ _) hi

theorem popc (f : FmtR) : Statement (.popc f) := fun hi _ hw =>
  of_code (o := 0x055) rfl hw (opcOf_encR _ _) (decR_encR _ _ _) hi

theorem rot (f : FmtR) : Statement (.rot f) := fun hi _ hw =>
  of_code (o := 0x056) rfl hw (opcOf_encR _ _) (decR_encR _ _ _) hi

theorem rotImm (f : FmtI) : Statement (.rotImm f) := fun hi _ hw =>
  of_code (o := 0x096) rfl hw (opcOf_encI _ _) (decI_encI _ _ _) hi

theorem sel (f : FmtR) : Statement (.sel f) := fun hi _ hw =>
  of_code (o := 0x057) rfl hw (opcOf_encR _ _) (decR_encR _ _ _) hi

theorem shl (f : FmtR) : Statement (.shl f) := fun hi _ hw =>
  of_code (o := 0x058) rfl hw (opcOf_encR _ _) (decR_encR _ _ _) hi

theorem shlImm (f : FmtI) : Statement (.shlImm f) := fun hi _ hw =>
  of_code (o := 0x098) rfl hw (opcOf_encI _ _) (decI_encI _ _ _) hi

theorem shr (f : FmtR) : Statement (.shr f) := fun hi _ hw =>
  of_code (o := 0x059) rfl hw (opcOf_encR _ _) (decR_encR _ _ _) hi

theorem shrImm (f : FmtI) : Statement (.shrImm f) := fun hi _ hw =>
  of_code (o := 0x099) rfl hw (opcOf_encI _ _) (decI_encI _ _ _) hi

theorem sra (f : FmtR) : Statement (.sra f) := fun hi _ hw =>
  of_code (o := 0x05A) rfl hw (opcOf_encR _ _) (decR_encR _ _ _) hi

theorem sraImm (f : FmtI) : Statement (.sraImm f) := fun hi _ hw =>
  of_code (o := 0x09A) rfl hw (opcOf_encI _ _) (decI_encI _ _ _) hi

theorem xorR (f : FmtR) : Statement (.xorR f) := fun hi _ hw =>
  of_code (o := 0x05B) rfl hw (opcOf_encR _ _) (decR_encR _ _ _) hi

theorem xorImm (f : FmtI) : Statement (.xorImm f) := fun hi _ hw =>
  of_code (o := 0x09B) rfl hw (opcOf_encI _ _) (decI_encI _ _ _) hi

theorem cvt (f : FmtR) : Statement (.cvt f) := fun hi _ hw =>
  of_code (o := 0x100) rfl hw (opcOf_encR _ _) (decR_encR _ _ _) hi

theorem fadd (f : FmtR) : Statement (.fadd f) := fun hi _ hw =>
  of_code (o := 0x101) rfl hw (opcOf_encR _ _) (decR_encR _ _ _) hi

theorem faddImm (f : FmtI) : Statement (.faddImm f) := fun hi _ hw =>
  of_code (o := 0x141) rfl hw (opcOf_encI _ _) (decI_encI _ _ _) hi

theorem fsub (f : FmtR) : Statement (.fsub f) := fun hi _ hw =>
  of_code (o := 0x110) rfl hw (opcOf_encR _ _) (decR_encR _ _ _) hi

theorem fsubImm (f : FmtI) : Statement (.fsubImm f) := fun hi _ hw =>
  of_code (o := 0x150) rfl hw (opcOf_encI _ _) (decI_encI _ _ _) hi

theorem fmul (f : FmtR) : Statement (.fmul f) := fun hi _ hw =>
  of_code (o := 0x10A) rfl hw (opcOf_encR _ _) (decR_encR _ _ _) hi

theorem fmulImm (f : FmtI) : Statement (.fmulImm f) := fun hi _ hw =>
  of_code (o := 0x14A) rfl hw (opcOf_encI _ _) (decI_encI _ _ _) hi

theorem fdiv (f : FmtR) : Statement (.fdiv f) := fun hi _ hw =>
  of_code (o := 0x104) rfl hw (opcOf_encR _ _) (decR_encR _ _ _) hi

theorem fdivImm (f : FmtI) : Statement (.fdivImm f) := fun hi _ hw =>
  of_code (o := 0x144) rfl hw (opcOf_encI _ _) (decI_encI _ _ _) hi

theorem ffma (f : FmtR) : Statement (.ffma f) := fun hi _ hw =>
  of_code (o := 0x106) rfl hw (opcOf_encR _ _) (decR_encR _ _ _) hi

theorem fmax (f : FmtR) : Statement (.fmax f) := fun hi _ hw =>
  of_code (o := 0x108) rfl hw (opcOf_encR _ _) (decR_encR _ _ _) hi

theorem fmaxImm (f : FmtI) : Statement (.fmaxImm f) := fun hi _ hw =>
  of_code (o := 0x148) rfl hw (opcOf_encI _ _) (decI_encI _ _ _) hi

theorem fmin (f : FmtR) : Statement (.fmin f) := fun hi _ hw =>
  of_code (o := 0x109) rfl hw (opcOf_encR _ _) (decR_encR _ _ _) hi

theorem fminImm (f : FmtI) : Statement (.fminImm f) := fun hi _ hw =>
  of_code (o := 0x149) rfl hw (opcOf_encI _ _) (decI_encI _ _ _) hi

theorem fcmp (f : FmtR) : Statement (.fcmp f) := fun hi _ hw =>
  of_code (o := 0x102) rfl hw (opcOf_encR _ _) (decR_encR _ _ _) hi

theorem fcmpImm (f : FmtI) : Statement (.fcmpImm f) := fun hi _ hw =>
  of_code (o := 0x142) rfl hw (opcOf_encI _ _) (decI_encI _ _ _) hi

theorem frnd (f : FmtR) : Statement (.frnd f) := fun hi _ hw =>
  of_code (o := 0x10C) rfl hw (opcOf_encR _ _) (decR_encR _ _ _) hi

theorem fsqrt (f : FmtR) : Statement (.fsqrt f) := fun hi _ hw =>
  of_code (o := 0x10F) rfl hw (opcOf_encR _ _) (decR_encR _ _ _) hi

theorem frcp (f : FmtR) : Statement (.frcp f) := fun hi _ hw =>
  of_code (o := 0x10B) rfl hw (opcOf_encR _ _) (decR_encR _ _ _) hi

theorem frsq (f : FmtR) : Statement (.frsq f) := fun hi _ hw =>
  of_code (o := 0x10D) rfl hw (opcOf_encR _ _) (decR_encR _ _ _) hi

theorem fexp2 (f : FmtR) : Statement (.fexp2 f) := fun hi _ hw =>
  of_code (o := 0x105) rfl hw (opcOf_encR _ _) (decR_encR _ _ _) hi

theorem flog2 (f : FmtR) : Statement (.flog2 f) := fun hi _ hw =>
  of_code (o := 0x107) rfl hw (opcOf_encR _ _) (decR_encR _ _ _) hi

theorem fsin (f : FmtR) : Statement (.fsin f) := fun hi _ hw =>
  of_code (o := 0x10E) rfl hw (opcOf_encR _ _) (decR_encR _ _ _) hi

theorem fcos (f : FmtR) : Statement (.fcos f) := fun hi _ hw =>
  of_code (o := 0x103) rfl hw (opcOf_encR _ _) (decR_encR _ _ _) hi

theorem ftsum (f : FmtR) : Statement (.ftsum f) := fun hi _ hw =>
  of_code (o := 0x111) rfl hw (opcOf_encR _ _) (decR_encR _ _ _) hi

theorem pfma (f : FmtR) : Statement (.pfma f) := fun hi _ hw =>
  of_code (o := 0x112) rfl hw (opcOf_encR _ _) (decR_encR _ _ _) hi

theorem muel (f : FmtW) : Statement (.muel f) := fun hi _ hw =>
  of_code (o := 0x180) rfl hw (opcOf_encW _ _) (decW_encW _ _ _) hi

theorem wadd (f : FmtW) : Statement (.wadd f) := fun hi _ hw =>
  of_code (o := 0x181) rfl hw (opcOf_encW _ _) (decW_encW _ _ _) hi

theorem wmul (f : FmtW) : Statement (.wmul f) := fun hi _ hw =>
  of_code (o := 0x185) rfl hw (opcOf_encW _ _) (decW_encW _ _ _) hi

theorem wfma (f : FmtW) : Statement (.wfma f) := fun hi _ hw =>
  of_code (o := 0x184) rfl hw (opcOf_encW _ _) (decW_encW _ _ _) hi

theorem wscal (f : FmtW) : Statement (.wscal f) := fun hi _ hw =>
  of_code (o := 0x186) rfl hw (opcOf_encW _ _) (decW_encW _ _ _) hi

theorem wexp (f : FmtW) : Statement (.wexp f) := fun hi _ hw =>
  of_code (o := 0x183) rfl hw (opcOf_encW _ _) (decW_encW _ _ _) hi

theorem wspan (f : FmtW) : Statement (.wspan f) := fun hi _ hw =>
  of_code (o := 0x187) rfl hw (opcOf_encW _ _) (decW_encW _ _ _) hi

theorem wsum (f : FmtW) : Statement (.wsum f) := fun hi _ hw =>
  of_code (o := 0x188) rfl hw (opcOf_encW _ _) (decW_encW _ _ _) hi

theorem wdot (f : FmtW) : Statement (.wdot f) := fun hi _ hw =>
  of_code (o := 0x182) rfl hw (opcOf_encW _ _) (decW_encW _ _ _) hi

theorem facc (f : FmtX) : Statement (.facc f) := fun hi _ hw =>
  of_code (o := 0x1C0) rfl hw (opcOf_encX _ _) (decX_encX _ _ _) hi

theorem leafx (f : FmtR) : Statement (.leafx f) := fun hi _ hw =>
  of_code (o := 0x1C1) rfl hw (opcOf_encR _ _) (decR_encR _ _ _) hi

theorem tex (f : FmtX) : Statement (.tex f) := fun hi _ hw =>
  of_code (o := 0x1C2) rfl hw (opcOf_encX _ _) (decX_encX _ _ _) hi

theorem texq (f : FmtX) : Statement (.texq f) := fun hi _ hw =>
  of_code (o := 0x1C3) rfl hw (opcOf_encX _ _) ((decX_encX _ _ (fun f => if f.fn == 1 then Instr.texqRead f else Instr.texq f)).trans (congrArg some (pick_texq hi))) hi

theorem texqRead (f : FmtX) : Statement (.texqRead f) := fun hi _ hw =>
  of_code (o := 0x1C3) rfl hw (opcOf_encX _ _) ((decX_encX _ _ (fun f => if f.fn == 1 then Instr.texqRead f else Instr.texq f)).trans (congrArg some (pick_texqRead hi))) hi

theorem trace (f : FmtX) : Statement (.trace f) := fun hi _ hw =>
  of_code (o := 0x1C4) rfl hw (opcOf_encX _ _) (decX_encX _ _ _) hi

theorem ld (f : FmtM) : Statement (.ld f) := fun hi _ hw =>
  of_code (o := 0x200) rfl hw (opcOf_encM _ _) (decM_encM _ _ _) hi

theorem st (f : FmtM) : Statement (.st f) := fun hi _ hw =>
  of_code (o := 0x201) rfl hw (opcOf_encM _ _) (decM_encM _ _ _) hi

theorem atom (f : FmtM) : Statement (.atom f) := fun hi _ hw =>
  of_code (o := 0x202) rfl hw (opcOf_encM _ _) (decM_encM _ _ _) hi

theorem cas (f : FmtM) : Statement (.cas f) := fun hi _ hw =>
  of_code (o := 0x203) rfl hw (opcOf_encM _ _) (decM_encM _ _ _) hi

theorem fence (f : FmtM) : Statement (.fence f) := fun hi _ hw =>
  of_code (o := 0x204) rfl hw (opcOf_encM _ _) ((decM_encM _ _ (fun f => if f.ord == 5 then Instr.fenceWalk f else Instr.fence f)).trans (congrArg some (pick_fence hi))) hi

theorem fenceWalk (f : FmtM) : Statement (.fenceWalk f) := fun hi _ hw =>
  of_code (o := 0x204) rfl hw (opcOf_encM _ _) ((decM_encM _ _ (fun f => if f.ord == 5 then Instr.fenceWalk f else Instr.fence f)).trans (congrArg some (pick_fenceWalk hi))) hi

theorem cflush (f : FmtM) : Statement (.cflush f) := fun hi _ hw =>
  of_code (o := 0x205) rfl hw (opcOf_encM _ _) (decM_encM _ _ _) hi

theorem pref (f : FmtM) : Statement (.pref f) := fun hi _ hw =>
  of_code (o := 0x206) rfl hw (opcOf_encM _ _) (decM_encM _ _ _) hi

theorem mcst (f : FmtM) : Statement (.mcst f) := fun hi _ hw =>
  of_code (o := 0x207) rfl hw (opcOf_encM _ _) (decM_encM _ _ _) hi

theorem pldConv (f : FmtX) : Statement (.pldConv f) := fun hi _ hw =>
  of_code (o := 0x208) rfl hw (opcOf_encX _ _) ((decX_encX _ _ (fun f => if f.fn == 1 then Instr.pldRed f else Instr.pldConv f)).trans (congrArg some (pick_pldConv hi))) hi

theorem pldRed (f : FmtX) : Statement (.pldRed f) := fun hi _ hw =>
  of_code (o := 0x208) rfl hw (opcOf_encX _ _) ((decX_encX _ _ (fun f => if f.fn == 1 then Instr.pldRed f else Instr.pldConv f)).trans (congrArg some (pick_pldRed hi))) hi

theorem coll (f : FmtX) : Statement (.coll f) := fun hi _ hw =>
  of_code (o := 0x280) rfl hw (opcOf_encX _ _) (decX_encX _ _ _) hi

theorem copy (f : FmtX) : Statement (.copy f) := fun hi _ hw =>
  of_code (o := 0x281) rfl hw (opcOf_encX _ _) (decX_encX _ _ _) hi

theorem gath (f : FmtX) : Statement (.gath f) := fun hi _ hw =>
  of_code (o := 0x285) rfl hw (opcOf_encX _ _) (decX_encX _ _ _) hi

theorem scat (f : FmtX) : Statement (.scat f) := fun hi _ hw =>
  of_code (o := 0x288) rfl hw (opcOf_encX _ _) ((decX_encX _ _ (fun f => if f.imm8.getLsbD 1 then Instr.scatAdd f else Instr.scat f)).trans (congrArg some (pick_scat hi))) hi

theorem scatAdd (f : FmtX) : Statement (.scatAdd f) := fun hi _ hw =>
  of_code (o := 0x288) rfl hw (opcOf_encX _ _) ((decX_encX _ _ (fun f => if f.imm8.getLsbD 1 then Instr.scatAdd f else Instr.scat f)).trans (congrArg some (pick_scatAdd hi))) hi

theorem csig (f : FmtX) : Statement (.csig f) := fun hi _ hw =>
  of_code (o := 0x282) rfl hw (opcOf_encX _ _) ((decX_encX _ _ (fun f => if f.fn == 1 then Instr.csigNode f else Instr.csig f)).trans (congrArg some (pick_csig hi))) hi

theorem csigNode (f : FmtX) : Statement (.csigNode f) := fun hi _ hw =>
  of_code (o := 0x282) rfl hw (opcOf_encX _ _) ((decX_encX _ _ (fun f => if f.fn == 1 then Instr.csigNode f else Instr.csig f)).trans (congrArg some (pick_csigNode hi))) hi

theorem ctest (f : FmtM) : Statement (.ctest f) := fun hi _ hw =>
  of_code (o := 0x283) rfl hw (opcOf_encM _ _) (decM_encM _ _ _) hi

theorem cwait (f : FmtM) : Statement (.cwait f) := fun hi _ hw =>
  of_code (o := 0x284) rfl hw (opcOf_encM _ _) (decM_encM _ _ _) hi

theorem node (f : FmtX) : Statement (.node f) := fun hi _ hw =>
  of_code (o := 0x286) rfl hw (opcOf_encX _ _) (decX_encX _ _ _) hi

theorem placeSet (f : FmtX) : Statement (.placeSet f) := fun hi _ hw =>
  of_code (o := 0x287) rfl hw (opcOf_encX _ _) ((decX_encX _ _ (fun f => if f.fn == 1 then Instr.placeGet f else Instr.placeSet f)).trans (congrArg some (pick_placeSet hi))) hi

theorem placeGet (f : FmtX) : Statement (.placeGet f) := fun hi _ hw =>
  of_code (o := 0x287) rfl hw (opcOf_encX _ _) ((decX_encX _ _ (fun f => if f.fn == 1 then Instr.placeGet f else Instr.placeSet f)).trans (congrArg some (pick_placeGet hi))) hi

theorem mwl (f : FmtX) : Statement (.mwl f) := fun hi _ hw =>
  of_code (o := 0x2C2) rfl hw (opcOf_encX _ _) (decX_encX _ _ _) hi

theorem mmac (f : FmtX) : Statement (.mmac f) := fun hi _ hw =>
  of_code (o := 0x2C1) rfl hw (opcOf_encX _ _) (decX_encX _ _ _) hi

theorem mzero (f : FmtX) : Statement (.mzero f) := fun hi _ hw =>
  of_code (o := 0x2C3) rfl hw (opcOf_encX _ _) (decX_encX _ _ _) hi

theorem mdrn (f : FmtX) : Statement (.mdrn f) := fun hi _ hw =>
  of_code (o := 0x2C0) rfl hw (opcOf_encX _ _) (decX_encX _ _ _) hi

theorem vxm (f : FmtX) : Statement (.vxm f) := fun hi _ hw =>
  of_code (o := 0x2C4) rfl hw (opcOf_encX _ _) (decX_encX _ _ _) hi

theorem bar (f : FmtR) : Statement (.bar f) := fun hi _ hw =>
  of_code (o := 0x300) rfl hw (opcOf_encR _ _) ((decR_encR _ _ (fun f => if f.fn.getLsbD 4 then Instr.barArv f else Instr.bar f)).trans (congrArg some (pick_bar hi))) hi

theorem barArv (f : FmtR) : Statement (.barArv f) := fun hi _ hw =>
  of_code (o := 0x300) rfl hw (opcOf_encR _ _) ((decR_encR _ _ (fun f => if f.fn.getLsbD 4 then Instr.barArv f else Instr.bar f)).trans (congrArg some (pick_barArv hi))) hi

theorem decp (f : FmtR) : Statement (.decp f) := fun hi _ hw =>
  of_code (o := 0x301) rfl hw (opcOf_encR _ _) (decR_encR _ _ _) hi

theorem dect (f : FmtR) : Statement (.dect f) := fun hi _ hw =>
  of_code (o := 0x302) rfl hw (opcOf_encR _ _) (decR_encR _ _ _) hi

theorem lred (f : FmtR) : Statement (.lred f) := fun hi _ hw =>
  of_code (o := 0x303) rfl hw (opcOf_encR _ _) (decR_encR _ _ _) hi

theorem matchR (f : FmtR) : Statement (.matchR f) := fun hi _ hw =>
  of_code (o := 0x304) rfl hw (opcOf_encR _ _) (decR_encR _ _ _) hi

theorem slane (f : FmtR) : Statement (.slane f) := fun hi _ hw =>
  of_code (o := 0x309) rfl hw (opcOf_encR _ _) (decR_encR _ _ _) hi

theorem vpoll (f : FmtR) : Statement (.vpoll f) := fun hi _ hw =>
  of_code (o := 0x30A) rfl hw (opcOf_encR _ _) (decR_encR _ _ _) hi

theorem qpush (f : FmtR) : Statement (.qpush f) := fun hi _ hw =>
  of_code (o := 0x306) rfl hw (opcOf_encR _ _) (decR_encR _ _ _) hi

theorem qpop (f : FmtR) : Statement (.qpop f) := fun hi _ hw =>
  of_code (o := 0x305) rfl hw (opcOf_encR _ _) (decR_encR _ _ _) hi

theorem racq (f : FmtR) : Statement (.racq f) := fun hi _ hw =>
  of_code (o := 0x307) rfl hw (opcOf_encR _ _) (decR_encR _ _ _) hi

theorem rrel (f : FmtR) : Statement (.rrel f) := fun hi _ hw =>
  of_code (o := 0x308) rfl hw (opcOf_encR _ _) (decR_encR _ _ _) hi

theorem xenq (f : FmtR) : Statement (.xenq f) := fun hi _ hw =>
  of_code (o := 0x30C) rfl hw (opcOf_encR _ _) (decR_encR _ _ _) hi

theorem xdeq (f : FmtR) : Statement (.xdeq f) := fun hi _ hw =>
  of_code (o := 0x30B) rfl hw (opcOf_encR _ _) (decR_encR _ _ _) hi

theorem xstatQuery (f : FmtR) : Statement (.xstatQuery f) := fun hi _ hw =>
  of_code (o := 0x30D) rfl hw (opcOf_encR _ _) ((decR_encR _ _ (fun f => if f.fn == 1 then Instr.xstatFlush f else if f.fn == 2 then .xstatReset f else Instr.xstatQuery f)).trans (congrArg some (pick_xstatQuery hi))) hi

theorem xstatFlush (f : FmtR) : Statement (.xstatFlush f) := fun hi _ hw =>
  of_code (o := 0x30D) rfl hw (opcOf_encR _ _) ((decR_encR _ _ (fun f => if f.fn == 1 then Instr.xstatFlush f else if f.fn == 2 then .xstatReset f else Instr.xstatQuery f)).trans (congrArg some (pick_xstatFlush hi))) hi

theorem xstatReset (f : FmtR) : Statement (.xstatReset f) := fun hi _ hw =>
  of_code (o := 0x30D) rfl hw (opcOf_encR _ _) ((decR_encR _ _ (fun f => if f.fn == 1 then Instr.xstatFlush f else if f.fn == 2 then .xstatReset f else Instr.xstatQuery f)).trans (congrArg some (pick_xstatReset hi))) hi

theorem bkpt (f : FmtR) : Statement (.bkpt f) := fun hi _ hw =>
  of_code (o := 0x340) rfl hw (opcOf_encR _ _) (decR_encR _ _ _) hi

theorem gfin (f : FmtR) : Statement (.gfin f) := fun hi _ hw =>
  of_code (o := 0x342) rfl hw (opcOf_encR _ _) (decR_encR _ _ _) hi

theorem gfail (f : FmtR) : Statement (.gfail f) := fun hi _ hw =>
  of_code (o := 0x341) rfl hw (opcOf_encR _ _) (decR_encR _ _ _) hi

theorem merge (f : FmtR) : Statement (.merge f) := fun hi _ hw =>
  of_code (o := 0x343) rfl hw (opcOf_encR _ _) (decR_encR _ _ _) hi

theorem rtt (f : FmtR) : Statement (.rtt f) := fun hi _ hw =>
  of_code (o := 0x344) rfl hw (opcOf_encR _ _) (decR_encR _ _ _) hi

theorem sreg (f : FmtI) : Statement (.sreg f) := fun hi _ hw =>
  of_code (o := 0x345) rfl hw (opcOf_encI _ _) (decI_encI _ _ _) hi

theorem swr (f : FmtI) : Statement (.swr f) := fun hi _ hw =>
  of_code (o := 0x346) rfl hw (opcOf_encI _ _) (decI_encI _ _ _) hi

theorem trap (f : FmtI) : Statement (.trap f) := fun hi _ hw =>
  of_code (o := 0x347) rfl hw (opcOf_encI _ _) (decI_encI _ _ _) hi

theorem lineFetch : Statement .lineFetch := fun _ _ hw => of_none rfl hw

theorem parkedThreadReexecute w lane : Statement (.parkedThreadReexecute w lane) := fun _ _ hw => of_none rfl hw

theorem fairnessTimerExpiry w : Statement (.fairnessTimerExpiry w) := fun _ _ hw => of_none rfl hw

theorem joinBarrierExpiry w j : Statement (.joinBarrierExpiry w j) := fun _ _ hw => of_none rfl hw

theorem watchdog w j : Statement (.watchdog w j) := fun _ _ hw => of_none rfl hw

theorem teamRetirement t : Statement (.teamRetirement t) := fun _ _ hw => of_none rfl hw

theorem gridRetirement g : Statement (.gridRetirement g) := fun _ _ hw => of_none rfl hw

theorem teamPlacement : Statement .teamPlacement := fun _ _ hw => of_none rfl hw

theorem activeSetExchange core bay : Statement (.activeSetExchange core bay) := fun _ _ hw => of_none rfl hw

theorem blockedWaveSwap core bay : Statement (.blockedWaveSwap core bay) := fun _ _ hw => of_none rfl hw

theorem rotation core bay : Statement (.rotation core bay) := fun _ _ hw => of_none rfl hw

theorem registerMoveComplete w : Statement (.registerMoveComplete w) := fun _ _ hw => of_none rfl hw

theorem skidStop w : Statement (.skidStop w) := fun _ _ hw => of_none rfl hw

theorem engineCauseDelivery t : Statement (.engineCauseDelivery t) := fun _ _ hw => of_none rfl hw

theorem quarterTransfer core bay slot : Statement (.quarterTransfer core bay slot) := fun _ _ hw => of_none rfl hw

theorem matrixFifoAcceptance core : Statement (.matrixFifoAcceptance core) := fun _ _ hw => of_none rfl hw

theorem matrixEntryStart core bay : Statement (.matrixEntryStart core bay) := fun _ _ hw => of_none rfl hw

theorem matrixEntryCompletion core bay : Statement (.matrixEntryCompletion core bay) := fun _ _ hw => of_none rfl hw

theorem transferAcceptance core : Statement (.transferAcceptance core) := fun _ _ hw => of_none rfl hw

theorem sectorWrite xfer sector : Statement (.sectorWrite xfer sector) := fun _ _ hw => of_none rfl hw

theorem transferCompletion xfer : Statement (.transferCompletion xfer) := fun _ _ hw => of_none rfl hw

theorem csigEffect id : Statement (.csigEffect id) := fun _ _ hw => of_none rfl hw

theorem collectiveChunk op chunk : Statement (.collectiveChunk op chunk) := fun _ _ hw => of_none rfl hw

theorem conversionStart asid idx : Statement (.conversionStart asid idx) := fun _ _ hw => of_none rfl hw

theorem conversionEnd asid idx : Statement (.conversionEnd asid idx) := fun _ _ hw => of_none rfl hw

theorem loadReply req : Statement (.loadReply req) := fun _ _ hw => of_none rfl hw

theorem atomicReply req : Statement (.atomicReply req) := fun _ _ hw => of_none rfl hw

theorem texSampleComplete req : Statement (.texSampleComplete req) := fun _ _ hw => of_none rfl hw

theorem traceWalkEnd req : Statement (.traceWalkEnd req) := fun _ _ hw => of_none rfl hw

theorem deferredUpdateArrival id : Statement (.deferredUpdateArrival id) := fun _ _ hw => of_none rfl hw

theorem mergePerform g : Statement (.mergePerform g) := fun _ _ hw => of_none rfl hw

theorem fillFrameAvailable asid range : Statement (.fillFrameAvailable asid range) := fun _ _ hw => of_none rfl hw

theorem graphWorkCompletion core slot : Statement (.graphWorkCompletion core slot) := fun _ _ hw => of_none rfl hw

theorem enqueueEvent id : Statement (.enqueueEvent id) := fun _ _ hw => of_none rfl hw

theorem channelGrant chan : Statement (.channelGrant chan) := fun _ _ hw => of_none rfl hw

theorem laneReclaim chan : Statement (.laneReclaim chan) := fun _ _ hw => of_none rfl hw

theorem rowActivationRefresh row checkFailed : Statement (.rowActivationRefresh row checkFailed) := fun _ _ hw => of_none rfl hw

theorem dirtyLineWriteBack pa asid bad : Statement (.dirtyLineWriteBack pa asid bad) := fun _ _ hw => of_none rfl hw

theorem portLinkLoss port : Statement (.portLinkLoss port) := fun _ _ hw => of_none rfl hw

theorem ualinkRequest r : Statement (.ualinkRequest r) := fun _ _ hw => of_none rfl hw

theorem boot : Statement .boot := fun _ _ hw => of_none rfl hw

theorem powerLimitSet mW : Statement (.powerLimitSet mW) := fun _ _ hw => of_none rfl hw

theorem clockStepChange measured : Statement (.clockStepChange measured) := fun _ _ hw => of_none rfl hw

theorem thermalStepDown degC : Statement (.thermalStepDown degC) := fun _ _ hw => of_none rfl hw

theorem thermalShutdown degC : Statement (.thermalShutdown degC) := fun _ _ hw => of_none rfl hw

theorem preemptAcknowledgement asid u : Statement (.preemptAcknowledgement asid u) := fun _ _ hw => of_none rfl hw

theorem ctxCreate h b : Statement (.ctxCreate h b) := fun _ _ hw => of_none rfl hw

theorem ctxDestroy h b : Statement (.ctxDestroy h b) := fun _ _ hw => of_none rfl hw

theorem map h b : Statement (.map h b) := fun _ _ hw => of_none rfl hw

theorem unmap h b : Statement (.unmap h b) := fun _ _ hw => of_none rfl hw

theorem launchCommand h b : Statement (.launchCommand h b) := fun _ _ hw => of_none rfl hw

theorem graphNode h b : Statement (.graphNode h b) := fun _ _ hw => of_none rfl hw

theorem signal h b : Statement (.signal h b) := fun _ _ hw => of_none rfl hw

theorem wait h b : Statement (.wait h b) := fun _ _ hw => of_none rfl hw

theorem waitCompletion asid queue : Statement (.waitCompletion asid queue) := fun _ _ hw => of_none rfl hw

theorem setDlevel h b : Statement (.setDlevel h b) := fun _ _ hw => of_none rfl hw

theorem procRangeRegister h b : Statement (.procRangeRegister h b) := fun _ _ hw => of_none rfl hw

theorem procRangeReset h b : Statement (.procRangeReset h b) := fun _ _ hw => of_none rfl hw

theorem procRangeDeregister h b : Statement (.procRangeDeregister h b) := fun _ _ hw => of_none rfl hw

theorem expertSetCreate h b : Statement (.expertSetCreate h b) := fun _ _ hw => of_none rfl hw

theorem expertSetDelete h b : Statement (.expertSetDelete h b) := fun _ _ hw => of_none rfl hw

theorem placementSet h b : Statement (.placementSet h b) := fun _ _ hw => of_none rfl hw

theorem trigger h b : Statement (.trigger h b) := fun _ _ hw => of_none rfl hw

theorem preemptStop h b : Statement (.preemptStop h b) := fun _ _ hw => of_none rfl hw

theorem preemptResume h b : Statement (.preemptResume h b) := fun _ _ hw => of_none rfl hw

theorem retentionRemove h b : Statement (.retentionRemove h b) := fun _ _ hw => of_none rfl hw

theorem retentionRestore h b : Statement (.retentionRestore h b) := fun _ _ hw => of_none rfl hw

theorem queryIdentity h b : Statement (.queryIdentity h b) := fun _ _ hw => of_none rfl hw

theorem queryErrorLog h b : Statement (.queryErrorLog h b) := fun _ _ hw => of_none rfl hw

theorem queryCoreAssignment h b : Statement (.queryCoreAssignment h b) := fun _ _ hw => of_none rfl hw

theorem queryBlockStates h b : Statement (.queryBlockStates h b) := fun _ _ hw => of_none rfl hw

theorem queryGraphLog h b : Statement (.queryGraphLog h b) := fun _ _ hw => of_none rfl hw

theorem queryLinkLog h b : Statement (.queryLinkLog h b) := fun _ _ hw => of_none rfl hw

theorem queryContextSummary h b : Statement (.queryContextSummary h b) := fun _ _ hw => of_none rfl hw

theorem attest h b : Statement (.attest h b) := fun _ _ hw => of_none rfl hw

theorem unknownCmdMessage h : Statement (.unknownCmdMessage h) := fun _ _ hw => of_none rfl hw

theorem unassignedCodePoint (w : Slot) : Statement (.unassignedCodePoint w) := fun hi k hw => by
  cases hw
  refine decodeSlot_of rfl ?_ hi
  have h : Instr.wf.assignedOpc (opcOf w) = false := by simpa [Instr.wf, fieldsOk] using hi
  exact unassigned _ _ h

theorem dataLaneLending chan : Statement (.dataLaneLending chan) := fun _ _ hw => of_none rfl hw

end Sys2Proof.Laws.Decode
end

