-- ==== Sys2Proof/Laws/Phase.lean ====
section
/-!
SUPPORT. Global accesses that nothing stands in the way of: what translation, placement, ownership and conversion leave of them.
-/
namespace Sys2Proof.Machine

theorem updWave_id (s : State) (w : WaveId) : s.updWave w (fun w => w) = s := by
  have : s.waves.map (fun x => if x.id = w then x else x) = s.waves := by
    induction s.waves with
    | nil => rfl
    | cons a l ih => simp
  unfold State.updWave
  rw [this]

/-- Nothing is parked when nothing misses. -/
theorem park_nil (s : State) (w : WaveId) (write : Bool) : s.park w write [] = s := updWave_id s w

theorem filterMap_none {α β : Type} {l : List α} {f : α → Option β} (h : ∀ a ∈ l, f a = none) : l.filterMap f = [] :=
  List.filterMap_eq_nil_iff.mpr h

/-- Accesses that all translate. -/
theorem Reaches.xlate {x : Iss} {s : State} {as : List LaneAcc} {acc : Acc} {place : Ctx → LaneAcc → Bool}
    {pas : Nat → List (Nat × Nat)} {c : Ctx} (H : Reaches x s as acc place pas c) :
    s.xlateLanes x as acc = .ok (as.map (fun a => (a, pas a.lane))) [] := by
  have hr : (as.map (fun a => (a, acc))).map (fun a => (a.1, s.xlateAll c (s.ownBlock x.wid.team.grid) a.1.va a.1.n a.2)) =
      as.map (fun a => (a, XAll.ok (pas a.lane))) := by
    rw [List.map_map]
    exact List.map_congr_left (fun a ha => by simp only [Function.comp_apply, (H.each a ha).1])
  have h0 : ∀ {β : Type}, as.filterMap (fun _ => (none : Option β)) = [] := filterMap_none (fun _ _ => rfl)
  unfold State.xlateLanes State.xlateEach
  simp only [H.ctx, hr]
  simp [List.filterMap_map, Function.comp_def, h0]

/-- Everything that the first part of a global access does when nothing stands in its way: nothing. -/
theorem Reaches.phase {x : Iss} {s : State} {as : List LaneAcc} {acc : Acc} {place : Ctx → LaneAcc → Bool}
    {pas : Nat → List (Nat × Nat)} {c : Ctx} (H : Reaches x s as acc place pas c) :
    s.phase x as acc place = .ok { s := s, stay := [], go := as.map (fun a => (a, pas a.lane)), held := [] } := by
  have hpl : as.filter (place c) = [] := List.filter_eq_nil_iff.mpr (fun a ha => by simp [(H.each a ha).2.2.2])
  have hown : (as.map (fun a => (a, pas a.lane))).filter (fun d => s.owned c.asid d.1.va d.1.n) = [] :=
    List.filter_eq_nil_iff.mpr (fun d hd => by
      obtain ⟨a, ha, rfl⟩ := List.mem_map.mp hd
      simp [(H.each a ha).2.1])
  have hfree : (as.map (fun a => (a, pas a.lane))).filter (fun d => !s.owned c.asid d.1.va d.1.n) =
      as.map (fun a => (a, pas a.lane)) :=
    List.filter_eq_self.mpr (fun d hd => by
      obtain ⟨a, ha, rfl⟩ := List.mem_map.mp hd
      simp [(H.each a ha).2.1])
  have hgo : (as.map (fun a => (a, pas a.lane))).filter (fun d => (c.converting d.1.va d.1.n).isNone) =
      as.map (fun a => (a, pas a.lane)) :=
    List.filter_eq_self.mpr (fun d hd => by
      obtain ⟨a, ha, rfl⟩ := List.mem_map.mp hd
      simp [(H.each a ha).2.2.1])
  have hheld : (as.map (fun a => (a, pas a.lane))).filterMap (fun d => (c.converting d.1.va d.1.n).map (fun i => (d.1, i))) = [] :=
    filterMap_none (fun d hd => by
      obtain ⟨a, ha, rfl⟩ := List.mem_map.mp hd
      simp [(H.each a ha).2.2.1])
  have hall : (as.map (fun a => (a, pas a.lane))).map (·.1) = as := by simp [Function.comp_def]
  have hroom : ¬ s.slotsUsed x.w.core + slotsOf as > 768 := by have := H.room; omega
  have hpark : x.parkAs [] = [] := by unfold Iss.parkAs; split <;> rfl
  unfold State.phase
  rw [H.ctx, H.xlate]
  simp only [hall, hpl, State.parkMisses, hpark, park_nil, hown, hfree, hgo, hheld, if_neg hroom, List.isEmpty_nil, if_true, List.map_nil, List.append_nil]

/-- Aligned accesses of the executing lanes are none misaligned. -/
theorem aligned_none {x : Iss} {m : Nat} {as : List LaneAcc} (h : ∀ a ∈ as, a.va % m = 0) : x.misaligned m as = none := by
  have : as.filter (fun a => a.va % m != 0) = [] := List.filter_eq_nil_iff.mpr (fun a ha => by simp [h a ha])
  unfold Iss.misaligned
  rw [this]

/-- Accesses within an extent. -/
theorem within_none {x : Iss} {e : Nat} {as : List LaneAcc} (h : ∀ a ∈ as, a.va + a.n ≤ e) : x.beyond e as = none := by
  have : as.filter (fun a => a.va + a.n > e) = [] := List.filter_eq_nil_iff.mpr (fun a ha => by
    have := h a ha; simp; omega)
  unfold Iss.beyond
  rw [this]

/-- Readable data raises no check. -/
theorem readable_none {x : Iss} {s : State} {as : List LaneAcc} {pas : Nat → List (Nat × Nat)} (h : Readable s as pas) :
    badLanes s x.wid (as.map (fun a => (a, pas a.lane))) = [] := by
  refine filterMap_none (fun d hd => ?_)
  obtain ⟨a, ha, rfl⟩ := List.mem_map.mp hd
  simp only [h a ha, Option.map_none, ite_self]

end Sys2Proof.Machine
end

