-- ==== Sys2Proof/Tests/Slice0.lean ====
section
/-!
SUPPORT. Tests of slice 0: ill-formed operations that the check refuses, words written out from the spec's encoding tables, and
states that meet the hypotheses of each statement.
-/
namespace Sys2Proof.Tests
open Sys2Proof Sys2Proof.Machine
set_option Elab.async false

/-- A header with no guard and no `FE` bit. -/
def hd : Hdr := ⟨0, false, 0⟩

/-- The lone wave of `withSlot`, about to issue `i` in lane 0, with a heap of 1 GiB at VA 0, changed by `f` and `g`. -/
def lone (i : Instr) (f : Wave → Wave) (g : State → State) : State :=
  let s := State.reset.withSlot ((encode i).getD 0)
  g { s with
    waves := s.waves.map f
    ctxs := s.ctxs.map (fun c => { c with heapLimit := 2 ^ 30 })
    agenda := []
    cur := some { wid := loneWid, lanes := 1, pc := 0, viaLoop := false } }

/-- What `Issues` asks, as a check. -/
def clear (i : Instr) (h : Hdr) (s : State) : Bool :=
  match s.cur with
  | none => false
  | some c => match s.wave? c.wid with
    | none => false
    | some w =>
      let act := (lanesOf c.lanes).filter (guardTrue h w)
      !act.isEmpty && (operandFault i w).isNone && !s.roleRefused i w && s.stores.isEmpty && (badSources i w act).isNone &&
        (spansOf i w).all (fun o => !o.isV ||
          (if o.dst then act.all (fun l => !w.anyPending l o.code o.count)
           else (readIn i act o).all (fun l => !w.anyEmpty l o.code o.count && !w.anyFailed l o.code o.count)))

/-- Any wave. -/
def wave0 : Wave := newWave loneRec (.host 0 0) [] loneWid 0 0 0 0 true

/-- The group that issues. -/
def issAt (i : Instr) (h : Hdr) (s : State) : Iss :=
  let c := s.cur.getD { wid := loneWid, lanes := 0, pc := 0, viaLoop := false }
  let w := (s.wave? c.wid).getD wave0
  let act := (lanesOf c.lanes).filter (guardTrue h w)
  { wid := c.wid, w := w, group := lanesOf c.lanes, pc := c.pc, act := act, uni := isUniform i,
    lanes := if isUniform i then act.take 1 else act }

theorem issues_of {i : Instr} {h : Hdr} {s : State} (hc : clear i h s = true) : Issues i h s (issAt i h s) := by
  unfold clear at hc
  split at hc
  · cases hc
  · rename_i c hcur
    split at hc
    · cases hc
    · rename_i w hw
      simp only [Bool.and_eq_true, Bool.not_eq_true', List.isEmpty_eq_false_iff, Option.isNone_iff_eq_none, List.isEmpty_iff] at hc
      obtain ⟨⟨⟨⟨⟨h1, h2⟩, h3⟩, h4⟩, h6⟩, h5⟩ := hc
      have e : issAt i h s = ⟨c.wid, w, lanesOf c.lanes, c.pc, (lanesOf c.lanes).filter (guardTrue h w), isUniform i,
          if isUniform i then ((lanesOf c.lanes).filter (guardTrue h w)).take 1 else (lanesOf c.lanes).filter (guardTrue h w)⟩ := by
        simp [issAt, hcur, hw]
      rw [e]
      exact ⟨hw, ⟨c, hcur, rfl, rfl, rfl⟩, rfl, h1, rfl, rfl, h2, h3,
        fun o ho hv => by
          have h := (Bool.or_eq_true _ _).mp (List.all_eq_true.mp h5 o ho)
          rcases h with h | h
          · simp [hv] at h
          · constructor
            · intro hd l hl
              rw [if_pos hd] at h
              simpa using List.all_eq_true.mp h l hl
            · intro hd l hl
              rw [if_neg (by simp [hd])] at h
              simpa using List.all_eq_true.mp h l hl, h6, h4⟩

/-! ## Well-formedness: a term for each check, which the check refuses -/

/-- A command header for a body of `len` bytes. -/
def cmdHdr (cmd len : Nat) (pkg : Bool) : CmdHeader :=
  { cmd := BitVec.ofNat 8 cmd, queue := 0, asid := 0, pkg := pkg, length := BitVec.ofNat 32 len, tag := 7, spare := 0 }

/-- Fields of a slot that no entry accepts: a type, a mode, a function, an immediate out of range, a subfield code, an unused packet
field, a reserved engine function (R76, R78, R80, R83). -/
theorem test_wf_fields :
    (Instr.iadd ⟨hd, 4, 8, 12, 511, 0xAA, 0, 0⟩).wf = false ∧ (Instr.iadd ⟨hd, 4, 8, 12, 511, 0x62, 0, 0⟩).wf = false ∧
    (Instr.iadd ⟨hd, 4, 8, 12, 511, 0x66, 1, 0⟩).wf = false ∧ (Instr.icmp ⟨hd, 4, 8, 12, 511, 0x66, 0, 6⟩).wf = false ∧
    (Instr.iaddImm ⟨hd, 4, 8, 0x44, 0, 0, 256⟩).wf = false ∧ (Instr.fadd ⟨hd, 4, 8, 12, 511, 0xAA, 4, 0⟩).wf = false ∧
    (Instr.ld ⟨hd, 4, 8, 511, 5, 0, 15, false, 0, 2, 0⟩).wf = false ∧ (Instr.ld ⟨hd, 4, 8, 511, 0, 0, 15, false, 0, 8, 0⟩).wf = false ∧
    (Instr.wadd ⟨hd, 1, 2, 3, 4, 511, 0, 0⟩).wf = false ∧ (Instr.copy ⟨hd, 384, 386, 388, 511, 1, 0, 0, 0, 0⟩).wf = false ∧
    (Instr.mmac ⟨hd, 511, 64, 386, 511, 0x4A, 0, 0, 0, 0⟩).wf = false ∧ (Instr.bra ⟨hd, false, 0, 5, 511, 0, 0⟩).wf = false ∧
    (Instr.sreg ⟨hd, 4, 511, 0x22, 0, 0, 3⟩).wf = false ∧ (Instr.nop ⟨hd, 511, 511, 511, 511, 1, 0, 0⟩).wf = false := by decide

/-- Headers and bodies of commands that R354 and R357 refuse, and units that are not there. -/
theorem test_wf_commands :
    (Instr.setDlevel (cmdHdr 0x09 32 false) [1, 0, 0, 0]).wf = true ∧ (Instr.setDlevel (cmdHdr 0x08 32 false) [1, 0, 0, 0]).wf = false ∧
    (Instr.setDlevel (cmdHdr 0x09 64 false) [1, 0, 0, 0]).wf = false ∧ (Instr.setDlevel (cmdHdr 0x09 32 false) [1, 0, 0]).wf = false ∧
    (Instr.setDlevel (cmdHdr 0x09 32 true) [1, 0, 0, 0]).wf = false ∧ (Instr.attest (cmdHdr 0x11 32 false) [1, 0, 0, 0]).wf = false ∧
    (Instr.setDlevel { cmdHdr 0x09 32 false with spare := 1 } [1, 0, 0, 0]).wf = false ∧
    (Instr.unassignedCodePoint 0x048).wf = false ∧ (Instr.unassignedCodePoint 0x003).wf = true ∧
    (Instr.rotation 48 0).wf = false ∧ (Instr.rotation 0 4).wf = false ∧ (Instr.quarterTransfer 0 0 2).wf = false ∧
    (Instr.transferAcceptance 48).wf = false ∧ (Instr.graphWorkCompletion 0 256).wf = false ∧
    (Instr.parkedThreadReexecute loneWid 32).wf = false ∧ (Instr.watchdog loneWid 16).wf = false ∧ (Instr.portLinkLoss 6).wf = false := by
  decide

/-! ## Words written out from the field tables of R73 to R83 -/

theorem test_decode_bra : decodeSlot 0x000609FFFFFC2808#96 = .ok (.bra ⟨⟨0, true, 2⟩, false, 0x1FFFFF, 3, 386, 0, 0⟩) := by rfl
theorem test_decode_wfma : decodeSlot 0x00207FC831040184#96 = .ok (.wfma ⟨hd, 1, 2, 3, 4, 511, 0, 1⟩) := by rfl
theorem test_decode_copy :
    decodeSlot 0x400BFC030D84C16000281#96 = .ok (.copy ⟨hd, 384, 386, 388, 390, 0, 0xFF, 2, 0, 1⟩) := by rfl
theorem test_decode_bar : decodeSlot 0x14003FF84C17FC0300#96 = .ok (.bar ⟨hd, 511, 386, 388, 511, 0, 0, 5⟩) := by rfl
theorem test_decode_sreg : decodeSlot 0x90000077FF8180345#96 = .ok (.sreg ⟨hd, 6, 511, 0x77, 0, 0, 9⟩) := by rfl
theorem test_decode_tex : decodeSlot 0x3C00000304180802001C2#96 = .ok (.tex ⟨hd, 8, 16, 24, 386, 0, 0, 0, 15, 0⟩) := by rfl
theorem test_decode_xenq : decodeSlot 0x3FE08027FC030C#96 = .ok (.xenq ⟨hd, 511, 4, 8, 511, 0, 0, 0⟩) := by rfl
theorem test_decode_st : decodeSlot 0xFFFFFFF8197B80C040100201#96 = .ok (.st ⟨hd, 4, 8, 12, 4, 3, 15, false, 1, 3, 0xFFFFFFF8⟩) := by rfl
theorem test_decode_iadd : decodeSlot 0x108BFE0C04010C048#96 = .ok (.iadd ⟨⟨3, false, 0⟩, 4, 8, 12, 511, 0x22, 4, 0⟩) := by rfl
theorem test_decode_rcv : decodeSlot 0x64003FFD0000000011#96 = .ok (.rcv ⟨hd, false, 0, 2, 511, 7, 100⟩) := by rfl
theorem test_decode_reserved : decodeSlot 0x108BFE0C04012C048#96 = .error (.reservedBit 0x048) := by rfl
theorem test_decode_unassigned : decodeSlot 0x003#96 = .ok (.unassignedCodePoint 0x003) := by rfl

/-- Words that examples of the spec write out: `CAS`, `ATOM`, `FACC` and `TRAP`. -/
theorem test_decode_examples :
    (decodeTableWord 96 0x187960E050300203).isSome = true ∧ (decodeTableWord 96 0x1009604047FC0202).isSome = true ∧
    (decodeTableWord 96 0x003FE02C07FC01C0).isSome = true ∧
    decodeTableWord 96 0x000012340000000FFFFC0347 = some (.trap ⟨hd, 511, 511, 0, 0, 0, 0x1234⟩) := by decide

/-- A message of `SET_DLEVEL` 2 for queue 3 of context 5, with tag 9 (R354, R359). -/
theorem test_decode_message :
    decodeTableWord 512 (0x09 + 3 * 2 ^ 16 + 5 * 2 ^ 32 + 32 * 2 ^ 64 + 9 * 2 ^ 96 + 2 * 2 ^ 256) =
      some (.setDlevel { cmd := 9, queue := 3, asid := 5, pkg := false, length := 32, tag := 9, spare := 0 } [2, 0, 0, 0]) := by decide

/-! ## Instructions whose statement asks for nothing but that they issue -/

/-- One instance of each instruction whose statement asks for nothing but that it issues and traps nothing. -/
def plainInts : List Instr :=
  [.andR ⟨hd, 4, 8, 12, 511, 102, 0, 0⟩, .andImm ⟨hd, 4, 8, 102, 0, 0, 3⟩, .bfi ⟨hd, 4, 8, 12, 16, 102, 0, 0⟩,
   .bfx ⟨hd, 4, 8, 12, 511, 102, 0, 0⟩, .brev ⟨hd, 4, 8, 511, 511, 102, 0, 0⟩, .bsel ⟨hd, 4, 8, 12, 16, 102, 0, 0⟩,
   .clz ⟨hd, 4, 8, 511, 511, 102, 0, 0⟩, .iabs ⟨hd, 4, 8, 511, 511, 34, 0, 0⟩, .iadd ⟨hd, 4, 8, 12, 511, 102, 0, 0⟩,
   .iaddImm ⟨hd, 4, 8, 102, 0, 0, 3⟩, .isub ⟨hd, 4, 8, 12, 511, 102, 0, 0⟩, .isubImm ⟨hd, 4, 8, 102, 0, 0, 3⟩,
   .imul ⟨hd, 4, 8, 12, 511, 102, 0, 0⟩, .imulImm ⟨hd, 4, 8, 102, 0, 0, 3⟩, .imulh ⟨hd, 4, 8, 12, 511, 102, 0, 0⟩,
   .imulhImm ⟨hd, 4, 8, 102, 0, 0, 3⟩, .imad ⟨hd, 4, 8, 12, 16, 102, 0, 0⟩, .imax ⟨hd, 4, 8, 12, 511, 102, 0, 0⟩,
   .imaxImm ⟨hd, 4, 8, 102, 0, 0, 3⟩, .imin ⟨hd, 4, 8, 12, 511, 102, 0, 0⟩, .iminImm ⟨hd, 4, 8, 102, 0, 0, 3⟩,
   .idiv ⟨hd, 4, 8, 12, 511, 102, 0, 0⟩, .idivImm ⟨hd, 4, 8, 102, 0, 0, 3⟩, .irem ⟨hd, 4, 8, 12, 511, 102, 0, 0⟩,
   .iremImm ⟨hd, 4, 8, 102, 0, 0, 3⟩, .icmp ⟨hd, 4, 8, 12, 511, 102, 0, 0⟩, .icmpImm ⟨hd, 4, 8, 102, 0, 0, 3⟩,
   .mov ⟨hd, 4, 8, 511, 511, 102, 0, 0⟩, .movFirst ⟨hd, 384, 8, 511, 511, 102, 0, 1⟩, .movi ⟨hd, 4, 511, 102, 0, 0, 3⟩,
   .moviHi ⟨hd, 4, 511, 119, 0, 1, 3⟩, .orR ⟨hd, 4, 8, 12, 511, 102, 0, 0⟩, .orImm ⟨hd, 4, 8, 102, 0, 0, 3⟩,
   .popc ⟨hd, 4, 8, 511, 511, 102, 0, 0⟩, .rot ⟨hd, 4, 8, 12, 511, 102, 0, 0⟩, .rotImm ⟨hd, 4, 8, 102, 0, 0, 3⟩,
   .sel ⟨hd, 4, 8, 12, 511, 102, 0, 0⟩, .shl ⟨hd, 4, 8, 12, 511, 102, 0, 0⟩, .shlImm ⟨hd, 4, 8, 102, 0, 0, 3⟩,
   .shr ⟨hd, 4, 8, 12, 511, 102, 0, 0⟩, .shrImm ⟨hd, 4, 8, 102, 0, 0, 3⟩, .sra ⟨hd, 4, 8, 12, 511, 102, 0, 0⟩,
   .sraImm ⟨hd, 4, 8, 102, 0, 0, 3⟩, .xorR ⟨hd, 4, 8, 12, 511, 102, 0, 0⟩, .xorImm ⟨hd, 4, 8, 102, 0, 0, 3⟩,
   .agen ⟨hd, 4, 8, 511, 0, 0, 15, false, 0, 2, 0⟩]

def plainOthers : List Instr :=
  [.cvt ⟨hd, 4, 8, 511, 511, 102, 0, 0⟩, .fadd ⟨hd, 4, 8, 12, 511, 170, 0, 0⟩, .faddImm ⟨hd, 4, 8, 170, 0, 0, 3⟩,
   .fsub ⟨hd, 4, 8, 12, 511, 170, 0, 0⟩, .fsubImm ⟨hd, 4, 8, 170, 0, 0, 3⟩, .fmul ⟨hd, 4, 8, 12, 511, 170, 0, 0⟩,
   .fmulImm ⟨hd, 4, 8, 170, 0, 0, 3⟩, .fdiv ⟨hd, 4, 8, 12, 511, 170, 0, 0⟩, .fdivImm ⟨hd, 4, 8, 170, 0, 0, 3⟩,
   .ffma ⟨hd, 4, 8, 12, 16, 170, 0, 0⟩, .fmax ⟨hd, 4, 8, 12, 511, 170, 0, 0⟩, .fmaxImm ⟨hd, 4, 8, 170, 0, 0, 3⟩,
   .fmin ⟨hd, 4, 8, 12, 511, 170, 0, 0⟩, .fminImm ⟨hd, 4, 8, 170, 0, 0, 3⟩, .fcmp ⟨hd, 4, 8, 12, 511, 170, 0, 0⟩,
   .fcmpImm ⟨hd, 4, 8, 170, 0, 0, 3⟩, .frnd ⟨hd, 4, 8, 511, 511, 170, 0, 0⟩, .fsqrt ⟨hd, 4, 8, 511, 511, 170, 0, 0⟩,
   .frcp ⟨hd, 4, 8, 511, 511, 170, 0, 0⟩, .frsq ⟨hd, 4, 8, 511, 511, 170, 0, 0⟩, .fexp2 ⟨hd, 4, 8, 511, 511, 170, 0, 0⟩,
   .flog2 ⟨hd, 4, 8, 511, 511, 170, 0, 0⟩, .fsin ⟨hd, 4, 8, 511, 511, 170, 0, 0⟩, .fcos ⟨hd, 4, 8, 511, 511, 170, 0, 0⟩,
   .ftsum ⟨hd, 4, 8, 12, 511, 170, 0, 0⟩, .pfma ⟨hd, 4, 8, 12, 16, 136, 0, 0⟩, .wadd ⟨hd, 1, 2, 3, 0, 511, 0, 0⟩,
   .wmul ⟨hd, 1, 2, 3, 0, 511, 0, 0⟩, .wfma ⟨hd, 1, 2, 3, 4, 511, 0, 0⟩, .wscal ⟨hd, 1, 2, 0, 0, 4, 0, 0⟩,
   .wexp ⟨hd, 1, 2, 0, 0, 511, 0, 0⟩, .wspan ⟨hd, 1, 0, 0, 0, 4, 0, 0⟩, .wsum ⟨hd, 0, 2, 0, 0, 4, 0, 0⟩,
   .wdot ⟨hd, 0, 2, 3, 0, 4, 0, 0⟩, .lred ⟨hd, 4, 8, 12, 511, 102, 0, 0⟩, .matchR ⟨hd, 4, 8, 511, 511, 102, 0, 0⟩,
   .slane ⟨hd, 4, 8, 12, 16, 102, 0, 0⟩, .vpoll ⟨hd, 4, 8, 511, 16, 102, 0, 0⟩, .leafx ⟨hd, 4, 8, 12, 511, 170, 0, 0⟩,
   .nop ⟨hd, 511, 511, 511, 511, 0, 0, 0⟩, .fence ⟨hd, 511, 511, 511, 0, 2, 15, false, 0, 0, 0⟩,
   .cflush ⟨hd, 511, 8, 511, 1, 0, 15, false, 0, 2, 0⟩, .pref ⟨hd, 511, 8, 511, 1, 0, 15, false, 0, 2, 0⟩,
   .yield ⟨hd, 511, 511, 511, 511, 0, 0, 0⟩, .exit ⟨hd, 511, 511, 511, 511, 0, 0, 0⟩]

/-- Each of them issues in its lone wave, which enables no trap: the hypotheses of the statements on arithmetic, packets, lane
groups, hints and `EXIT` are met (`witness_plain` for the exceptions). -/
theorem witness_plainInts : (plainInts.all (fun i => clear i hd (lone i id id))) = true := by decide
theorem witness_plainOthers : (plainOthers.all (fun i => clear i hd (lone i id id))) = true := by decide
theorem witness_plain (i : Instr) (h : Hdr) (s : State) (f : Nat → LaneOut)
    (hf : ∀ l ∈ (issAt i h s).lanes, ((issAt i h s).w.thread l).fen = 0) : NoTrap (issAt i h s) f := by
  intro l hl
  rw [hf l hl]
  simp
theorem witness_fen : ((plainInts ++ plainOthers).all (fun i => (issAt i hd (lone i id id)).lanes.all (fun l =>
    ((issAt i hd (lone i id id)).w.thread l).fen == 0))) = true := by decide

/-! ## States for the statements that ask for more -/

/-- V registers of lane 0, and S registers, with some values. -/
def vset (l : List (Nat × Nat)) (w : Wave) : Wave := l.foldl (fun w p => w.setV 0 p.1 (BitVec.ofNat 32 p.2)) w
def sset (l : List (Nat × Nat)) (w : Wave) : Wave := l.foldl (fun w p => w.setS p.1 (BitVec.ofNat 64 p.2)) w

/-- A number of `n` bytes in memory. -/
def poke (a n v : Nat) (s : State) : State :=
  { s with mem := cellSets memDefault s.mem ((List.range n).map (fun i => (a + i, BitVec.ofNat 8 (v / 2 ^ (8 * i))))) }

/-- Changes of the grid, the team and the context. -/
def gridBy (f : Grid → Grid) (s : State) : State := { s with grids := s.grids.map f }
def teamBy (f : Team → Team) (s : State) : State := { s with teams := s.teams.map f }
def ctxBy (f : Ctx → Ctx) (s : State) : State := { s with ctxs := s.ctxs.map f }
def roomy (s : State) : State := gridBy (fun g => { g with lrec := { g.lrec with scr := 1, acc := 1 } }) s

/-- The line of the lone wave with the `TGT` bit of slot 0 set. -/
def tgt (s : State) : State := s.updCore 0 (fun k => { k with icache := k.icache.map (fun p => (p.1, p.2.1, p.2.2 ||| 1#512 <<< 480)) })

/-- The context and the team of a lone wave. -/
def ctx0 (s : State) : Ctx := (s.ctx? 0).getD (newCtx 0 [])
theorem ctx0_eq {s : State} (h : (s.ctx? 0).isSome = true) : s.ctx? 0 = some (ctx0 s) := by
  unfold ctx0
  cases e : s.ctx? 0 with
  | none => rw [e] at h; cases h
  | some c => rfl

/-- What `Lands` and `Reaches` ask, as checks. -/
def landsB (x : Iss) (s : State) (as : List LaneAcc) (acc : Acc) (place : Ctx → LaneAcc → Bool) (pas : Nat → List (Nat × Nat))
    (c : Ctx) : Bool :=
  decide (s.ctx? (asidOf x.wid) = some c) && as.all (fun a =>
    decide (s.xlateAll c (s.ownBlock x.wid.team.grid) a.va a.n acc = .ok (pas a.lane)) && !s.owned c.asid a.va a.n &&
      (c.converting a.va a.n).isNone && !place c a)
theorem lands_of {x : Iss} {s : State} {as : List LaneAcc} {acc : Acc} {place : Ctx → LaneAcc → Bool} {pas : Nat → List (Nat × Nat)}
    {c : Ctx} (h : landsB x s as acc place pas c = true) : Lands x s as acc place pas c := by
  simp only [landsB, Bool.and_eq_true, decide_eq_true_eq, List.all_eq_true, Bool.not_eq_true', Option.isNone_iff_eq_none] at h
  exact ⟨h.1, fun a ha => ⟨(h.2 a ha).1.1.1, (h.2 a ha).1.1.2, (h.2 a ha).1.2, (h.2 a ha).2⟩⟩
def reachesB (x : Iss) (s : State) (as : List LaneAcc) (acc : Acc) (place : Ctx → LaneAcc → Bool) (pas : Nat → List (Nat × Nat))
    (c : Ctx) : Bool := landsB x s as acc place pas c && decide (s.slotsUsed x.w.core + slotsOf as ≤ 768)
theorem reaches_of {x : Iss} {s : State} {as : List LaneAcc} {acc : Acc} {place : Ctx → LaneAcc → Bool} {pas : Nat → List (Nat × Nat)}
    {c : Ctx} (h : reachesB x s as acc place pas c = true) : Reaches x s as acc place pas c := by
  simp only [reachesB, Bool.and_eq_true, decide_eq_true_eq] at h
  exact ⟨lands_of h.1, h.2⟩

/-- Whether a write on a context's behalf is made. -/
def madeB (r : Behalf) : Bool := match r with | .made _ => true | _ => false
theorem made_of {r : Behalf} (h : madeB r = true) : ∃ s, r = .made s := by
  cases r with
  | made s => exact ⟨s, rfl⟩
  | heldOn s on => cases h
  | failed s c v => cases h

/-- What `noneHeld` asks, as a check. -/
theorem noneHeld_of {x : Iss} (h : x.lanes.all (fun l => (x.w.thread l).run == .ready) = true) : noneHeld x := by
  intro l hl id
  have := List.all_eq_true.mp h l hl
  constructor <;> intro e <;> simp [e] at this

/-- What `AtOnce` asks, as checks. -/
theorem atOnce_of {x : Iss} {s : State} {code : Nat} (h : x.lanes.all (fun l => (x.w.thread l).run == .ready) = true)
    (hc : x.atChannel s = false) : AtOnce x s code := ⟨noneHeld_of h, fun _ _ => hc⟩

/-- What `TargetsOk` asks of targets in the cache, as a check. -/
def targetsB (x : Iss) (s : State) (ts : List (Nat × Nat)) : Bool := ts.all (fun p =>
  match (s.core x.w.core).line? (asidOf x.wid) (p.2 / 64) with | some line => (lineWord line).testBit (p.2 % 8) | none => false)
theorem targets_of {x : Iss} {s : State} {ts : List (Nat × Nat)} (h : targetsB x s ts = true) : TargetsOk x s ts := by
  intro p hp
  have := List.all_eq_true.mp h p hp
  split at this
  · exact .inr ⟨_, ‹_›, this⟩
  · cases this

/-! ## Steps, memory and issue -/

/-- Whether an outcome is a next state. -/
def goes (r : Host.Outcome State Fault Refusal) : Bool := match r with | .next _ => true | _ => false
theorem goes_of {r : Host.Outcome State Fault Refusal} (h : goes r = true) : ∃ t, r = .next t := by
  cases r with
  | next t => exact ⟨t, rfl⟩
  | fault f => cases h
  | refused q => cases h

theorem witness_DecodeAfterEncode :
    (Instr.nop ⟨hd, 511, 511, 511, 511, 0, 0, 0⟩).wf = true ∧ encode (.nop ⟨hd, 511, 511, 511, 511, 0, 0, 0⟩) = some 0x003FFFFFFFFC0000#96 :=
  ⟨by decide +kernel, by rfl⟩
theorem witness_EncodeAfterDecode : decodeSlot 0x003#96 = .ok (.unassignedCodePoint 0x003) := by rfl
theorem witness_StepKeepsMemoryCanonical : State.reset.memOk ∧ ∃ t, step (State.reset.withFetchWord 96 0x003FFFFFFFFC0000) = .next t :=
  ⟨⟨by decide +kernel, by decide +kernel⟩, goes_of (by decide +kernel)⟩
theorem witness_NothingRefused : ∃ c w, (lone (.nop ⟨hd, 511, 511, 511, 511, 0, 0, 0⟩) id id).cur = some c ∧
    (lone (.nop ⟨hd, 511, 511, 511, 511, 0, 0, 0⟩) id id).wave? c.wid = some w := ⟨_, _, rfl, rfl⟩
theorem witness_NothingRefusedStep : ∃ (s : State) (i : Instr) (rest : List Instr), s.due = i :: rest ∧ isEvent i = true :=
  ⟨{ State.reset with due := [.teamPlacement] }, _, _, rfl, rfl⟩
theorem witness_StepRunsDecoded : ∃ (s : State) (w : Wave) (rest : List Turn) (l : Nat) (ls : List Nat) (pc : DWord) (k : Slot) (i : Instr),
    s.due = [] ∧ s.agenda = .slot loneWid :: rest ∧
    let s0 : State := { s with agenda := rest }
    s0.slotFirst loneWid = loneWid ∧ s0.wave? loneWid = some w ∧ s0.mayIssue w = true ∧ w.issued = false ∧
    let v := s0.aimBpc w
    let s1 := s0.updWave loneWid (fun _ => v)
    s1.slotGroup v = (l :: ls, pc) ∧ s1.needsFetch v pc = false ∧ s1.slotAt v pc = some k ∧ decodeSlot k = .ok i :=
  ⟨State.reset.withFetchWord 96 0x003FFFFFFFFC0000, _, _, _, _, _, _, _, rfl, rfl, by decide +kernel, rfl, by decide +kernel, by decide +kernel, rfl, by decide +kernel, rfl, rfl⟩

/-- An `IADD` without its guard, with a register that is not there, and with an empty source. -/
theorem witness_FalseGuard : ∃ (f : FmtR) (s : State) (c : Cur) (w : Wave), s.cur = some c ∧ s.wave? c.wid = some w ∧
    operandFault (.iadd f) w = none ∧ (lanesOf c.lanes).filter (guardTrue f.h w) = [] :=
  ⟨⟨⟨0, true, 0⟩, 4, 8, 12, 511, 0x66, 0, 0⟩, lone (.iadd ⟨⟨0, true, 0⟩, 4, 8, 12, 511, 0x66, 0, 0⟩) id id, _, _, rfl, rfl, by decide +kernel,
    by decide +kernel⟩
theorem witness_BadOperand : ∃ (f : FmtR) (s : State) (c : Cur) (w : Wave) (code : Nat), s.cur = some c ∧ s.wave? c.wid = some w ∧
    operandFault (.iadd f) w = some code :=
  ⟨⟨hd, 4, 8, 350, 511, 0x66, 0, 0⟩, lone (.iadd ⟨hd, 4, 8, 350, 511, 0x66, 0, 0⟩) id id, _, _, _, rfl, rfl, rfl⟩
theorem witness_RoleRefused : ∃ (f : FmtX) (s : State) (c : Cur) (w : Wave), s.cur = some c ∧ s.wave? c.wid = some w ∧
    operandFault (.mwl f) w = none ∧ (lanesOf c.lanes).filter (guardTrue f.h w) ≠ [] ∧ s.roleRefused (.mwl f) w = true :=
  ⟨⟨hd, 511, 8, 511, 511, 0, 0, 0, 0, 0⟩, lone (.mwl ⟨hd, 511, 8, 511, 511, 0, 0, 0, 0, 0⟩) (fun w => { w with role := .vector }) id, _, _, rfl,
    rfl, by decide +kernel, by decide +kernel, by decide +kernel⟩
theorem witness_AllBlocked : ∃ (f : FmtR) (k : Slot) (s : State) (c : Cur) (w : Wave), encode (.isub f) = some k ∧ s.cur = some c ∧
    s.wave? c.wid = some w ∧ operandFault (.isub f) w = none ∧ s.roleRefused (.isub f) w = false ∧
    (lanesOf c.lanes).filter (guardTrue (getHdr k) w) ≠ [] ∧
    ∀ l ∈ (lanesOf c.lanes).filter (guardTrue (getHdr k) w), blockedAt (.isub f) w l = true :=
  ⟨⟨hd, 4, 8, 12, 511, 0x66, 0, 0⟩, _, lone (.isub ⟨hd, 4, 8, 12, 511, 0x66, 0, 0⟩) (fun w => w.markEmpty 0 12 1 5) id, _, _, rfl, rfl, rfl,
    by decide +kernel, by decide +kernel, by decide +kernel, by decide +kernel⟩
theorem witness_EmptySourceBlocks : ∃ (f : FmtR) (s : State) (c : Cur) (w : Wave), s.cur = some c ∧ s.wave? c.wid = some w ∧
    operandFault (.iadd f) w = none ∧ s.roleRefused (.iadd f) w = false ∧ (∀ l ∈ lanesOf c.lanes, guardTrue f.h w l = true) ∧
    f.h.fe = 0 ∧ f.a.toNat < 320 ∧ (∀ l ∈ lanesOf c.lanes, w.anyEmpty l f.a.toNat 1 = true) ∧ lanesOf c.lanes ≠ [] :=
  ⟨⟨hd, 4, 8, 12, 511, 0x66, 0, 0⟩, lone (.iadd ⟨hd, 4, 8, 12, 511, 0x66, 0, 0⟩) (fun w => w.markEmpty 0 8 1 5) id, _, _, rfl, rfl,
    by decide +kernel, by decide +kernel, by decide +kernel, by decide +kernel, by decide +kernel, by decide +kernel, by decide +kernel⟩

/-- A saturating `IADD` whose overflow is enabled, and an `FADD` of ∞ and −∞ whose invalid exception is. -/
theorem witness_EnabledExceptionTraps :
    (∃ (f : FmtR) (s : State) (x : Iss), Issues (.iadd f) f.h s x ∧ ∃ l ∈ x.lanes, ((LaneOut.sum f.d (tyS f.ty) (satOf f.mode)
      (x.int l f.a (tyS f.ty) + x.int l f.b (tyS f.ty))).exc &&& (x.w.thread l).fen).getLsbD 2 = true) ∧
    (∃ (f : FmtR) (s : State) (x : Iss), Issues (.fadd f) f.h s x ∧ ∃ l ∈ x.lanes, ((LaneOut.flt f.d (fAdd (tyS f.ty) (rndOf f.mode.toNat)
      (x.flt l f.a (tyS f.ty)) (x.flt l f.b (tyS f.ty)))).exc &&& (x.w.thread l).fen).getLsbD 0 = true) := by
  refine ⟨⟨⟨hd, 4, 8, 12, 511, 0x66, 4, 0⟩, lone (.iadd ⟨hd, 4, 8, 12, 511, 0x66, 4, 0⟩) (fun w => (vset [(8, 0xFFFFFFFF), (12, 1)] w).updThread 0
    (fun t => { t with fen := 0x3F })) id, _, issues_of (by decide +kernel), 0, by decide +kernel, by decide +kernel⟩, ?_⟩
  exact ⟨⟨hd, 4, 8, 12, 511, 0xAA, 0, 0⟩, lone (.fadd ⟨hd, 4, 8, 12, 511, 0xAA, 0, 0⟩) (fun w => (vset [(8, 0x7F800000), (12, 0xFF800000)] w).updThread 0
    (fun t => { t with fen := 0x3F })) id, _, issues_of (by decide +kernel), 0, by decide +kernel, by decide +kernel⟩

/-! ## Control, synchronisation and system instructions -/

theorem witness_FenceWalk : ∃ (f : FmtM) (s : State) (x : Iss), Issues (.fenceWalk f) f.h s x ∧
    (∀ l ∈ x.lanes, s.unseenBy x.w l = false) :=
  ⟨⟨hd, 511, 511, 511, 3, 5, 15, false, 0, 0, 0⟩, lone (.fenceWalk ⟨hd, 511, 511, 511, 3, 5, 15, false, 0, 0, 0⟩) (id) (id), _, issues_of (by decide), by decide⟩

theorem witness_FenceWalkWaits : ∃ (f : FmtM) (s : State) (x : Iss), Issues (.fenceWalk f) f.h s x ∧
    (∀ l ∈ x.lanes, s.unseenBy x.w l = true) :=
  ⟨⟨hd, 511, 511, 511, 3, 5, 15, false, 0, 0, 0⟩, lone (.fenceWalk ⟨hd, 511, 511, 511, 3, 5, 15, false, 0, 0, 0⟩) (fun w => w.updThread 0 (fun t => { t with unseen := true })) (id), _, issues_of (by decide), by decide⟩

theorem witness_Muel : ∃ (f : FmtW) (s : State) (x : Iss) (t : Team), Issues (.muel f) f.h s x ∧
    s.team? x.wid.team = some t ∧
    ((∀ l ∈ x.lanes, x.rd l f.vs 1 % 2 ^ 32 % 64 = 0 ∧ x.rd l f.vs 1 % 2 ^ 32 + 512 ≤ s.scratchSize x.wid)) ∧
    (∀ l ∈ x.lanes, (x.w.thread l).fen = 0) :=
  ⟨⟨hd, 4, 8, 0, 0, 4, 0, 0⟩, lone (.muel ⟨hd, 4, 8, 0, 0, 4, 0, 0⟩) (id) (roomy), _, _, issues_of (by decide), rfl, by decide, by decide⟩

theorem witness_Bra : ∃ (f : FmtB) (s : State) (x : Iss), Issues (.bra f) f.h s x ∧
    (f.u = true → f.a.toNat ≠ 511 → x.uniformFault f.a 1 = none) ∧
    TargetsOk x s (x.act.map (fun l => (l, directTarget f x.pc))) :=
  ⟨⟨hd, false, 0, 0, 511, 0, 0⟩, lone (.bra ⟨hd, false, 0, 0, 511, 0, 0⟩) (id) (tgt), _, issues_of (by decide), by decide, targets_of (by decide +kernel)⟩

theorem witness_BruTrue : ∃ (f : FmtB) (s : State) (x : Iss), Issues (.bru f) f.h s x ∧
    (f.u = true → f.a.toNat ≠ 511 → x.uniformFault f.a 1 = none) ∧
    (f.a.toNat == 511 || x.rd x.first f.a 1 != 0) = true ∧
    TargetsOk x s (x.group.map (fun l => (l, directTarget f x.pc))) :=
  ⟨⟨hd, true, 0, 0, 511, 0, 0⟩, lone (.bru ⟨hd, true, 0, 0, 511, 0, 0⟩) (id) (tgt), _, issues_of (by decide), by decide, by decide, targets_of (by decide +kernel)⟩

theorem witness_BruFalse : ∃ (f : FmtB) (s : State) (x : Iss), Issues (.bru f) f.h s x ∧
    (f.u = true → f.a.toNat ≠ 511 → x.uniformFault f.a 1 = none) ∧
    (f.a.toNat == 511 || x.rd x.first f.a 1 != 0) = false :=
  ⟨⟨hd, true, 0, 0, 384, 0, 0⟩, lone (.bru ⟨hd, true, 0, 0, 384, 0, 0⟩) (id) (id), _, issues_of (by decide), by decide, by decide⟩

theorem witness_BranchTarget : ∃ (f : FmtB) (s : State) (x : Iss) (line : BitVec 512), Issues (.bra f) f.h s x ∧
    f.a.toNat = 511 ∧
    pcBad (directTarget f x.pc) = false ∧
    (s.core x.w.core).line? (asidOf x.wid) (directTarget f x.pc / 64) = some line ∧
    (lineWord line).testBit (directTarget f x.pc % 8) = false :=
  ⟨⟨hd, false, 0, 0, 511, 0, 0⟩, lone (.bra ⟨hd, false, 0, 0, 511, 0, 0⟩) (id) (id), _, _, issues_of (by decide), by decide, by decide, rfl, by decide +kernel⟩

theorem witness_Call : ∃ (f : FmtB) (s : State) (x : Iss), Issues (.call f) f.h s x ∧
    (f.u = true → f.a.toNat ≠ 511 → x.uniformFault f.a 2 = none) ∧
    TargetsOk x s ((if x.uni then x.group else x.act).map (fun l => (l, directTarget f x.pc))) :=
  ⟨⟨hd, false, 0, 0, 386, 0, 0⟩, lone (.call ⟨hd, false, 0, 0, 386, 0, 0⟩) (id) (tgt), _, issues_of (by decide), by decide, targets_of (by decide +kernel)⟩

theorem witness_Jmpi : ∃ (f : FmtB) (s : State) (x : Iss), Issues (.jmpi f) f.h s x ∧
    (f.u = true → f.a.toNat ≠ 511 → x.uniformFault f.a 2 = none) ∧
    TargetsOk x s ((if x.uni then x.group else x.act).map (fun l => (l, x.rd (if x.uni then x.first else l) f.a 2))) :=
  ⟨⟨hd, false, 0, 0, 386, 0, 0⟩, lone (.jmpi ⟨hd, false, 0, 0, 386, 0, 0⟩) (id) (tgt), _, issues_of (by decide), by decide, targets_of (by decide +kernel)⟩

theorem witness_Ret : ∃ (f : FmtB) (s : State) (x : Iss), Issues (.ret f) f.h s x ∧
    (f.u = true → f.a.toNat ≠ 511 → x.uniformFault f.a 2 = none) :=
  ⟨⟨hd, false, 0, 0, 386, 0, 0⟩, lone (.ret ⟨hd, false, 0, 0, 386, 0, 0⟩) (id) (id), _, issues_of (by decide), by decide⟩

theorem witness_Rcvset : ∃ (f : FmtB) (s : State) (x : Iss), Issues (.rcvset f) f.h s x ∧
    (∀ l ∈ x.w.lanes, (x.w.thread l).waits x.w.tlevel (fun v => match v with | .rcv k _ => k == f.j.toNat | _ => false) = false) :=
  ⟨⟨hd, false, 0, 0, 511, 0, 0⟩, lone (.rcvset ⟨hd, false, 0, 0, 511, 0, 0⟩) (id) (id), _, issues_of (by decide), by decide⟩

theorem witness_RcvsetWaits : ∃ (f : FmtB) (s : State) (x : Iss), Issues (.rcvset f) f.h s x ∧
    (∃ l ∈ x.w.lanes, (x.w.thread l).waits x.w.tlevel (fun v => match v with | .rcv k _ => k == f.j.toNat | _ => false) = true) :=
  ⟨⟨hd, false, 0, 0, 511, 0, 0⟩, lone (.rcvset ⟨hd, false, 0, 0, 511, 0, 0⟩) (fun w => w.updThread 1 (fun t => { t with run := .blocked (.rcv 0 0) })) (id), _, issues_of (by decide), by decide⟩

theorem witness_RcvPass : ∃ (f : FmtB) (s : State) (x : Iss), Issues (.rcv f) f.h s x ∧
    x.act.filter (fun l => !((x.w.join f.j.toNat).brk || !(x.w.join f.j.toNat).exp.getLsbD l)) = [] :=
  ⟨⟨hd, false, 0, 0, 511, 0, 0⟩, lone (.rcv ⟨hd, false, 0, 0, 511, 0, 0⟩) (id) (id), _, issues_of (by decide), by decide⟩

theorem witness_RcvStay : ∃ (f : FmtB) (s : State) (x : Iss), Issues (.rcv f) f.h s x ∧
    x.act.filter (fun l => !((x.w.join f.j.toNat).brk || !(x.w.join f.j.toNat).exp.getLsbD l)) ≠ [] :=
  ⟨⟨hd, false, 0, 0, 511, 0, 0⟩, lone (.rcv ⟨hd, false, 0, 0, 511, 0, 0⟩) (fun w => w.setJoin 0 { Join.none with exp := 3 }) (id), _, issues_of (by decide), by decide⟩

theorem witness_Launch : ∃ (f : FmtR) (s : State) (x : Iss) (t : Team) (g : Grid) (r : Nat), Issues (.launch f) f.h s x ∧
    alone x s t ∧
    s.grid? x.wid.team.grid = some g ∧
    x.uniformFaults [(f.a, 2)] = none ∧
    x.uval f.a 2 ≠ 0 ∧
    x.uval f.a 2 % 64 = 0 ∧
    s.uload x (x.uval f.a 2) 128 = .ok r ∧
    recRefused r g.level false = false ∧
    g.depth < 10 :=
  ⟨⟨hd, 4, 8, 511, 511, 0, 0, 0⟩, lone (.launch ⟨hd, 4, 8, 511, 511, 0, 0, 0⟩) (vset [(8, 0x1000)]) (poke 0x1000 128 0x88000200004000000001000100010001000000000000000000000000000000000000000000000000), _, _, _, _, issues_of (by decide), ⟨rfl, rfl⟩, rfl, by decide, by decide, by decide, rfl, by decide +kernel, by decide⟩

theorem witness_LaunchLeads : ∃ (f : FmtR) (k : Slot) (s : State) (c : Cur) (w : Wave) (t : Team), encode (.launch f) = some k ∧ s.cur = some c ∧
    s.wave? c.wid = some w ∧ s.team? w.id.team = some t ∧ operandFault (.launch f) w = none ∧
    (lanesOf c.lanes).filter (guardTrue f.h w) ≠ [] ∧ (if t.hasLead = true then w.isLead = true else w.id.wave = 0) :=
  ⟨⟨hd, 4, 8, 511, 511, 0, 0, 0⟩, _, lone (.launch ⟨hd, 4, 8, 511, 511, 0, 0, 0⟩) id (id), _, _, _, rfl, rfl, rfl, rfl,
    by decide +kernel, by decide +kernel, by decide +kernel⟩

theorem witness_LaunchRefused : ∃ (f : FmtR) (k : Slot) (s : State) (c : Cur) (w : Wave) (t : Team), encode (.launch f) = some k ∧ s.cur = some c ∧
    s.wave? c.wid = some w ∧ s.team? w.id.team = some t ∧ operandFault (.launch f) w = none ∧
    (lanesOf c.lanes).filter (guardTrue f.h w) ≠ [] ∧ ¬ (if t.hasLead = true then w.isLead = true else w.id.wave = 0) :=
  ⟨⟨hd, 4, 8, 511, 511, 0, 0, 0⟩, _, lone (.launch ⟨hd, 4, 8, 511, 511, 0, 0, 0⟩) id (fun s => { s with teams := s.teams.map (fun t => { t with hasLead := true }) }), _, _, _, rfl, rfl, rfl, rfl,
    by decide +kernel, by decide +kernel, by decide +kernel⟩

theorem witness_Bar : ∃ (f : FmtR) (s : State) (x : Iss) (t : Team), Issues (.bar f) f.h s x ∧
    x.w.tlevel = 0 ∧
    s.team? x.wid.team = some t :=
  ⟨⟨hd, 511, 511, 511, 511, 0, 0, 0⟩, lone (.bar ⟨hd, 511, 511, 511, 511, 0, 0, 0⟩) (id) (id), _, _, issues_of (by decide), by decide, rfl⟩

theorem witness_BarArv : ∃ (f : FmtR) (s : State) (x : Iss) (t : Team), Issues (.barArv f) f.h s x ∧
    (t.bar (f.fn.toNat % 16)).arr.getLsbD x.wid.wave = false ∧
    x.w.tlevel = 0 ∧
    s.team? x.wid.team = some t :=
  ⟨⟨hd, 511, 511, 511, 511, 0, 0, 16⟩, lone (.barArv ⟨hd, 511, 511, 511, 511, 0, 0, 16⟩) (id) (id), _, _, issues_of (by decide), by decide, by decide, rfl⟩

theorem witness_BarArvAgain : ∃ (f : FmtR) (s : State) (x : Iss) (t : Team), Issues (.barArv f) f.h s x ∧
    (t.bar (f.fn.toNat % 16)).arr.getLsbD x.wid.wave = true ∧
    x.w.tlevel = 0 ∧
    s.team? x.wid.team = some t :=
  ⟨⟨hd, 511, 511, 511, 511, 0, 0, 16⟩, lone (.barArv ⟨hd, 511, 511, 511, 511, 0, 0, 16⟩) (id) (teamBy (fun t => t.setBar 0 { t.bar 0 with arr := 1 })), _, _, issues_of (by decide), by decide, by decide, rfl⟩

/-- A claim of the lone wave, and the other copy of its team on core 5, which has come to its instruction. -/
def claim0 (fills : List Fill) : Req :=
  { id := 0, wave := loneWid, core := 0, bay := 0, slots := [], carry := Carry.none, kind := .decision 0, fills := fills }
def twice (s : State) : State :=
  { s with
    teams := s.teams ++ s.teams.map (fun t => { t with id := TeamId.twin t.id, core := 5, meet := [(0, [0, 1])] })
    waves := s.waves ++ s.waves.map (fun w => { w with id := twinOf w.id, core := 5 }) }

theorem witness_Decp : ∃ (f : FmtR) (s : State) (x : Iss) (t : Team), Issues (.decp f) f.h s x ∧
    x.w.tlevel = 0 ∧
    s.team? x.wid.team = some t ∧
    t.id = x.wid.team ∧
    t.decisions.length < 64 ∧
    x.optS f.b (2 ^ t.nwaves - 1) % 2 ^ 32 ≠ 0 ∧
    x.optS f.b (2 ^ t.nwaves - 1) % 2 ^ 32 < 2 ^ t.nwaves ∧
    (BitVec.ofNat 32 (x.optS f.b (2 ^ t.nwaves - 1) % 2 ^ 32)) &&& ~~~t.gone ≠ 0 ∧
    s.secondCopy t = false ∧
    (∀ k, s.oldestClaim { team := t.id, wave := k } = none) :=
  ⟨⟨hd, 511, 384, 511, 511, 0, 0, 0⟩, lone (.decp ⟨hd, 511, 384, 511, 511, 0, 0, 0⟩) (fun w => { w with role := .lead }) (id), _, _, issues_of (by decide), by decide, rfl, rfl, by decide, by decide, by decide, by decide, by decide, fun _ => rfl⟩

theorem witness_DecpGives : ∃ (f : FmtR) (s : State) (x : Iss) (t : Team), Issues (.decp f) f.h s x ∧
    x.w.tlevel = 0 ∧
    s.team? x.wid.team = some t ∧
    t.id = x.wid.team ∧
    t.decisions.length < 64 ∧
    x.optS f.b (2 ^ t.nwaves - 1) % 2 ^ 32 ≠ 0 ∧
    x.optS f.b (2 ^ t.nwaves - 1) % 2 ^ 32 < 2 ^ t.nwaves ∧
    s.secondCopy t = false ∧
    (s.giveDecision { team := t.id, wave := 0 } 7).1 = true :=
  ⟨⟨hd, 511, 384, 511, 511, 0, 0, 0⟩, lone (.decp ⟨hd, 511, 384, 511, 511, 0, 0, 0⟩) (fun w => { w with role := .lead }) (fun s => { s with reqs := [claim0 []], nextId := 1 }), _, _, issues_of (by decide), by decide, rfl, rfl, by decide, by decide, by decide, by decide, by decide⟩

theorem witness_DectClaim : ∃ (f : FmtR) (s : State) (x : Iss) (t : Team) (e : Decision), Issues (.dect f) f.h s x ∧
    x.w.tlevel = 0 ∧
    s.team? x.wid.team = some t ∧
    t.id = x.wid.team ∧
    (∀ k, (x.w.thread x.first).run ≠ .blocked (.decision k)) ∧
    t.red = false ∧
    t.hasLead = true ∧
    s.oldestClaim x.wid = none ∧
    t.decisions.find? (fun d => d.mask.getLsbD x.wid.wave) = some e :=
  ⟨⟨hd, 4, 511, 511, 511, 0, 0, 0⟩, lone (.dect ⟨hd, 4, 511, 511, 511, 0, 0, 0⟩) (id) (teamBy (fun t => { t with hasLead := true, decisions := [⟨0, 7, 1⟩] })), _, _, _, issues_of (by decide), by decide, rfl, rfl, nofun, by decide, by decide, by decide, rfl⟩

theorem witness_DectWait : ∃ (f : FmtR) (s : State) (x : Iss) (t : Team), Issues (.dect f) f.h s x ∧
    x.w.tlevel = 0 ∧
    s.team? x.wid.team = some t ∧
    t.id = x.wid.team ∧
    (∀ k, (x.w.thread x.first).run ≠ .blocked (.decision k)) ∧
    t.red = false ∧
    t.hasLead = true ∧
    (s.oldestClaim x.wid ≠ none ∨ t.decisions.find? (fun d => d.mask.getLsbD x.wid.wave) = none) ∧
    t.leadEnded = false ∧
    f.d.toNat < 320 :=
  ⟨⟨hd, 4, 511, 511, 511, 0, 0, 0⟩, lone (.dect ⟨hd, 4, 511, 511, 511, 0, 0, 0⟩) (id) (teamBy (fun t => { t with hasLead := true })), _, _, issues_of (by decide), by decide, rfl, rfl, nofun, by decide, by decide, .inr (by decide), by decide, by decide⟩

theorem witness_DectFilled : ∃ (f : FmtR) (s : State) (x : Iss) (t : Team) (r : Req) (g : Fill), Issues (.dect f) f.h s x ∧
    x.w.tlevel = 0 ∧
    s.team? x.wid.team = some t ∧
    t.id = x.wid.team ∧
    (x.w.thread x.first).run = .blocked (.decision 0) ∧
    t.red = false ∧
    s.reqs.find? (fun r => r.wave == x.wid && r.kind == .decision 0) = some r ∧
    r.fills.head? = some g :=
  ⟨⟨hd, 384, 511, 511, 511, 0, 0, 0⟩, lone (.dect ⟨hd, 384, 511, 511, 511, 0, 0, 0⟩) (fun w => w.updThread 0 (fun t => { t with run := .blocked (.decision 0) })) (fun s => { s with reqs := [claim0 [⟨0, 512, 7⟩]], nextId := 1 }), _, _, _, _, issues_of (by decide), by decide, rfl, rfl, by decide, by decide, rfl, rfl⟩

theorem witness_DectTwice : ∃ (f : FmtR) (s : State) (x : Iss) (t : Team) (u : Team) (wb : Wave) (e : Decision), Issues (.dect f) f.h s x ∧
    x.w.tlevel = 0 ∧
    s.team? x.wid.team = some t ∧
    t.id = x.wid.team ∧
    (∀ k, (x.w.thread x.first).run ≠ .blocked (.decision k)) ∧
    t.red = true ∧
    t.hasLead = true ∧
    s.wave? (twinOf x.wid) = some wb ∧
    s.team? wb.id.team = some u ∧
    t.core ≤ wb.core ∧
    u.meet.find? (fun p => p.1 == x.wid.wave) = some (x.wid.wave, [x.pc.toNat, x.actMask.toNat]) ∧
    s.oldestClaim x.wid = none ∧
    t.decisions.find? (fun d => d.mask.getLsbD x.wid.wave) = some e :=
  ⟨⟨hd, 4, 511, 511, 511, 0, 0, 0⟩, lone (.dect ⟨hd, 4, 511, 511, 511, 0, 0, 0⟩) (id) (fun s => twice (teamBy (fun t => { t with red := true, hasLead := true, decisions := [⟨0, 7, 1⟩] }) s)), _, _, _, _, _, issues_of (by decide), by decide, rfl, rfl, nofun, by decide, by decide, rfl, rfl, by decide, rfl, by decide, rfl⟩

theorem witness_Qpush : ∃ (f : FmtR) (s : State) (x : Iss) (t : Team) (c : Ctx), Issues (.qpush f) f.h s x ∧
    alone x s t ∧
    s.ctx? (asidOf x.wid) = some c ∧
    c.queueSize f.fn.toNat ≠ 0 ∧
    (c.queue f.fn.toNat).length + x.lanes.length ≤ c.queueSize f.fn.toNat :=
  ⟨⟨hd, 511, 8, 511, 511, 0, 0, 0⟩, lone (.qpush ⟨hd, 511, 8, 511, 511, 0, 0, 0⟩) (id) (ctxBy (fun c => { c with qsize := [64] })), _, _, _, issues_of (by decide), ⟨rfl, rfl⟩, rfl, by decide, by decide⟩

theorem witness_Qpop : ∃ (f : FmtR) (s : State) (x : Iss) (t : Team) (c : Ctx), Issues (.qpop f) f.h s x ∧
    alone x s t ∧
    s.ctx? (asidOf x.wid) = some c ∧
    c.queueSize f.fn.toNat ≠ 0 ∧
    c.queue f.fn.toNat ≠ [] :=
  ⟨⟨hd, 4, 511, 511, 511, 0, 0, 0⟩, lone (.qpop ⟨hd, 4, 511, 511, 511, 0, 0, 0⟩) (id) (ctxBy (fun c => { c with qsize := [64], hwq := [(0, [5])] })), _, _, _, issues_of (by decide), ⟨rfl, rfl⟩, rfl, by decide, by decide⟩

theorem witness_Racq : ∃ (f : FmtR) (s : State) (x : Iss) (t : Team), Issues (.racq f) f.h s x ∧
    x.w.tlevel = 0 ∧
    s.team? x.wid.team = some t ∧
    t.id = x.wid.team ∧
    (ringOf t f).n ≠ 0 ∧
    ringReady (t.slot (f.fn.toNat % 8) (cellGet 0 x.w.ring (2 * (f.fn.toNat % 8)) / 2)) (f.fn.toNat / 8 % 2 == 1) (cellGet 0 x.w.ring (2 * (f.fn.toNat % 8)) % 2 == 1) = true :=
  ⟨⟨hd, 384, 511, 511, 511, 0, 0, 0⟩, lone (.racq ⟨hd, 384, 511, 511, 511, 0, 0, 0⟩) (fun w => { w with role := .copy }) (teamBy (fun t => { t with rings := [⟨2, 0, 1, 0, 1⟩] })), _, _, issues_of (by decide), by decide, rfl, rfl, by decide, by decide⟩

theorem witness_Rrel : ∃ (f : FmtR) (s : State) (x : Iss) (t : Team), Issues (.rrel f) f.h s x ∧
    x.w.tlevel = 0 ∧
    s.team? x.wid.team = some t ∧
    t.id = x.wid.team ∧
    (ringOf t f).n ≠ 0 ∧
    x.rd x.first f.a 2 < (ringOf t f).n ∧
    (t.slot (f.fn.toNat % 8) (x.rd x.first f.a 2)).full = (f.fn.toNat / 8 % 2 == 1) ∧
    x.wid.wave ∉ (t.slot (f.fn.toNat % 8) (x.rd x.first f.a 2)).done :=
  ⟨⟨hd, 511, 386, 511, 511, 0, 0, 0⟩, lone (.rrel ⟨hd, 511, 386, 511, 511, 0, 0, 0⟩) (fun w => { w with role := .copy }) (teamBy (fun t => { t with rings := [⟨2, 0, 1, 0, 1⟩] })), _, _, issues_of (by decide), by decide, rfl, rfl, by decide, by decide, by decide, by decide⟩

/-- A wave with a handler, and one without. -/
theorem witness_TrapEntry : ∀ k ∈ [0, 1], ∃ (s : State) (wid : WaveId) (w : Wave), s.wave? wid = some w ∧ w.id = wid ∧ w.tlevel = k ∧ w.tlevel < 2 ∧ w.handler ≠ 0 ∧
    ∃ t, s.team? wid.team = some t ∧ t.id = wid.team := by
  intro k hk
  refine ⟨lone (.nop ⟨hd, 511, 511, 511, 511, 0, 0, 0⟩) (fun w => { w with handler := 64, tlevel := k }) id, loneWid, _, rfl, rfl, rfl, ?_, ?_, _, rfl, rfl⟩
  · simp only [List.mem_cons, List.not_mem_nil, or_false] at hk; show k < 2; omega
  · show (64 : DWord) ≠ 0; decide
theorem witness_TrapKills : ∀ k ∈ [0, 2], ∃ (s : State) (wid : WaveId) (w : Wave) (c : Ctx), s.wave? wid = some w ∧ s.ctx? (asidOf wid) = some c ∧
    c.killed = false ∧ w.tlevel = k ∧ w.handler = 0 := by
  intro k _
  exact ⟨lone (.nop ⟨hd, 511, 511, 511, 511, 0, 0, 0⟩) (fun w => { w with tlevel := k }) id, loneWid, _, _, rfl, rfl, by decide, rfl, rfl⟩
theorem witness_TrapReturn : ∃ w : Wave, (w.tlevel = 1 ∨ w.tlevel = 2) ∧ ∃ l ∈ w.lanes, ∃ r, (w.thread l).saved1 = r ∧
    (w.thread l).run ≠ .ended ∧ ∀ on va, r ≠ .parked on va .resolved :=
  ⟨{ wave0 with tlevel := 1 }, by decide, 0, by decide, _, rfl, by decide, nofun⟩

theorem witness_Bkpt : ∃ (f : FmtR) (s : State) (x : Iss), Issues (.bkpt f) f.h s x ∧
    x.w.halt = .running :=
  ⟨⟨hd, 511, 511, 511, 511, 0, 0, 0⟩, lone (.bkpt ⟨hd, 511, 511, 511, 511, 0, 0, 0⟩) (id) (id), _, issues_of (by decide), rfl⟩

theorem witness_Trap : ∃ (k : FmtI) (s : State) (x : Iss), Issues (.trap k) k.h s x ∧ x.w.halt = .running :=
  ⟨⟨hd, 511, 511, 0, 0, 0, 3⟩, lone (.trap ⟨hd, 511, 511, 0, 0, 0, 3⟩) id id, _, issues_of (by decide), rfl⟩

theorem witness_Rtt : ∃ (f : FmtR) (s : State) (x : Iss), Issues (.rtt f) f.h s x ∧
    x.w.tlevel ≠ 0 :=
  ⟨⟨hd, 511, 511, 511, 511, 0, 0, 0⟩, lone (.rtt ⟨hd, 511, 511, 511, 511, 0, 0, 0⟩) (fun w => { w with tlevel := 1 }) (id), _, issues_of (by decide), by decide⟩

theorem witness_Merge : ∃ (f : FmtR) (s : State) (x : Iss), Issues (.merge f) f.h s x ∧
    x.w.tlevel = 0 ∧
    (s.recOf x.wid).cor = true :=
  ⟨⟨hd, 511, 511, 511, 511, 0, 0, 0⟩, lone (.merge ⟨hd, 511, 511, 511, 511, 0, 0, 0⟩) (id) (gridBy (fun g => { g with lrec := { g.lrec with cor := true } })), _, issues_of (by decide), by decide, by decide⟩

theorem witness_Gfin : ∃ (f : FmtR) (s : State) (x : Iss) (o : Nat × Nat), Issues (.gfin f) f.h s x ∧
    s.ownBlock x.wid.team.grid = some o :=
  ⟨⟨hd, 511, 511, 511, 511, 0, 0, 0⟩, lone (.gfin ⟨hd, 511, 511, 511, 511, 0, 0, 0⟩) (id) (gridBy (fun g => { g with origin := .generator 0 0 1 })), _, _, issues_of (by decide), rfl⟩

theorem witness_Gfail : ∃ (f : FmtR) (s : State) (x : Iss) (o : Nat × Nat), Issues (.gfail f) f.h s x ∧
    s.ownBlock x.wid.team.grid = some o :=
  ⟨⟨hd, 511, 511, 511, 511, 0, 0, 0⟩, lone (.gfail ⟨hd, 511, 511, 511, 511, 0, 0, 0⟩) (id) (gridBy (fun g => { g with origin := .generator 0 0 1 })), _, _, issues_of (by decide), rfl⟩

theorem witness_Sreg : ∃ (k : FmtI) (s : State) (x : Iss), Issues (.sreg k) k.h s x ∧ (k.imm = 0x030 → ∃ t, alone x s t) :=
  ⟨⟨hd, 4, 511, 102, 0, 0, 3⟩, lone (.sreg ⟨hd, 4, 511, 102, 0, 0, 3⟩) id id, _, issues_of (by decide), nofun⟩
theorem witness_SregMissed : ∃ (k : FmtI) (s : State) (x : Iss), Issues (.sreg k) k.h s x ∧ k.imm = 0x030 ∧ ∃ t, alone x s t :=
  ⟨⟨hd, 4, 511, 102, 0, 0, 0x30⟩, lone (.sreg ⟨hd, 4, 511, 102, 0, 0, 0x30⟩) id id, _, issues_of (by decide), rfl, _, rfl, rfl⟩

/-- One `SWR` for each number and check that its statement names, an N32 write, and the return PC of a level in use and of none. -/
theorem witness_Swr : ∀ p ∈ [(0x000, 5, 0), (0x001, 9, 0), (0x002, 7, 0), (0x003, 7, 0), (0x004, 0x400000003F800000, 0), (0x004, 0, 0),
      (0x005, 7, 0), (0x006, 0, 0), (0x006, 5, 0), (0x009, 64, 0), (0x009, 7, 0), (0x030, 7, 0), (0x011, 64, 1), (0x011, 64, 0), (0x019, 64, 1),
      (0x021, 64, 1), (0x021, 64, 2)],
    clear (.swr ⟨hd, 511, 386, 0x77, 0, 0, BitVec.ofNat 32 p.1⟩) hd
      (lone (.swr ⟨hd, 511, 386, 0x77, 0, 0, BitVec.ofNat 32 p.1⟩) (fun w => { sset [(2, p.2.1)] w with tlevel := p.2.2 }) id) = true := by decide +kernel
theorem witness_SwrN32 : clear (.swr ⟨hd, 511, 386, 0x66, 0, 0, 2⟩) hd (lone (.swr ⟨hd, 511, 386, 0x66, 0, 0, 2⟩) (sset [(2, 7)]) id) = true := by decide
theorem witness_SwrValues : pcBad 64 = false ∧ pcBad 7 = true ∧ 0 % 256 ≤ wave0.prioGrid ∧ wave0.prioGrid < 5 % 256 ∧
    wlrangeOk 0x400000003F800000 = true ∧ wlrangeOk 0 = false := by decide +kernel

theorem witness_SpecialWriteThenRead : ∀ num ∈ [0x001, 0x002, 0x005, 0x006, 0x009],
    ∃ (s t : State) (w v : Wave) (wid : WaveId) (n : Nat), s.wave? wid = some w ∧ w.id = wid ∧ n < 2 ^ 64 ∧
      s.writeSpecial wid num n = some t ∧ t.wave? wid = some v := by
  intro num h
  simp only [List.mem_cons, List.not_mem_nil, or_false] at h
  rcases h with rfl | rfl | rfl | rfl | rfl <;>
    exact ⟨lone (.nop ⟨hd, 511, 511, 511, 511, 0, 0, 0⟩) id id, _, _, _, loneWid, 0, rfl, rfl, by decide, rfl, rfl⟩

/-! ## Memory instructions -/

theorem witness_LoadGlobal : ∃ (f : FmtM) (s : State) (x : Iss) (t : Team) (c : Ctx) (pas : Nat → List (Nat × Nat)), Issues (.ld f) f.h s x ∧
    s.team? x.wid.team = some t ∧
    s.ctx? (asidOf x.wid) = some c ∧
    f.sp = 0 ∧
    f.ds.toNat + 1 ≤ 320 ∧
    ((∀ l ∈ x.lanes, effAddr x l f % 4 = 0 ∧ (x.w.thread l).run ≠ .ended)) ∧
    noneHeld x ∧
    Reaches x s (x.accs (effAddr x · f) 4) .read (fun _ _ => false) pas c ∧
    Readable s (x.accs (effAddr x · f) 4) pas ∧
    (∀ r ∈ s.reqs, r.id ≠ s.nextId) ∧
    s.heldReq s.nextId = false ∧
    s.atChannel (.request s.nextId) = false :=
  ⟨⟨hd, 4, 8, 511, 0, 0, 15, false, 0, 2, 0⟩, lone (.ld ⟨hd, 4, 8, 511, 0, 0, 15, false, 0, 2, 0⟩) (vset [(8, 0x1000)]) (id), _, _, _, fun _ => [(0x1000, 4)], issues_of (by decide), rfl, rfl, by decide, by decide, by decide, noneHeld_of (by decide), reaches_of (by decide +kernel), (by unfold Readable; decide +kernel), by decide, by decide, by decide⟩

theorem witness_LoadScratch : ∃ (f : FmtM) (s : State) (x : Iss) (t : Team), Issues (.ld f) f.h s x ∧
    AtOnce x s f.ds.toNat ∧
    s.team? x.wid.team = some t ∧
    poolCheck x t 1 (x.accs (effAddr x · f) 4) = none ∧
    f.sp = 1 ∧
    ((∀ l ∈ x.lanes, effAddr x l f % 4 = 0 ∧ effAddr x l f + 4 ≤ s.scratchSize x.wid)) :=
  ⟨⟨hd, 4, 8, 511, 0, 0, 15, false, 1, 2, 0⟩, lone (.ld ⟨hd, 4, 8, 511, 0, 0, 15, false, 1, 2, 0⟩) (id) (roomy), _, _, issues_of (by decide), atOnce_of (by decide) (by decide), rfl, by decide, by decide, by decide⟩

theorem witness_LoadTile : ∃ (f : FmtM) (s : State) (x : Iss) (t : Team), Issues (.ld f) f.h s x ∧
    AtOnce x s f.ds.toNat ∧
    s.team? x.wid.team = some t ∧
    poolCheck x t (2 + x.w.bay) (x.accs (effAddr x · f) 4) = none ∧
    f.sp = 2 ∧
    ((∀ l ∈ x.lanes, effAddr x l f % 4 = 0 ∧ effAddr x l f + 4 ≤ s.tiles x.wid * 16384)) ∧
    (∀ l ∈ x.lanes, s.tileBusy x.wid.team x.w.core x.w.bay (effAddr x l f / 16384) (tileBefore s x.w l (effAddr x l f / 16384)) = false) :=
  ⟨⟨hd, 4, 8, 511, 0, 0, 15, false, 2, 2, 0⟩, lone (.ld ⟨hd, 4, 8, 511, 0, 0, 15, false, 2, 2, 0⟩) (id) (roomy), _, _, issues_of (by decide), atOnce_of (by decide) (by decide), rfl, by decide, by decide, by decide, by decide⟩

theorem witness_StoreScratch : ∃ (f : FmtM) (s : State) (x : Iss), Issues (.st f) f.h s x ∧
    f.sp = 1 ∧
    ((∀ l ∈ x.lanes, effAddr x l f % 4 = 0 ∧ effAddr x l f + 4 ≤ s.scratchSize x.wid)) :=
  ⟨⟨hd, 4, 8, 511, 0, 0, 15, false, 1, 2, 0⟩, lone (.st ⟨hd, 4, 8, 511, 0, 0, 15, false, 1, 2, 0⟩) (id) (roomy), _, issues_of (by decide), by decide, by decide⟩

theorem witness_StoreTile : ∃ (f : FmtM) (s : State) (x : Iss), Issues (.st f) f.h s x ∧
    f.sp = 2 ∧
    ((∀ l ∈ x.lanes, effAddr x l f % 4 = 0 ∧ effAddr x l f + 4 ≤ s.tiles x.wid * 16384)) ∧
    (∀ l ∈ x.lanes, s.tileBusy x.wid.team x.w.core x.w.bay (effAddr x l f / 16384) (tileBefore s x.w l (effAddr x l f / 16384)) = false) :=
  ⟨⟨hd, 4, 8, 511, 0, 0, 15, false, 2, 2, 0⟩, lone (.st ⟨hd, 4, 8, 511, 0, 0, 15, false, 2, 2, 0⟩) (id) (roomy), _, issues_of (by decide), by decide, by decide, by decide⟩

theorem witness_StoreGlobal : ∃ (f : FmtM) (s : State) (x : Iss) (c : Ctx) (pas : Nat → List (Nat × Nat)), Issues (.st f) f.h s x ∧
    s.ctx? (asidOf x.wid) = some c ∧
    f.sp = 0 ∧
    s.viewOf x.wid = none ∧
    Memory.wf s.mem = true ∧
    (∀ l ∈ x.lanes, (effAddr x l f) % 4 = 0) ∧
    Reaches x s (x.accs (effAddr x · f) 4) .write (fun c a => c.needsMcst a.va a.n) pas c ∧
    Writable s (x.accs (effAddr x · f) 4) pas ∧
    (∀ l ∈ x.lanes, ∀ k < 4, paOf (pas l) k = some (0x1000 + k)) :=
  ⟨⟨hd, 4, 8, 511, 0, 0, 15, false, 0, 2, 0⟩, lone (.st ⟨hd, 4, 8, 511, 0, 0, 15, false, 0, 2, 0⟩) (vset [(8, 0x1000)]) (id), _, _, fun _ => [(0x1000, 4)], issues_of (by decide), rfl, by decide, by decide, by decide, by decide +kernel, reaches_of (by decide +kernel), (by unfold Writable; decide +kernel), by decide⟩

theorem witness_AtomGlobal : ∃ (f : FmtM) (s : State) (x : Iss) (c : Ctx) (pas : Nat → List (Nat × Nat)), Issues (.atom f) f.h s x ∧
    AtOnce x s f.ds.toNat ∧
    s.ctx? (asidOf x.wid) = some c ∧
    f.sp ≠ 1 ∧
    noneHeld x ∧
    (∀ l ∈ x.lanes, (baseAddr x l f false) % 4 = 0) ∧
    Reaches x s (x.accs (baseAddr x · f false) 4) .write (fun c a => c.needsMcst a.va a.n) pas c ∧
    Readable s (x.accs (baseAddr x · f false) 4) pas ∧
    s.levelOf x.wid.team.grid = 0 :=
  ⟨⟨hd, 4, 8, 511, 0, 1, 0, false, 0, 2, 1⟩, lone (.atom ⟨hd, 4, 8, 511, 0, 1, 0, false, 0, 2, 1⟩) (vset [(8, 0x1000)]) (id), _, _, fun _ => [(0x1000, 4)], issues_of (by decide), atOnce_of (by decide) (by decide), rfl, by decide, noneHeld_of (by decide), by decide +kernel, reaches_of (by decide +kernel), (by unfold Readable; decide +kernel), by decide⟩

theorem witness_AtomScratch : ∃ (f : FmtM) (s : State) (x : Iss) (t : Team), Issues (.atom f) f.h s x ∧
    AtOnce x s f.ds.toNat ∧
    s.team? x.wid.team = some t ∧
    poolCheck x t 1 (x.accs (baseAddr x · f false) 4) = none ∧
    f.sp = 1 ∧
    s.levelOf x.wid.team.grid = 0 ∧
    ((∀ l ∈ x.lanes, (baseAddr x l f false) % 4 = 0 ∧ (baseAddr x l f false) + 4 ≤ s.scratchSize x.wid)) :=
  ⟨⟨hd, 4, 8, 511, 0, 1, 0, false, 1, 2, 1⟩, lone (.atom ⟨hd, 4, 8, 511, 0, 1, 0, false, 1, 2, 1⟩) (id) (roomy), _, _, issues_of (by decide), atOnce_of (by decide) (by decide), rfl, by decide, by decide, by decide, by decide⟩

theorem witness_CasGlobal : ∃ (f : FmtM) (s : State) (x : Iss) (c : Ctx) (pas : Nat → List (Nat × Nat)), Issues (.cas f) f.h s x ∧
    AtOnce x s f.ds.toNat ∧
    s.ctx? (asidOf x.wid) = some c ∧
    f.sp ≠ 1 ∧
    noneHeld x ∧
    (∀ l ∈ x.lanes, (baseAddr x l f true) % 4 = 0) ∧
    Reaches x s (x.accs (baseAddr x · f true) 4) .write (fun c a => c.needsMcst a.va a.n) pas c ∧
    Readable s (x.accs (baseAddr x · f true) 4) pas ∧
    s.levelOf x.wid.team.grid = 0 :=
  ⟨⟨hd, 4, 8, 12, 0, 1, 15, false, 0, 2, 0⟩, lone (.cas ⟨hd, 4, 8, 12, 0, 1, 15, false, 0, 2, 0⟩) (vset [(8, 0x1000)]) (id), _, _, fun _ => [(0x1000, 4)], issues_of (by decide), atOnce_of (by decide) (by decide), rfl, by decide, noneHeld_of (by decide), by decide +kernel, reaches_of (by decide +kernel), (by unfold Readable; decide +kernel), by decide⟩

theorem witness_CasScratch : ∃ (f : FmtM) (s : State) (x : Iss) (t : Team), Issues (.cas f) f.h s x ∧
    AtOnce x s f.ds.toNat ∧
    s.team? x.wid.team = some t ∧
    poolCheck x t 1 (x.accs (baseAddr x · f true) 4) = none ∧
    f.sp = 1 ∧
    s.levelOf x.wid.team.grid = 0 ∧
    ((∀ l ∈ x.lanes, (baseAddr x l f true) % 4 = 0 ∧ (baseAddr x l f true) + 4 ≤ s.scratchSize x.wid)) :=
  ⟨⟨hd, 4, 8, 12, 0, 1, 15, false, 1, 2, 0⟩, lone (.cas ⟨hd, 4, 8, 12, 0, 1, 15, false, 1, 2, 0⟩) (id) (roomy), _, _, issues_of (by decide), atOnce_of (by decide) (by decide), rfl, by decide, by decide, by decide, by decide⟩

theorem witness_AtomDeferred : ∃ (f : FmtM) (s : State) (x : Iss) (c : Ctx) (pas : Nat → List (Nat × Nat)), Issues (.atom f) f.h s x ∧
    s.ctx? (asidOf x.wid) = some c ∧
    f.sp ≠ 1 ∧
    f.ds.toNat = 511 ∧
    f.rd.toNat ≤ 6 ∧
    noneHeld x ∧
    (∀ l ∈ x.lanes, (baseAddr x l f false) % 4 = 0) ∧
    Reaches x s (x.accs (baseAddr x · f false) 4) .write (fun c a => c.needsMcst a.va a.n) pas c ∧
    1 ≤ s.levelOf x.wid.team.grid :=
  ⟨⟨hd, 511, 8, 511, 0, 1, 0, false, 0, 2, 1⟩, lone (.atom ⟨hd, 511, 8, 511, 0, 1, 0, false, 0, 2, 1⟩) (vset [(8, 0x1000)]) (gridBy (fun g => { g with level := 1 })), _, _, fun _ => [(0x1000, 4)], issues_of (by decide), rfl, by decide, by decide, by decide, noneHeld_of (by decide), by decide +kernel, reaches_of (by decide +kernel), by decide⟩

theorem witness_Facc : ∃ (f : FmtX) (s : State) (x : Iss) (c : Ctx) (pas : Nat → List (Nat × Nat)) (core : Nat), Issues (.facc f) f.h s x ∧
    s.ctx? (asidOf x.wid) = some c ∧
    s.target x f true true = some core ∧
    ((∀ l ∈ x.lanes, x.rd l f.a 2 % 8 = 0 ∧ x.rd l f.a 2 ≠ 0)) ∧
    noneHeld x ∧
    Reaches x s (x.accs (x.rd · f.a 2) 8) .write (fun c a => c.needsMcst a.va a.n) pas c ∧
    Readable s (x.accs (x.rd · f.a 2) 8) pas ∧
    s.levelOf x.wid.team.grid = 0 :=
  ⟨⟨hd, 511, 8, 32, 511, 0, 0, 0, 0, 0⟩, lone (.facc ⟨hd, 511, 8, 32, 511, 0, 0, 0, 0, 0⟩) (vset [(8, 0x1000)]) (id), _, _, fun _ => [(0x1000, 8)], _, issues_of (by decide), rfl, rfl, by decide, noneHeld_of (by decide), reaches_of (by decide +kernel), (by unfold Readable; decide +kernel), by decide⟩

theorem witness_FaccDeferred : ∃ (f : FmtX) (s : State) (x : Iss) (c : Ctx) (pas : Nat → List (Nat × Nat)) (core : Nat), Issues (.facc f) f.h s x ∧
    s.ctx? (asidOf x.wid) = some c ∧
    s.target x f true true = some core ∧
    ((∀ l ∈ x.lanes, x.rd l f.a 2 % 8 = 0 ∧ x.rd l f.a 2 ≠ 0)) ∧
    noneHeld x ∧
    Reaches x s (x.accs (x.rd · f.a 2) 8) .write (fun c a => c.needsMcst a.va a.n) pas c ∧
    1 ≤ s.levelOf x.wid.team.grid :=
  ⟨⟨hd, 511, 8, 32, 511, 0, 0, 0, 0, 0⟩, lone (.facc ⟨hd, 511, 8, 32, 511, 0, 0, 0, 0, 0⟩) (vset [(8, 0x1000)]) (gridBy (fun g => { g with level := 1 })), _, _, fun _ => [(0x1000, 8)], _, issues_of (by decide), rfl, rfl, by decide, noneHeld_of (by decide), reaches_of (by decide +kernel), by decide⟩

theorem witness_Mcst : ∃ (f : FmtM) (s : State) (x : Iss) (c : Ctx) (pas : Nat → List (Nat × Nat)), Issues (.mcst f) f.h s x ∧
    s.ctx? (asidOf x.wid) = some c ∧
    (∀ l ∈ x.lanes, (effAddr x l f) % 4 = 0) ∧
    Reaches x s (x.accs (effAddr x · f) 4) .write (fun c a => !c.needsMcst a.va a.n) pas c ∧
    Writable s (x.accs (effAddr x · f) 4) pas :=
  ⟨⟨hd, 4, 8, 511, 0, 0, 15, false, 0, 2, 0⟩, lone (.mcst ⟨hd, 4, 8, 511, 0, 0, 15, false, 0, 2, 0⟩) (vset [(8, 0x1000)]) (ctxBy (fun c => c.setEntry 0 0x18c00002001000800000000000000000000000000000000000000000000400000000003000 0x510000000000000000000000000000000000000000000000000100000000000000000000000000000000000000040000000000000000000000001000)), _, _, fun _ => [(0x1000, 4)], issues_of (by decide), rfl, by decide +kernel, reaches_of (by decide +kernel), (by unfold Writable; decide +kernel)⟩

theorem witness_Ctest : ∃ (f : FmtM) (s : State) (x : Iss) (c : Ctx) (pas : Nat → List (Nat × Nat)), Issues (.ctest f) f.h s x ∧
    x.atChannel s = false ∧
    s.ctx? (asidOf x.wid) = some c ∧
    noneHeld x ∧
    ((∀ l ∈ x.lanes, (baseAddr x l f true) ≠ 0 ∧ (baseAddr x l f true) % 8 = 0)) ∧
    Reaches x s (x.accs (baseAddr x · f true) 8) .read (fun _ _ => false) pas c ∧
    Readable s (x.accs (baseAddr x · f true) 8) pas :=
  ⟨⟨hd, 4, 8, 511, 3, 0, 15, false, 0, 3, 0⟩, lone (.ctest ⟨hd, 4, 8, 511, 3, 0, 15, false, 0, 3, 0⟩) (vset [(8, 0x1000)]) (id), _, _, fun _ => [(0x1000, 8)], issues_of (by decide), by decide, rfl, noneHeld_of (by decide), by decide, reaches_of (by decide +kernel), (by unfold Readable; decide +kernel)⟩

theorem witness_CwaitMet : ∃ (f : FmtM) (s : State) (x : Iss) (c : Ctx) (pas : Nat → List (Nat × Nat)), Issues (.cwait f) f.h s x ∧
    x.atChannel s = false ∧
    s.ctx? (asidOf x.wid) = some c ∧
    noneHeld x ∧
    ((∀ l ∈ x.lanes, (baseAddr x l f false) ≠ 0 ∧ (baseAddr x l f false) % 8 = 0)) ∧
    Reaches x s (x.accs (baseAddr x · f false) 8) .read (fun _ _ => false) pas c ∧
    Readable s (x.accs (baseAddr x · f false) 8) pas ∧
    (∀ l ∈ x.lanes, f.off.toNat ≤ ofBytes (s.viewBytes (s.viewOf x.wid) (baseAddr x l f false) (pas l))) :=
  ⟨⟨hd, 4, 8, 511, 3, 0, 15, false, 0, 3, 0⟩, lone (.cwait ⟨hd, 4, 8, 511, 3, 0, 15, false, 0, 3, 0⟩) (vset [(8, 0x1000)]) (id), _, _, fun _ => [(0x1000, 8)], issues_of (by decide), by decide, rfl, noneHeld_of (by decide), by decide, reaches_of (by decide +kernel), (by unfold Readable; decide +kernel), by decide +kernel⟩

theorem witness_CwaitUnmet : ∃ (f : FmtM) (s : State) (x : Iss) (c : Ctx) (pas : Nat → List (Nat × Nat)), Issues (.cwait f) f.h s x ∧
    x.atChannel s = false ∧
    s.ctx? (asidOf x.wid) = some c ∧
    noneHeld x ∧
    ((∀ l ∈ x.lanes, (baseAddr x l f false) ≠ 0 ∧ (baseAddr x l f false) % 8 = 0)) ∧
    Reaches x s (x.accs (baseAddr x · f false) 8) .read (fun _ _ => false) pas c ∧
    Readable s (x.accs (baseAddr x · f false) 8) pas ∧
    x.uni = false ∧
    (∃ l ∈ x.lanes, ofBytes (s.viewBytes (s.viewOf x.wid) (baseAddr x l f false) (pas l)) < f.off.toNat) :=
  ⟨⟨hd, 4, 8, 511, 3, 0, 15, false, 0, 3, 5⟩, lone (.cwait ⟨hd, 4, 8, 511, 3, 0, 15, false, 0, 3, 5⟩) (vset [(8, 0x1000)]) (id), _, _, fun _ => [(0x1000, 8)], issues_of (by decide), by decide, rfl, noneHeld_of (by decide), by decide, reaches_of (by decide +kernel), (by unfold Readable; decide +kernel), by decide, by decide +kernel⟩

/-! ## Units of the core and the package -/

/-- An offer of an instruction by the lone wave, and the state in which it waits. -/
def offer (i : Instr) (core : Nat) : Waiting :=
  { id := 0, wave := loneWid, lanes := 1, pc := 0, instr := i, core := core, nums := [], since := 0, slots := [], spots := [], pas := [],
    freed := false }
def offers (i : Instr) (core : Nat) (s : State) : State :=
  { s with waiting := [offer i core], waves := s.waves.map (fun w => { w with hold := some { lanes := 1, pc := 0, work := some 0, on := none } }) }

/-- The group that made an offer, and what `Resumes` asks, as a check. -/
def resAt (h : Hdr) (s : State) (r : Waiting) : Iss :=
  let w := (s.wave? r.wave).getD wave0
  let act := (lanesOf r.lanes).filter (guardTrue h w)
  { wid := r.wave, w := w, group := lanesOf r.lanes, pc := r.pc, act := act, uni := isUniform r.instr,
    lanes := if isUniform r.instr then act.take 1 else act }
theorem resumes_of {i : Instr} {h : Hdr} {s : State} {r : Waiting} (hi : r.instr = i) (hw : (s.wave? r.wave).isSome = true)
    (hh : (resAt h s r).w.hold.any (fun k => k.work == some r.id) = true) (hq : s.waitsAtIssue r = true ∧ s.stores = []) :
    Resumes i h s r (resAt h s r) := by
  obtain ⟨w, e⟩ := Option.isSome_iff_exists.mp hw
  subst hi
  refine ⟨rfl, by simp [resAt, e], rfl, rfl, rfl, rfl, rfl, rfl, ?_, hq.1, hq.2⟩
  cases e1 : (resAt h s r).w.hold with
  | none => simp [e1] at hh
  | some k => exact ⟨k, rfl, by simpa [e1] using hh⟩

/-- An expert set of one expert. -/
def oneExpert : ExpertSet :=
  { nexp := 1, t := 4, a := 100, kslots := 1, nseq := 1, npos := 1, h := 1, cbuf := 0, ccomp := 0, spill := 0, spsize := 0, recs := [loneRec],
    sidings := [], marks := [], comps := [], firings := 0, fired := [] }
def expertly (s : State) : State := ctxBy (fun c => { c with experts := some oneExpert }) s
def bare (s : State) : State := { s with waves := s.waves.map (fun w => { w with hold := none }) }

theorem witness_Xenq : ∃ (f : FmtR) (s : State) (x : Iss) (c : Ctx) (t : Team) (e : ExpertSet) (e' : ExpertSet), Issues (.xenq f) f.h s x ∧
    s.ctx? (asidOf x.wid) = some c ∧
    alone x s t ∧
    c.experts = some e ∧
    ((∀ p ∈ (x.lanes.map (fun l => (x.rd l f.a 1 % 2 ^ 32, tokenOf x f l))), p.1 < e.nexp ∧ e.tokenBad p.2 = false)) ∧
    (e.enqueue (s.sidingEvents + 1) (x.lanes.map (fun l => (x.rd l f.a 1 % 2 ^ 32, tokenOf x f l))) = .ok e' ∧ s.spillBad e' (s.sidingEvents + 1) = none) ∧
    x.w.hold = none :=
  ⟨⟨hd, 511, 8, 12, 511, 0, 0, 0⟩, lone (.xenq ⟨hd, 511, 8, 12, 511, 0, 0, 0⟩) (id) (expertly), _, _, _, _, _, issues_of (by decide), rfl, ⟨rfl, rfl⟩, rfl, by decide, ⟨rfl, rfl⟩, by decide⟩

theorem witness_XenqHeld : ∃ (f : FmtR) (s : State) (x : Iss) (c : Ctx) (t : Team) (e : ExpertSet) (e' : ExpertSet) (q : Hold), Issues (.xenq f) f.h s x ∧
    s.ctx? (asidOf x.wid) = some c ∧
    alone x s t ∧
    c.experts = some e ∧
    ((∀ p ∈ (x.lanes.map (fun l => (x.rd l f.a 1 % 2 ^ 32, tokenOf x f l))), p.1 < e.nexp ∧ e.tokenBad p.2 = false)) ∧
    (e.enqueue (s.sidingEvents + 1) (x.lanes.map (fun l => (x.rd l f.a 1 % 2 ^ 32, tokenOf x f l))) = .ok e' ∧ s.spillBad e' (s.sidingEvents + 1) = none) ∧
    x.w.hold = some q :=
  ⟨⟨hd, 511, 8, 12, 511, 0, 0, 0⟩, lone (.xenq ⟨hd, 511, 8, 12, 511, 0, 0, 0⟩) (id) ((fun s => expertly (offers (.xenq ⟨hd, 511, 8, 12, 511, 0, 0, 0⟩) 0 s))), _, _, _, _, _, _, issues_of (by decide), rfl, ⟨rfl, rfl⟩, rfl, by decide, ⟨rfl, rfl⟩, rfl⟩

theorem witness_XenqTaken : ∃ (f : FmtR) (s : State) (r : Waiting) (x : Iss) (c : Ctx) (t : Team) (e : ExpertSet) (e' : ExpertSet), Resumes (.xenq f) f.h s r x ∧
    s.ctx? (asidOf x.wid) = some c ∧
    c.experts = some e ∧
    ((∀ p ∈ (x.lanes.map (fun l => (x.rd l f.a 1 % 2 ^ 32, tokenOf x f l))), p.1 < e.nexp ∧ e.tokenBad p.2 = false)) ∧
    (e.enqueue (s.sidingEvents + 1) (x.lanes.map (fun l => (x.rd l f.a 1 % 2 ^ 32, tokenOf x f l))) = .ok e' ∧ s.spillBad e' (s.sidingEvents + 1) = none) ∧
    alone x s t ∧
    s.waiting.find? (fun q => q.id == r.id && s.waitsAtIssue q) = some r :=
  ⟨⟨hd, 511, 8, 12, 511, 0, 0, 0⟩, lone (.xenq ⟨hd, 511, 8, 12, 511, 0, 0, 0⟩) (id) (fun s => expertly (offers (.xenq ⟨hd, 511, 8, 12, 511, 0, 0, 0⟩) 0 s)), offer (.xenq ⟨hd, 511, 8, 12, 511, 0, 0, 0⟩) 0, _, _, _, _, _, resumes_of rfl (by decide) (by decide) (by decide), rfl, rfl, by decide, ⟨rfl, rfl⟩, ⟨rfl, rfl⟩, rfl⟩

theorem witness_Xdeq : ∃ (f : FmtR) (s : State) (x : Iss) (t : Team) (g : Grid), Issues (.xdeq f) f.h s x ∧
    alone x s t ∧
    x.w.tlevel = 0 ∧
    s.grid? x.wid.team.grid = some g ∧
    (∃ n m b, ∃ ws : List Nat, g.origin = .firing n m b ∧ s.batchRecords g.id.asid m t.batch = ws.map Except.ok) ∧
    x.rd x.first f.a 2 % 16 = 0 ∧
    x.rd x.first f.a 2 + 16 * t.batch.length ≤ s.scratchSize x.wid :=
  ⟨⟨hd, 384, 386, 511, 511, 0, 0, 0⟩, lone (.xdeq ⟨hd, 384, 386, 511, 511, 0, 0, 0⟩) (id) (fun s => gridBy (fun g => { g with origin := .firing 0 1 [] }) (roomy s)), _, _, _, issues_of (by decide), ⟨rfl, rfl⟩, by decide, rfl, ⟨_, _, _, [], rfl, rfl⟩, by decide, by decide⟩

theorem witness_XstatQuery : ∃ (f : FmtR) (s : State) (x : Iss) (c : Ctx) (t : Team) (e : ExpertSet), Issues (.xstatQuery f) f.h s x ∧
    s.ctx? (asidOf x.wid) = some c ∧
    alone x s t ∧
    c.experts = some e ∧
    x.rd x.first f.a 2 % 2 ^ 32 < e.nexp :=
  ⟨⟨hd, 384, 386, 511, 511, 0, 0, 0⟩, lone (.xstatQuery ⟨hd, 384, 386, 511, 511, 0, 0, 0⟩) (id) (expertly), _, _, _, _, issues_of (by decide), rfl, ⟨rfl, rfl⟩, rfl, by decide⟩

theorem witness_XstatFlush : ∃ (f : FmtR) (s : State) (x : Iss) (c : Ctx) (t : Team) (e : ExpertSet), Issues (.xstatFlush f) f.h s x ∧
    s.ctx? (asidOf x.wid) = some c ∧
    alone x s t ∧
    c.experts = some e ∧
    x.rd x.first f.a 2 % 2 ^ 32 < e.nexp :=
  ⟨⟨hd, 511, 386, 511, 511, 0, 0, 1⟩, lone (.xstatFlush ⟨hd, 511, 386, 511, 511, 0, 0, 1⟩) (id) (expertly), _, _, _, _, issues_of (by decide), rfl, ⟨rfl, rfl⟩, rfl, by decide⟩

theorem witness_XstatReset : ∃ (f : FmtR) (s : State) (x : Iss) (c : Ctx) (t : Team) (e : ExpertSet), Issues (.xstatReset f) f.h s x ∧
    s.ctx? (asidOf x.wid) = some c ∧
    alone x s t ∧
    c.experts = some e ∧
    x.rd x.first f.a 2 % 2 ^ 32 < e.nexp :=
  ⟨⟨hd, 511, 386, 511, 511, 0, 0, 2⟩, lone (.xstatReset ⟨hd, 511, 386, 511, 511, 0, 0, 2⟩) (id) (expertly), _, _, _, _, issues_of (by decide), rfl, ⟨rfl, rfl⟩, rfl, by decide⟩

/-- What a uniform load gives, as a check. -/
theorem loads_of {x : Iss} {s : State} {a n v : Nat} (h : (match s.uload x a n with | .ok u => u == v | _ => false) = true) :
    s.uload x a n = .ok v := by
  split at h
  · simp_all
  · cases h

/-- What `TransferReady` asks, as a check, and a state with the two descriptors of a transfer. -/
def transferB (f : FmtX) (op : Nat) (x : Iss) (s : State) (core d e : Nat) : Bool :=
  (x.uniformFaults [(f.a, 2), (f.b, 2)]).isNone && s.target x f true false == some core &&
  (decide (x.uval f.a 2 ≠ 0 ∧ x.uval f.a 2 % 64 = 0)) && (match s.uload x (x.uval f.a 2) 64 with | .ok v => v == d | _ => false) &&
  (decide (x.uval f.b 2 ≠ 0 ∧ x.uval f.b 2 % 64 = 0)) && (match s.uload x (x.uval f.b 2) 64 with | .ok v => v == e | _ => false) &&
  (decide (x.uval f.d 2 ≠ 0 ∧ x.uval f.d 2 % 8 = 0)) && (transferFault op (BitVec.ofNat 512 d) (BitVec.ofNat 512 e) (x.uval f.a 2) (x.uval f.b 2)
    (if f.c.toNat = 511 then 0 else BitVec.ofNat 64 (x.uval f.c 2))).isNone
theorem transfer_of {f : FmtX} {op : Nat} {x : Iss} {s : State} {core d e : Nat} (h : transferB f op x s core d e = true) :
    TransferReady f op x s core d e := by
  simp only [transferB, Bool.and_eq_true, decide_eq_true_eq, Option.isNone_iff_eq_none, beq_iff_eq] at h
  obtain ⟨⟨⟨⟨⟨⟨⟨h1, h2⟩, h3⟩, h4⟩, h5⟩, h6⟩, h7⟩, h8⟩ := h
  refine ⟨h1, h2, ⟨h3.1, h3.2, ?_⟩, ⟨h5.1, h5.2, ?_⟩, h7, h8⟩
  · split at h4
    · simp_all
    · cases h4
  · split at h6
    · simp_all
    · cases h6

/-- Descriptors of four F32 elements at 0x2000 and 0x2100, the second with indices at 0x2200 where asked. -/
def tensA : Nat := 0x510000000000000000000000000000000000000000000000000100000000000000000000000000000000000000040000000000000000000000002000
def tensB : Nat := 0x510000000000000000000000000000000000000000000000000100000000000000000000000000000000000000040000000000000000000000002100
def tensIxA : Nat := 0x510000000000000000000000000000000000000000000000000100000000000000000000000000000000000000040000000000220000000000002000
def tensIxB : Nat := 0x510000000000000000000000000000000000000000000000000100000000000000000000000000000000000000040000000000220000000000002100
def descs (d e : Nat) (s : State) : State := poke 0x1040 64 e (poke 0x1000 64 d s)
def handles (w : Wave) : Wave := sset [(0, 0x3000)] (vset [(8, 0x1000), (32, 0x1040)] w)

theorem witness_Copy : ∃ (f : FmtX) (s : State) (x : Iss) (core : Nat) (d : Nat) (e : Nat), Issues (.copy f) f.h s x ∧
    TransferReady f 0 x s core d e ∧
    x.w.hold = none :=
  ⟨⟨hd, 384, 8, 32, 511, 0, 0, 0, 0, 0⟩, lone (.copy ⟨hd, 384, 8, 32, 511, 0, 0, 0, 0, 0⟩) (handles) (descs tensA tensB), _, 0, tensA, tensB, issues_of (by decide), transfer_of (by decide +kernel), by decide⟩

theorem witness_CopyTaken : ∃ (f : FmtX) (s : State) (r : Waiting) (x : Iss) (core : Nat) (d : Nat) (e : Nat), Resumes (.copy f) f.h s r x ∧
    TransferReady f 0 x s core d e ∧
    s.waiting.find? (fun q => q.core == core && isTransfer q.instr && s.waitsAtIssue q) = some r :=
  ⟨⟨hd, 384, 8, 32, 511, 0, 0, 0, 0, 0⟩, lone (.copy ⟨hd, 384, 8, 32, 511, 0, 0, 0, 0, 0⟩) (handles) (fun s => descs tensA tensB (offers (.copy ⟨hd, 384, 8, 32, 511, 0, 0, 0, 0, 0⟩) 0 s)), offer (.copy ⟨hd, 384, 8, 32, 511, 0, 0, 0, 0, 0⟩) 0, _, 0, tensA, tensB, resumes_of rfl (by decide) (by decide) (by decide), transfer_of (by decide +kernel), rfl⟩

theorem witness_Gath : ∃ (f : FmtX) (s : State) (x : Iss) (core : Nat) (d : Nat) (e : Nat), Issues (.gath f) f.h s x ∧
    TransferReady f 1 x s core d e ∧
    x.w.hold = none :=
  ⟨⟨hd, 384, 8, 32, 511, 0, 0, 0, 0, 0⟩, lone (.gath ⟨hd, 384, 8, 32, 511, 0, 0, 0, 0, 0⟩) (handles) (descs tensA tensIxB), _, 0, tensA, tensIxB, issues_of (by decide), transfer_of (by decide +kernel), by decide⟩

theorem witness_GathTaken : ∃ (f : FmtX) (s : State) (r : Waiting) (x : Iss) (core : Nat) (d : Nat) (e : Nat), Resumes (.gath f) f.h s r x ∧
    TransferReady f 1 x s core d e ∧
    s.waiting.find? (fun q => q.core == core && isTransfer q.instr && s.waitsAtIssue q) = some r :=
  ⟨⟨hd, 384, 8, 32, 511, 0, 0, 0, 0, 0⟩, lone (.gath ⟨hd, 384, 8, 32, 511, 0, 0, 0, 0, 0⟩) (handles) (fun s => descs tensA tensIxB (offers (.gath ⟨hd, 384, 8, 32, 511, 0, 0, 0, 0, 0⟩) 0 s)), offer (.gath ⟨hd, 384, 8, 32, 511, 0, 0, 0, 0, 0⟩) 0, _, 0, tensA, tensIxB, resumes_of rfl (by decide) (by decide) (by decide), transfer_of (by decide +kernel), rfl⟩

theorem witness_Scat : ∃ (f : FmtX) (s : State) (x : Iss) (core : Nat) (d : Nat) (e : Nat), Issues (.scat f) f.h s x ∧
    TransferReady f 2 x s core d e ∧
    x.w.hold = none :=
  ⟨⟨hd, 384, 8, 32, 511, 0, 0, 0, 0, 0⟩, lone (.scat ⟨hd, 384, 8, 32, 511, 0, 0, 0, 0, 0⟩) (handles) (descs tensIxA tensB), _, 0, tensIxA, tensB, issues_of (by decide), transfer_of (by decide +kernel), by decide⟩

theorem witness_ScatTaken : ∃ (f : FmtX) (s : State) (r : Waiting) (x : Iss) (core : Nat) (d : Nat) (e : Nat), Resumes (.scat f) f.h s r x ∧
    TransferReady f 2 x s core d e ∧
    s.waiting.find? (fun q => q.core == core && isTransfer q.instr && s.waitsAtIssue q) = some r :=
  ⟨⟨hd, 384, 8, 32, 511, 0, 0, 0, 0, 0⟩, lone (.scat ⟨hd, 384, 8, 32, 511, 0, 0, 0, 0, 0⟩) (handles) (fun s => descs tensIxA tensB (offers (.scat ⟨hd, 384, 8, 32, 511, 0, 0, 0, 0, 0⟩) 0 s)), offer (.scat ⟨hd, 384, 8, 32, 511, 0, 0, 0, 0, 0⟩) 0, _, 0, tensIxA, tensB, resumes_of rfl (by decide) (by decide) (by decide), transfer_of (by decide +kernel), rfl⟩

theorem witness_ScatAdd : ∃ (f : FmtX) (s : State) (x : Iss) (core : Nat) (d : Nat) (e : Nat), Issues (.scatAdd f) f.h s x ∧
    TransferReady f 3 x s core d e ∧
    x.w.hold = none :=
  ⟨⟨hd, 384, 8, 32, 511, 0, 0, 0, 0, 2⟩, lone (.scatAdd ⟨hd, 384, 8, 32, 511, 0, 0, 0, 0, 2⟩) (handles) (descs tensIxA tensB), _, 0, tensIxA, tensB, issues_of (by decide), transfer_of (by decide +kernel), by decide⟩

theorem witness_ScatAddTaken : ∃ (f : FmtX) (s : State) (r : Waiting) (x : Iss) (core : Nat) (d : Nat) (e : Nat), Resumes (.scatAdd f) f.h s r x ∧
    TransferReady f 3 x s core d e ∧
    s.waiting.find? (fun q => q.core == core && isTransfer q.instr && s.waitsAtIssue q) = some r :=
  ⟨⟨hd, 384, 8, 32, 511, 0, 0, 0, 0, 2⟩, lone (.scatAdd ⟨hd, 384, 8, 32, 511, 0, 0, 0, 0, 2⟩) (handles) (fun s => descs tensIxA tensB (offers (.scatAdd ⟨hd, 384, 8, 32, 511, 0, 0, 0, 0, 2⟩) 0 s)), offer (.scatAdd ⟨hd, 384, 8, 32, 511, 0, 0, 0, 0, 2⟩) 0, _, 0, tensIxA, tensB, resumes_of rfl (by decide) (by decide) (by decide), transfer_of (by decide +kernel), rfl⟩

/-- The block of a collective of one member, whose descriptors stand at 0x1000 and 0x1040. -/
def oneBlock : Nat := 0x200000100000000000010000000000000001040

theorem witness_Coll : ∃ (f : FmtX) (s : State) (x : Iss) (t : Team) (c : Ctx) (core : Nat) (w : Nat) (d : Nat) (e : Nat), Issues (.coll f) f.h s x ∧
    s.ctx? (asidOf x.wid) = some c ∧
    s.target x f true false = some core ∧
    alone x s t ∧
    x.uniformFaults [(f.a, 2), (f.b, 2)] = none ∧
    (x.uval f.a 2 ≠ 0 ∧ x.uval f.a 2 % 32 = 0 ∧ x.uval f.b 2 ≠ 0 ∧ x.uval f.b 2 % 8 = 0) ∧
    s.uload x (x.uval f.a 2) 32 = .ok w ∧
    cblockBad c w = false ∧
    ((cblockOf w).src ≠ 0 ∧ (cblockOf w).dst ≠ 0) ∧
    s.uload x (cblockOf w).dst 64 = .ok d ∧
    s.uload x (cblockOf w).src 64 = .ok e ∧
    collFault c (x.uval f.a 2) (cblockOf w) (BitVec.ofNat 512 d) (BitVec.ofNat 512 e) = none :=
  ⟨⟨hd, 511, 8, 32, 511, 0, 0, 0, 0, 0⟩, lone (.coll ⟨hd, 511, 8, 32, 511, 0, 0, 0, 0, 0⟩) (vset [(8, 0x1080), (32, 0x3000)]) (fun s => poke 0x1080 32 oneBlock (descs tensA tensB s)), _, _, _, _, oneBlock, tensA, tensB, issues_of (by decide), rfl, rfl, ⟨rfl, rfl⟩, by decide, by decide, loads_of (by decide +kernel), by decide +kernel, by decide +kernel, loads_of (by decide +kernel), loads_of (by decide +kernel), by decide +kernel⟩

theorem witness_Csig : ∃ (f : FmtX) (s : State) (x : Iss) (t : Team) (c : Ctx) (core : Nat), Issues (.csig f) f.h s x ∧
    s.ctx? (asidOf x.wid) = some c ∧
    s.target x f true false = some core ∧
    alone x s t ∧
    (x.uval f.d 2 ≠ 0 ∧ x.uval f.d 2 % 8 = 0) :=
  ⟨⟨hd, 384, 386, 511, 511, 0, 0, 0, 0, 0⟩, lone (.csig ⟨hd, 384, 386, 511, 511, 0, 0, 0, 0, 0⟩) (sset [(0, 0x3000)]) (id), _, _, _, _, issues_of (by decide), rfl, rfl, ⟨rfl, rfl⟩, by decide⟩

theorem witness_CsigNode : ∃ (f : FmtX) (s : State) (x : Iss) (t : Team) (c : Ctx) (core : Nat), Issues (.csigNode f) f.h s x ∧
    s.ctx? (asidOf x.wid) = some c ∧
    s.target x f true false = some core ∧
    alone x s t :=
  ⟨⟨hd, 511, 511, 511, 511, 1, 0, 0, 0, 0⟩, lone (.csigNode ⟨hd, 511, 511, 511, 511, 1, 0, 0, 0, 0⟩) (id) (id), _, _, _, _, issues_of (by decide), rfl, rfl, ⟨rfl, rfl⟩⟩

theorem witness_Node : ∃ (f : FmtX) (s : State) (x : Iss) (t : Team) (c : Ctx) (core : Nat) (w : Nat), Issues (.node f) f.h s x ∧
    s.ctx? (asidOf x.wid) = some c ∧
    s.target x f true false = some core ∧
    alone x s t ∧
    x.uniformFault f.a 2 = none ∧
    (x.uval f.a 2 ≠ 0 ∧ x.uval f.a 2 % 64 = 0) ∧
    s.uload x (x.uval f.a 2) 64 = .ok w ∧
    (s.enterNode core f.imm8.toNat (asidOf x.wid) (BitVec.ofNat 512 w)).isSome = true :=
  ⟨⟨hd, 511, 8, 511, 511, 0, 0, 0, 0, 0⟩, lone (.node ⟨hd, 511, 8, 511, 511, 0, 0, 0, 0, 0⟩) (vset [(8, 0x1000)]) (poke 0x1000 64 (4 * 2 ^ 272)), _, _, _, _, 4 * 2 ^ 272, issues_of (by decide), rfl, rfl, ⟨rfl, rfl⟩, by decide, by decide, loads_of (by decide +kernel), by decide +kernel⟩

/-- A placement entry of a shard whose descriptor stands at 0x1040, on one rank along no axis. -/
def onePlace : Nat := 0x18c60002001000800000000000000000000000000000000000000000000400000000001040

theorem witness_PlaceSet : ∃ (f : FmtX) (s : State) (x : Iss) (c : Ctx) (core : Nat) (w : Nat) (d : Nat), Issues (.placeSet f) f.h s x ∧
    s.ctx? (asidOf x.wid) = some c ∧
    s.target x f true false = some core ∧
    x.uval f.a 1 % 2 ^ 32 < 4096 ∧
    x.uniformFaults [(f.a, 1), (f.b, 2)] = none ∧
    (x.uval f.b 2 ≠ 0 ∧ x.uval f.b 2 % 64 = 0) ∧
    s.uload x (x.uval f.b 2) 64 = .ok w ∧
    ((pentryOf (BitVec.ofNat 512 w)).shard ≠ 0 ∧ (pentryOf (BitVec.ofNat 512 w)).shard % 64 = 0) ∧
    (pentryOf (c.entry (x.uval f.a 1 % 2 ^ 32))).conv = false ∧
    imageRefused c (BitVec.ofNat 512 w) = false ∧
    s.uload x (pentryOf (BitVec.ofNat 512 w)).shard 64 = .ok d ∧
    shardRefused c (x.uval f.a 1 % 2 ^ 32) (BitVec.ofNat 512 w) (BitVec.ofNat 512 d) = false ∧
    (tensorOf (BitVec.ofNat 512 d).toNat).base ≠ 0 :=
  ⟨⟨hd, 511, 8, 32, 511, 0, 0, 0, 0, 0⟩, lone (.placeSet ⟨hd, 511, 8, 32, 511, 0, 0, 0, 0, 0⟩) (vset [(32, 0x1000)]) (descs onePlace tensA), _, _, _, onePlace, tensA, issues_of (by decide), rfl, rfl, by decide, by decide, by decide, loads_of (by decide +kernel), by decide +kernel, by decide +kernel, by decide +kernel, loads_of (by decide +kernel), by decide +kernel, by decide +kernel⟩

theorem witness_PlaceGet : ∃ (f : FmtX) (s : State) (x : Iss) (c : Ctx) (core : Nat) (pas : Nat → List (Nat × Nat)), Issues (.placeGet f) f.h s x ∧
    x.seen x.first = [] ∧
    s.ctx? (asidOf x.wid) = some c ∧
    s.target x f true false = some core ∧
    x.uval f.a 1 % 2 ^ 32 < 4096 ∧
    x.uniformFaults [(f.a, 1), (f.b, 2)] = none ∧
    (x.uval f.b 2 ≠ 0 ∧ x.uval f.b 2 % 64 = 0) ∧
    Reaches x s ([{ lane := x.first, va := x.uval f.b 2, n := 64 }] : List LaneAcc) .write (fun c a => c.needsMcst a.va a.n) pas c ∧
    Writable s ([{ lane := x.first, va := x.uval f.b 2, n := 64 }] : List LaneAcc) pas :=
  ⟨⟨hd, 511, 8, 32, 511, 1, 0, 0, 0, 0⟩, lone (.placeGet ⟨hd, 511, 8, 32, 511, 1, 0, 0, 0, 0⟩) (vset [(32, 0x1000)]) (id), _, _, _, fun _ => [(0x1000, 64)], issues_of (by decide), rfl, rfl, rfl, by decide, by decide, by decide, reaches_of (by decide +kernel), (by unfold Writable; decide +kernel)⟩

theorem witness_PldConvAtOnce : ∃ (f : FmtX) (s : State) (x : Iss) (c : Ctx) (core : Nat) (d : Nat), Issues (.pldConv f) f.h s x ∧
    s.ctx? (asidOf x.wid) = some c ∧
    s.target x f true false = some core ∧
    (x.uval f.a 1 % 2 ^ 32) < 4096 ∧
    x.uniformFaults [(f.a, 1), (f.b, 2)] = none ∧
    (x.uval f.b 2 ≠ 0 ∧ x.uval f.b 2 % 64 = 0) ∧
    x.uval f.c 2 / 2 ^ 15 = 0 ∧
    (∀ k ∈ (demandStates (x.uval f.c 2)), stateOk k = true) ∧
    (∀ k < 3, (demandStates (x.uval f.c 2)).getD k 0 = 24 → (pentryOf (c.entry (x.uval f.a 1 % 2 ^ 32))).st.getD k 0 = 24) ∧
    (x.uval f.d 2 ≠ 0 ∧ x.uval f.d 2 % 8 = 0) ∧
    s.uload x (x.uval f.b 2) 64 = .ok d ∧
    tensorBad (BitVec.ofNat 512 d).toNat = false ∧
    (∃ sd, c.shards.find? (fun p => p.1 == x.uval f.a 1 % 2 ^ 32) = some sd ∧ (tensorOf (BitVec.ofNat 512 d).toNat).rank = (tensorOf sd.2.toNat).rank ∧
      (tensorOf (BitVec.ofNat 512 d).toNat).fmt = (tensorOf sd.2.toNat).fmt) ∧
    ((pentryOf (c.entry (x.uval f.a 1 % 2 ^ 32))).withStates (demandStates (x.uval f.c 2))).agrees (tensorOf (BitVec.ofNat 512 d).toNat) = true ∧
    (tensorOf (BitVec.ofNat 512 d).toNat).base ≠ 0 ∧
    (demandStates (x.uval f.c 2)) = (pentryOf (c.entry (x.uval f.a 1 % 2 ^ 32))).st ∧
    (∃ s', s.increment c.asid (.wave x.wid) (pldWork c.asid 0) (s.viewOf x.wid) (x.uval f.d 2) 1 = .made s') :=
  ⟨⟨hd, 386, 8, 32, 390, 0, 0, 0, 0, 0⟩, lone (.pldConv ⟨hd, 386, 8, 32, 390, 0, 0, 0, 0, 0⟩) (fun w => sset [(2, 0x3000), (6, 25368)] (vset [(32, 0x1000)] w)) (fun s => ctxBy (fun c => c.setEntry 0 onePlace tensA)  (descs tensB tensA s)), _, _, _, tensB, issues_of (by decide), rfl, rfl, by decide, by decide, by decide, by decide, by decide, by decide +kernel, by decide, loads_of (by decide +kernel), by decide +kernel, ⟨_, rfl, by decide +kernel, by decide +kernel⟩, by decide +kernel, by decide +kernel, by decide +kernel, made_of (by decide +kernel)⟩

theorem witness_PldConvDemand : ∃ (f : FmtX) (s : State) (x : Iss) (c : Ctx) (core : Nat) (d : Nat), Issues (.pldConv f) f.h s x ∧
    s.ctx? (asidOf x.wid) = some c ∧
    s.target x f true false = some core ∧
    (x.uval f.a 1 % 2 ^ 32) < 4096 ∧
    x.uniformFaults [(f.a, 1), (f.b, 2)] = none ∧
    (x.uval f.b 2 ≠ 0 ∧ x.uval f.b 2 % 64 = 0) ∧
    x.uval f.c 2 / 2 ^ 15 = 0 ∧
    (∀ k ∈ (demandStates (x.uval f.c 2)), stateOk k = true) ∧
    (∀ k < 3, (demandStates (x.uval f.c 2)).getD k 0 = 24 → (pentryOf (c.entry (x.uval f.a 1 % 2 ^ 32))).st.getD k 0 = 24) ∧
    (x.uval f.d 2 ≠ 0 ∧ x.uval f.d 2 % 8 = 0) ∧
    s.uload x (x.uval f.b 2) 64 = .ok d ∧
    tensorBad (BitVec.ofNat 512 d).toNat = false ∧
    (∃ sd, c.shards.find? (fun p => p.1 == x.uval f.a 1 % 2 ^ 32) = some sd ∧ (tensorOf (BitVec.ofNat 512 d).toNat).rank = (tensorOf sd.2.toNat).rank ∧
      (tensorOf (BitVec.ofNat 512 d).toNat).fmt = (tensorOf sd.2.toNat).fmt) ∧
    ((pentryOf (c.entry (x.uval f.a 1 % 2 ^ 32))).withStates (demandStates (x.uval f.c 2))).agrees (tensorOf (BitVec.ofNat 512 d).toNat) = true ∧
    (tensorOf (BitVec.ofNat 512 d).toNat).base ≠ 0 ∧
    (demandStates (x.uval f.c 2)) ≠ (pentryOf (c.entry (x.uval f.a 1 % 2 ^ 32))).st :=
  ⟨⟨hd, 386, 8, 32, 390, 0, 0, 0, 0, 0⟩, lone (.pldConv ⟨hd, 386, 8, 32, 390, 0, 0, 0, 0, 0⟩) (fun w => sset [(2, 0x3000), (6, 25344)] (vset [(32, 0x1000)] w)) (fun s => ctxBy (fun c => c.setEntry 0 onePlace tensA)  (descs tensB tensA s)), _, _, _, tensB, issues_of (by decide), rfl, rfl, by decide, by decide, by decide, by decide, by decide, by decide +kernel, by decide, loads_of (by decide +kernel), by decide +kernel, ⟨_, rfl, by decide +kernel, by decide +kernel⟩, by decide +kernel, by decide +kernel, by decide +kernel⟩

theorem witness_PldRed : ∃ (f : FmtX) (s : State) (x : Iss) (c : Ctx) (core : Nat) (pas : Nat → List (Nat × Nat)) (old : Tensor), Issues (.pldRed f) f.h s x ∧
    s.ctx? (asidOf x.wid) = some c ∧
    s.target x f true false = some core ∧
    x.uniformFault f.a 1 = none ∧
    c.shards.find? (fun p => p.1 == x.uval f.a 1 % 2 ^ 32) = some (0, BitVec.ofNat 512 tensA) ∧
    old.fmt ∈ [10, 2, 6] ∧
    (∀ l ∈ x.lanes, x.rd l f.b 2 % 4 = 0) ∧
    Reaches x s (x.accs (x.rd · f.b 2) 4) .read (fun _ a => (old.elementAt a.va).isNone) pas c ∧
    Readable s (x.accs (x.rd · f.b 2) 4) pas ∧
    (∀ k < 3, isP ((pentryOf (c.entry (x.uval f.a 1 % 2 ^ 32))).st.getD k 0) = false) ∧
    (∀ r ∈ (pentryOf (c.entry (x.uval f.a 1 % 2 ^ 32))).partners (field c.drank 11 0), s.reaches c r = true) :=
  ⟨⟨hd, 4, 8, 32, 511, 1, 0, 0, 0, 0⟩, lone (.pldRed ⟨hd, 4, 8, 32, 511, 1, 0, 0, 0, 0⟩) (vset [(32, 0x2000)]) (ctxBy (fun c => c.setEntry 0 onePlace tensA)), _, _, _, fun _ => [(0x2000, 4)], tensorOf tensA, issues_of (by decide), rfl, rfl, by decide, by decide +kernel, by decide +kernel, by decide, reaches_of (by decide +kernel), (by unfold Readable; decide +kernel), by decide +kernel, by decide +kernel⟩

/-! ## The matrix engine, textures and rays -/

theorem witness_Mwl : ∃ (f : FmtX) (s : State) (x : Iss) (t : Team) (core : Nat), Issues (.mwl f) f.h s x ∧
    s.target x f false false = some core ∧
    s.team? x.wid.team = some t ∧
    (f.fn.getLsbD 4 = false ∧ f.c.toNat = 511) ∧
    poolCheck x t 1 [{ lane := x.first, va := x.uval f.c 1 % 2 ^ 32, n := 0 }] = none ∧
    ((∀ q ∈ t.staged, ¬ (q.bay = x.w.bay ∧ q.slot = 0))) :=
  ⟨⟨hd, 511, 8, 511, 511, 0, 0, 0, 0, 0⟩, lone (.mwl ⟨hd, 511, 8, 511, 511, 0, 0, 0, 0, 0⟩) (id) (id), _, _, _, issues_of (by decide), rfl, rfl, by decide, by decide, by decide⟩

theorem witness_MwlScales : ∃ (f : FmtX) (s : State) (x : Iss) (t : Team) (core : Nat), Issues (.mwl f) f.h s x ∧
    s.target x f false false = some core ∧
    s.team? x.wid.team = some t ∧
    (f.fn.getLsbD 4 = false ∧ f.c.toNat = 390 ∧ x.uniformFault f.c 1 = none) ∧
    (x.uval f.c 1 % 2 ^ 32 = 64 ∧ 64 + 256 ≤ s.scratchSize x.wid) ∧
    poolCheck x t 1 [{ lane := x.first, va := x.uval f.c 1 % 2 ^ 32, n := 256 }] = none ∧
    ((∀ q ∈ t.staged, ¬ (q.bay = x.w.bay ∧ q.slot = 0))) :=
  ⟨⟨hd, 511, 8, 511, 390, 11, 0, 0, 0, 0⟩, lone (.mwl ⟨hd, 511, 8, 511, 390, 11, 0, 0, 0, 0⟩) (sset [(6, 64)]) (roomy), _, _, _, issues_of (by decide), rfl, rfl, by decide, by decide, by decide +kernel, by decide⟩

theorem witness_Mmac : ∃ (f : FmtX) (s : State) (x : Iss) (t : Team) (core : Nat), Issues (.mmac f) f.h s x ∧
    s.target x f false false = some core ∧
    s.team? x.wid.team = some t ∧
    (x.w.hold = none ∧ s.fifoRoom x.w.core x.w.bay = true ∧ s.matrixWaiters x.w.core = []) ∧
    x.uval f.b 1 % 2 ^ 32 < s.tiles x.wid ∧
    ((t.wslot 0).state ≠ .empty ∧ (t.wslot 0).state ≠ .filling ∧ (t.wslot 0).state ≠ .draining) ∧
    pairs (f.fn.toNat % 16) (t.wslot 0).ty = true ∧
    (f.fn.getLsbD 4 = false ∧ f.fn.getLsbD 5 = false ∧ f.c.toNat = 511) :=
  ⟨⟨hd, 511, 8, 388, 511, 8, 0, 0, 0, 0⟩, lone (.mmac ⟨hd, 511, 8, 388, 511, 8, 0, 0, 0, 0⟩) (id) (fun s => teamBy (fun t => t.setWslot 0 { WSlot.none with state := .latched, gen := 1, ty := 8 }) (roomy s)), _, _, _, issues_of (by decide), rfl, rfl, by decide, by decide, by decide, by decide, by decide⟩

theorem witness_Mzero : ∃ (f : FmtX) (s : State) (x : Iss) (t : Team) (core : Nat), Issues (.mzero f) f.h s x ∧
    s.target x f false false = some core ∧
    s.team? x.wid.team = some t ∧
    (x.w.hold = none ∧ s.fifoRoom x.w.core x.w.bay = true ∧ s.matrixWaiters x.w.core = []) ∧
    x.uval f.b 1 % 2 ^ 32 < s.tiles x.wid :=
  ⟨⟨hd, 511, 511, 388, 511, 0, 0, 0, 0, 0⟩, lone (.mzero ⟨hd, 511, 511, 388, 511, 0, 0, 0, 0, 0⟩) (id) (roomy), _, _, _, issues_of (by decide), rfl, rfl, by decide, by decide⟩

/-- A drain of one F32 column into registers. -/
def oneDrain : Nat := 0xaa0000000000000000000000000000000000000000000000000000000000000000000000000000000000000000

theorem witness_Mdrn : ∃ (f : FmtX) (s : State) (x : Iss) (t : Team) (core : Nat) (d : Nat), Issues (.mdrn f) f.h s x ∧
    s.target x f false false = some core ∧
    s.team? x.wid.team = some t ∧
    (x.w.hold = none ∧ s.fifoRoom x.w.core x.w.bay = true ∧ s.matrixWaiters x.w.core = []) ∧
    x.uval f.b 1 % 2 ^ 32 < s.tiles x.wid ∧
    (x.uniformFault f.a 2 = none ∧ x.uval f.a 2 ≠ 0 ∧ x.uval f.a 2 % 64 = 0) ∧
    s.uload x (x.uval f.a 2) 64 = .ok d ∧
    drainBad d f.d.toNat = false ∧
    ((drainOf d).dk = 0 ∧ (drainOf d).rk = 0 ∧ f.d.toNat + (drainOf d).regs ≤ x.w.nregs) ∧
    (∀ l ∈ x.act, x.w.anyPending l f.d.toNat (drainOf d).regs = false) :=
  ⟨⟨hd, 4, 8, 388, 390, 0, 0, 0, 0, 0⟩, lone (.mdrn ⟨hd, 4, 8, 388, 390, 0, 0, 0, 0, 0⟩) (vset [(8, 0x1000)]) (fun s => poke 0x1000 64 oneDrain (roomy s)), _, _, _, oneDrain, issues_of (by decide), rfl, rfl, by decide, by decide, by decide, loads_of (by decide +kernel), by decide +kernel, by decide +kernel, by decide +kernel⟩

theorem witness_Vxm : ∃ (f : FmtX) (s : State) (x : Iss) (t : Team) (c : Ctx) (core : Nat) (pas : Nat → List (Nat × Nat)), Issues (.vxm f) f.h s x ∧
    s.target x f false false = some core ∧
    s.team? x.wid.team = some t ∧
    s.ctx? (asidOf x.wid) = some c ∧
    (x.w.hold = none ∧ s.fifoRoom x.w.core x.w.bay = true ∧ s.matrixWaiters x.w.core = []) ∧
    (x.uniformFault f.b 2 = none ∧ pairs (f.fn.toNat % 16) (f.fn.toNat / 16) = true) ∧
    (vxmK (x.uval f.c 2) = 32 ∧ vxmN (x.uval f.c 2) = 32) ∧
    (f.d.toNat + 1 ≤ x.w.nregs ∧ f.a.toNat + 1 ≤ x.w.nregs ∧ x.uval f.b 2 ≠ 0 ∧ x.uval f.b 2 % 256 = 0) ∧
    RowsReach x s [{ lane := x.first, va := x.uval f.b 2, n := 2048 }] .read pas c :=
  ⟨⟨hd, 4, 8, 32, 390, 0x88, 0, 0, 0, 0⟩, lone (.vxm ⟨hd, 4, 8, 32, 390, 0x88, 0, 0, 0, 0⟩) (fun w => sset [(6, 0x200020)] (vset [(32, 0x1000)] w)) (id), _, _, _, _, fun _ => [(0x1000, 2048)], issues_of (by decide), rfl, rfl, rfl, by decide, by decide, by decide, by decide, lands_of (by decide +kernel)⟩

/-- A staged quarter for a slot that fills, an offer of `⟨hd, 511, 511, 388, 511, 0, 0, 0, 0, 0⟩ERO` with room, an entry that may start and one that has. -/
def quarter0 : Quarter := { bay := 0, slot := 0, quartet := 0, ty := 8, bytes := [], scales := [] }
theorem witness_QuarterTransfer : ∃ (s : State) (core bay k : Nat) (t : Team) (q : Quarter),
    s.teams.find? (fun t => t.core == core && !s.frozen t.id && t.staged.any (fun q => q.bay == bay && q.slot == k)) = some t ∧
    t.staged.find? (fun q => q.bay == bay && q.slot == k) = some q ∧ (t.wslot k).state = .filling ∧ q.quartet = (t.wslot k).formQuartet ∧
    ∀ p ∈ (t.wslot k).filled, p.bay ≠ bay :=
  ⟨lone (.mzero ⟨hd, 511, 511, 388, 511, 0, 0, 0, 0, 0⟩) id (teamBy (fun t => ({ t with staged := [quarter0] } : Team).setWslot 0 { WSlot.none with state := .filling, formTy := 8 })), 0, 0, 0,
    _, _, rfl, rfl, by decide, by decide, by decide⟩
theorem witness_FifoTakes : ∃ (f : FmtX) (s : State) (r : Waiting) (x : Iss) (rest : List Waiting) (n : Nat), Resumes (.mzero f) f.h s r x ∧
    s.matrixWaiters 0 = r :: rest ∧ x.w.core = 0 ∧ (∀ y ∈ rest, r.id < y.id) ∧ s.target x f false false = some n ∧
    x.uval f.b 1 % 2 ^ 32 < s.tiles x.wid ∧ s.fifoRoom 0 x.w.bay = true :=
  ⟨⟨hd, 511, 511, 388, 511, 0, 0, 0, 0, 0⟩, lone (.mzero ⟨hd, 511, 511, 388, 511, 0, 0, 0, 0, 0⟩) id (fun s => roomy (offers (.mzero ⟨hd, 511, 511, 388, 511, 0, 0, 0, 0, 0⟩) 0 s)), offer (.mzero ⟨hd, 511, 511, 388, 511, 0, 0, 0, 0, 0⟩) 0, _, [], _,
    resumes_of rfl (by decide) (by decide) (by decide), rfl, by decide, by decide, rfl, by decide, by decide⟩
def entry0 (started : Bool) : Entry :=
  { newEntry (.mzero ⟨hd, 511, 511, 388, 511, 0, 0, 0, 0, 0⟩) (issAt (.mzero ⟨hd, 511, 511, 388, 511, 0, 0, 0, 0, 0⟩) hd (lone (.mzero ⟨hd, 511, 511, 388, 511, 0, 0, 0, 0, 0⟩) id roomy)) [] [0] with id := 0, started := started }
def fifo0 (started : Bool) (s : State) : State := { s.updCore 0 (fun k => { k with fifo := [entry0 started] }) with nextId := 1 }
theorem witness_EntryStart : ∃ (s : State) (core bay : Nat) (e : Entry),
    ((s.core core).fifo.filter (fun e => e.bay == bay && !s.frozen e.wave.team)).find? (fun e => !e.started) = some e ∧
    (∀ a ∈ (s.core core).fifo, a.bay = bay → a.started = false) ∧ s.tileWaited e = false ∧ ∃ f, e.instr = .mzero f :=
  ⟨lone (.mzero ⟨hd, 511, 511, 388, 511, 0, 0, 0, 0, 0⟩) id (fun s => fifo0 false (roomy s)), 0, 0, _, rfl, by decide, by decide, _, rfl⟩
theorem witness_EntryCompletion : ∃ (s : State) (core bay : Nat) (e : Entry) (t : Team) (f : FmtX),
    (s.core core).fifo.find? (fun e => e.bay == bay && e.started) = some e ∧ s.team? e.wave.team = some t ∧
    s.atChannel (.matrix core e.id) = false ∧ (∀ c, s.ctx? (asidOf e.wave) = some c → s.entryWaits c e = none) ∧ e.instr = .mzero f :=
  ⟨lone (.mzero ⟨hd, 511, 511, 388, 511, 0, 0, 0, 0, 0⟩) id (fun s => fifo0 true (roomy s)), 0, 0, _, _, _, rfl, rfl, rfl, by intro c h; cases h; decide +kernel, rfl⟩
theorem witness_TileWords : (entry0 true).scal.headD 0 < 4 ∧ (entry0 true).bay < 4 ∧ 0 ∈ lanesOf (entry0 true).lanes ∧
    1 ∉ lanesOf (entry0 true).lanes ∧ invalidGen WSlot.none = false := by decide

/-- Textures of one texel at 0x2000, with marks at 0x3000, and at an address that no page maps. -/
def tex0 : Nat := 0x20000000000000300000000000000000000000000000000000004000000000000000000000000000000000000000002000
def texFar : Nat := 0x4000000000000000000000000000000000010000000000

theorem witness_Tex : ∃ (f : FmtX) (s : State) (x : Iss) (c : Ctx) (core : Nat) (v : Nat), Issues (.tex f) f.h s x ∧
    (∀ l ∈ x.act, x.seen l = []) ∧
    s.ctx? (asidOf x.wid) = some c ∧
    s.target x f true true = some core ∧
    (x.uniformFault f.c 2 = none ∧ x.uval f.c 2 ≠ 0 ∧ x.uval f.c 2 % 64 = 0) ∧
    s.uload x (x.uval f.c 2) 64 = .ok v ∧
    textureBad v = false ∧
    (∀ l ∈ x.act, s.footOf c (s.ownBlock x.wid.team.grid) (textureOf v).es [] ((textureOf v).footprint ((x.w.vregs l f.a.toNat 3).map BitVec.toNat) ((x.w.vregs l f.b.toNat 8).map BitVec.toNat)) = .ok) ∧
    (∀ l ∈ x.act, ∀ a ∈ ((textureOf v).footprint ((x.w.vregs l f.a.toNat 3).map BitVec.toNat) ((x.w.vregs l f.b.toNat 8).map BitVec.toNat)), s.unreadable c (s.ownBlock x.wid.team.grid) (s.viewOf x.wid) a (textureOf v).es = none) :=
  ⟨⟨hd, 40, 16, 24, 386, 0, 0, 0, 0, 0⟩, lone (.tex ⟨hd, 40, 16, 24, 386, 0, 0, 0, 0, 0⟩) (sset [(2, 0x1000)]) (poke 0x1000 64 tex0), _, _, _, tex0, issues_of (by decide), by decide, rfl, rfl, by decide, loads_of (by decide +kernel), by decide +kernel, by decide +kernel, by decide +kernel⟩

theorem witness_TexBorder : ∃ (f : FmtX) (s : State) (x : Iss) (c : Ctx) (core : Nat) (v : Nat), Issues (.tex f) f.h s x ∧
    (∀ l ∈ x.act, x.seen l = []) ∧
    s.ctx? (asidOf x.wid) = some c ∧
    s.target x f true true = some core ∧
    (x.uniformFault f.c 2 = none ∧ x.uval f.c 2 ≠ 0 ∧ x.uval f.c 2 % 64 = 0) ∧
    s.uload x (x.uval f.c 2) 64 = .ok v ∧
    textureBad v = false ∧
    (∀ l ∈ x.act, s.footOf c (s.ownBlock x.wid.team.grid) (textureOf v).es [] ((textureOf v).footprint ((x.w.vregs l f.a.toNat 3).map BitVec.toNat) ((x.w.vregs l f.b.toNat 8).map BitVec.toNat)) = .border) ∧
    (textureOf v).marks = 0 :=
  ⟨⟨hd, 40, 16, 24, 386, 0, 0, 0, 0, 0⟩, lone (.tex ⟨hd, 40, 16, 24, 386, 0, 0, 0, 0, 0⟩) (sset [(2, 0x1000)]) (poke 0x1000 64 texFar), _, _, _, texFar, issues_of (by decide), by decide, rfl, rfl, by decide, loads_of (by decide +kernel), by decide +kernel, by decide +kernel, by decide +kernel⟩

theorem witness_Texq : ∃ (f : FmtX) (s : State) (x : Iss) (c : Ctx) (core : Nat) (v : Nat) (pas : Nat → List (Nat × Nat)), Issues (.texq f) f.h s x ∧
    AtOnce x s f.d.toNat ∧
    s.ctx? (asidOf x.wid) = some c ∧
    s.target x f true true = some core ∧
    (x.uniformFault f.c 2 = none ∧ x.uval f.c 2 ≠ 0 ∧ x.uval f.c 2 % 64 = 0) ∧
    s.uload x (x.uval f.c 2) 64 = .ok v ∧
    textureBad v = false ∧
    (textureOf v).marks ≠ 0 ∧
    (∀ l ∈ x.lanes, 32 * (x.rd l f.a 1 % 2 ^ 32) < (textureOf v).nmark) ∧
    Reaches x s (x.accs (fun l => (textureOf v).marks + 4 * (x.rd l f.a 1 % 2 ^ 32)) 4) .write (fun c a => c.needsMcst a.va a.n) pas c ∧
    Readable s (x.accs (fun l => (textureOf v).marks + 4 * (x.rd l f.a 1 % 2 ^ 32)) 4) pas :=
  ⟨⟨hd, 4, 8, 511, 386, 0, 0, 0, 0, 0⟩, lone (.texq ⟨hd, 4, 8, 511, 386, 0, 0, 0, 0, 0⟩) (sset [(2, 0x1000)]) (poke 0x1000 64 tex0), _, _, _, tex0, fun _ => [(0x3000, 4)], issues_of (by decide), atOnce_of (by decide) (by decide), rfl, rfl, by decide, loads_of (by decide +kernel), by decide +kernel, by decide +kernel, by decide +kernel, reaches_of (by decide +kernel), (by unfold Readable; decide +kernel)⟩

theorem witness_TexqRead : ∃ (f : FmtX) (s : State) (x : Iss) (c : Ctx) (core : Nat) (v : Nat) (pas : Nat → List (Nat × Nat)), Issues (.texqRead f) f.h s x ∧
    AtOnce x s f.d.toNat ∧
    s.ctx? (asidOf x.wid) = some c ∧
    s.target x f true true = some core ∧
    (x.uniformFault f.c 2 = none ∧ x.uval f.c 2 ≠ 0 ∧ x.uval f.c 2 % 64 = 0) ∧
    s.uload x (x.uval f.c 2) 64 = .ok v ∧
    textureBad v = false ∧
    (textureOf v).marks ≠ 0 ∧
    (∀ l ∈ x.lanes, 32 * (x.rd l f.a 1 % 2 ^ 32) < (textureOf v).nmark) ∧
    Reaches x s (x.accs (fun l => (textureOf v).marks + 4 * (x.rd l f.a 1 % 2 ^ 32)) 4) .read (fun _ _ => false) pas c ∧
    Readable s (x.accs (fun l => (textureOf v).marks + 4 * (x.rd l f.a 1 % 2 ^ 32)) 4) pas :=
  ⟨⟨hd, 4, 8, 511, 386, 1, 0, 0, 0, 0⟩, lone (.texqRead ⟨hd, 4, 8, 511, 386, 1, 0, 0, 0, 0⟩) (sset [(2, 0x1000)]) (poke 0x1000 64 tex0), _, _, _, tex0, fun _ => [(0x3000, 4)], issues_of (by decide), atOnce_of (by decide) (by decide), rfl, rfl, by decide, loads_of (by decide +kernel), by decide +kernel, by decide +kernel, by decide +kernel, reaches_of (by decide +kernel), (by unfold Readable; decide +kernel)⟩

theorem witness_Trace : ∃ (f : FmtX) (s : State) (x : Iss) (c : Ctx) (core : Nat), Issues (.trace f) f.h s x ∧
    s.ctx? (asidOf x.wid) = some c ∧
    s.target x f true true = some core ∧
    x.uniformFault f.b 2 = none :=
  ⟨⟨hd, 40, 16, 32, 511, 0, 0, 0, 0, 0⟩, lone (.trace ⟨hd, 40, 16, 32, 511, 0, 0, 0, 0, 0⟩) (id) (id), _, _, _, issues_of (by decide), rfl, rfl, by decide⟩

/-! ## The machine's own steps -/

/-- A wave that issues `⟨hd, 511, 511, 511, 511, 0, 0, 0⟩`, changed. -/
def idle (f : Wave → Wave) (g : State → State) : State := lone (.nop ⟨hd, 511, 511, 511, 511, 0, 0, 0⟩) f g

theorem witness_FetchedLines : ∃ (s s' : State) (c : Cur) (w : Wave) (line : BitVec 512), s.cur = some c ∧ s.wave? c.wid = some w ∧
    pcBad c.pc.toNat = false ∧ s.fetchLine w.core (asidOf c.wid) (c.pc.toNat / 64) = .ok line s' ∧
    (w.entry = false ∨ w.tlevel ≠ 0 ∨ c.pc ≠ (if w.isLead then (s.recOf c.wid).lpc else (s.recOf c.wid).kpc) ∨
      (lineWord line).testBit (c.pc.toNat % 8) = true) :=
  ⟨idle id id, _, _, _, _, rfl, rfl, by decide, rfl, .inl rfl⟩

/-- One state for each event of a wave that the statement names. -/
def lw (f : Wave → Wave) : Wave := ((idle f id).wave? loneWid).getD wave0
theorem witness_Fairness : ((idle (fun w => { w with fair := 1000 }) id).wave? loneWid).any (fun w =>
    ((idle id id).ctx? 0).any (fun c => w.fair ≥ c.f)) = true := by decide
theorem witness_JoinExpiry : (Join.expires { Join.none with arr := 1, bnd := 3, cnt := 3 }) = true ∧
    (Join.overdue { Join.none with arr := 1, wdc := 6 } 5) = true := by decide
theorem witness_Skid : (lw (fun w => { w with halt := .skid 2 })).halt = .skid 2 := by decide
theorem witness_Move : ∃ (s : State) (w v : Wave) (k : WaveId) (m : Nat), s.wave? loneWid = some w ∧ w.moves.head? = some m ∧
    s.wave? k = some v ∧ k ≠ loneWid ∧ m ∈ v.moves :=
  ⟨idle (fun w => { w with moves := [4, 7] }) (fun s => { s with waves := s.waves ++ s.waves.map (fun w =>
    { w with id := { loneWid with wave := 1 }, moves := [4] }) }), _, _, { loneWid with wave := 1 }, 4, rfl, rfl, rfl, by decide, by decide⟩
theorem witness_Reexecute : ∃ (s : State) (w : Wave) (on : List MissOn) (va : Nat), s.wave? loneWid = some w ∧ s.liveWave w = true ∧ w.halt ≠ .stopped ∧
    (w.thread 0).run = .parked on va .resolved :=
  ⟨idle (fun w => w.updThread 0 (fun t => { t with run := .parked [.page 0] 0 .resolved })) id, _, _, _, rfl, by decide, by decide, rfl⟩
theorem witness_CauseDelivery : ∃ (s : State) (t : Team) (p : Pending) (ps : List Pending) (k : WaveId), s.team? loneWid.team = some t ∧ t.halted = none ∧
    t.away = false ∧ s.idleGrid loneWid.team.grid = false ∧ t.pending = p :: ps ∧
    (s.updTeam loneWid.team (fun t => { t with pending := ps })).causeTarget loneWid.team p.wave = some k :=
  ⟨idle id (teamBy (fun t => { t with pending := [⟨some 0, 3, 0, 1⟩] })), _, _, _, _, rfl, rfl, rfl, by decide, rfl, rfl⟩

/-- A crowd of `n` waves in the active set, changed by `f`, and a ready wave in the paddock, changed by `g`. -/
def crowd (n : Nat) (f g : Wave → Wave) : State :=
  idle id (fun s => { s with waves := s.waves.flatMap (fun w => g { w with active := false } :: (List.range n).map (fun k =>
    f { w with id := { w.id with wave := k + 1 } })) })
def low (s : State) : Nat := (s.bayWaves 0 0 true).foldl (fun m w => min m w.prioUse) 256
theorem witness_FreePlace : ((crowd 2 id id).best ((crowd 2 id id).paddock 0 0)).isSome = true ∧ ((crowd 2 id id).bayWaves 0 0 true).length < 8 := by decide
theorem witness_HigherLevel : ∃ s : State, (s.best (s.paddock 0 0)).any (fun b => decide (b.prioUse > low s)) = true ∧ (s.bayWaves 0 0 true).length ≥ 8 ∧
    (s.bestBy (fun w => (w.age, 0)) ((s.bayWaves 0 0 true).filter (fun w => w.prioUse == low s))).isSome = true :=
  ⟨crowd 8 id (fun w => { w with prioUse := 3 }), by decide, by decide, by decide⟩
theorem witness_Yielded : ∃ s : State, (s.best (s.paddock 0 0)).any (fun b => decide (b.prioUse ≤ low s)) = true ∧ (s.bayWaves 0 0 true).length ≥ 8 ∧
    (s.bestBy (fun w => (w.yielded, 0)) ((s.bayWaves 0 0 true).filter (fun w => w.yielded != 0))).isSome = true :=
  ⟨crowd 8 (fun w => { w with yielded := 1 }) id, by decide, by decide, by decide⟩
theorem witness_LongBlocked : ∃ s : State, (s.best (s.paddock 0 0)).isSome = true ∧
    (s.bestBy (fun w => (w.blockedFor, 0)) ((s.bayWaves 0 0 true).filter (fun w => w.blockedFor ≥ 33))).isSome = true :=
  ⟨crowd 8 (fun w => { w with blockedFor := 33 }) id, by decide, by decide⟩
theorem witness_Rotation : ∃ s : State, (s.bestBy (fun w => (w.age, 0)) ((s.bayWaves 0 0 true).filter (fun w => w.age ≥ 4096 &&
    (s.paddock 0 0).any (fun p => p.prioUse == w.prioUse)))).any (fun o => (s.best ((s.paddock 0 0).filter (fun p => p.prioUse == o.prioUse))).isSome) = true :=
  ⟨crowd 8 (fun w => { w with age := 4096 }) id, by decide⟩

/-- Requests, walks, updates, merges and fills that wait. -/
def req0 (k : ReqKind) : Req := { id := 0, wave := loneWid, core := 0, bay := 0, slots := [], carry := Carry.none, kind := k, fills := [] }
theorem witness_Replies : ∀ k ∈ [ReqKind.load, .atomic, .marks, .texture], ∃ s : State,
    s.reqs.find? (fun q => q.id == (req0 k).id) = some (req0 k) ∧ s.heldReq (req0 k).id = false ∧ s.atChannel (.request (req0 k).id) = false := by
  intro k _
  exact ⟨idle id (fun s => { s with reqs := [req0 k] }), rfl, rfl, rfl⟩
theorem witness_WalkEnd : ∃ (s : State) (r : Req) (c : Ctx) (rays : List (Nat × List Nat)) (words : Nat → List Nat),
    s.reqs.find? (fun q => q.id == r.id) = some r ∧ r.kind = .walk false 40 rays ∧ s.ctx? (asidOf r.wave) = some c ∧
    s.atChannel (.request r.id) = false ∧ s.idleGrid r.wave.team.grid = false ∧ (∀ h ∈ s.stalls, h.work ≠ (0, r.id)) ∧ (∀ h ∈ s.heldBytes, h.work ≠ (0, r.id)) ∧ rays ≠ [] ∧
    ∀ p ∈ rays, walkLane (s.walkRead c r.wave.team.grid (s.viewOf r.wave) r.id []) false p.2 = .inl (words p.1) :=
  ⟨idle id (fun s => { s with reqs := [req0 (.walk false 40 [(0, [0x7FC00000])])] }), req0 (.walk false 40 [(0, [0x7FC00000])]), _, [(0, [0x7FC00000])], fun _ => walkWords 4 none 0, rfl, rfl, rfl, rfl,
    by decide, by decide, by decide, by decide, by
      intro p hp
      simp only [List.mem_singleton] at hp
      subst hp
      rfl⟩
def upd0 : Update := { src := 0, t := 0, q := 0, e := 0, va := 0x1000, op := 0, signed := false, width := 32, value := 1, sat := false }
theorem witness_UpdateArrives : ∃ (s : State) (c : Ctx) (g : GridId) (t : TeamId) (u : Update) (gr : Grid) (tm : Team),
    s.updates.find? (fun u => u.2.2.1 == 7) = some (g, t, 7, u) ∧ s.grid? g = some gr ∧ s.ctx? g.asid = some c ∧
    s.firstUpdate 7 = true ∧ s.team? t = some tm ∧ cellGet 0 gr.heldLines (s.homeLine g u.va) < 16 :=
  ⟨idle id (fun s => { s with updates := [(loneWid.team.grid, loneWid.team, 7, upd0)] }), _, _, _, _, _, _, rfl, rfl, rfl, by decide, rfl, by decide⟩
theorem witness_Merge2 : ∃ (s : State) (g : GridId), s.idleGrid g = false ∧ s.gridMerged g = true ∧ (s.mergeGrid g).2 = true :=
  ⟨idle (fun w => w.updThreads w.lanes (fun _ t => { t with run := .blocked .merge })) (fun s => teamBy (fun t => { t with merged := [0] }) s), loneWid.team.grid,
    by decide, by decide +kernel, by decide +kernel⟩
def proc0 : ProcRange := { base := 0x100000, big := false, nblk := 2, pool := 0x200000, nfrm := 1, lrec := loneRec, blocks := [], waiting := [(1, 0)] }
def filling (s : State) : State := ctxBy (fun c => { c with procs := [(3, proc0)] }) s
theorem witness_FillFrame : ∃ (s : State) (c : Ctx) (p : ProcRange), s.ctx? c.asid = some c ∧ c.proc? 3 = some p ∧ p.waiting = [(1, 0)] ∧
    (let s1 := s.updCtx c.asid (fun c => c.updProc 3 (fun p => { p with waiting := [] }))
      ∀ c1 p1, s1.ctx? c.asid = some c1 → c1.proc? 3 = some p1 → s1.freeFrame p1 = some 0) ∧
    ∀ c2 q, ((s.updCtx c.asid (fun c => c.updProc 3 (fun p => { p with waiting := [] }))).generate c.asid 3 1 0 0).ctx? c.asid = some c2 →
      c2.proc? 3 = some q → ∀ x ∈ q.waiting, x.1 ≠ 1 := by
  refine ⟨idle id filling, ctx0 (idle id filling), proc0, rfl, rfl, rfl, ?_, ?_⟩
  · intro s1 c1 p1 h1 h2
    cases h1
    cases h2
    rfl
  · intro c2 q h1 h2
    cases h1
    cases h2
    intro x hx
    cases hx

/-! ## Engines, grids and the package -/

def fineB (r : Except Nat State) : Bool := match r with | .ok _ => true | .error _ => false
theorem fine_of {r : Except Nat State} (h : fineB r = true) : ∃ s, r = .ok s := by
  cases r with
  | ok s => exact ⟨s, rfl⟩
  | error e => cases h

/-- A transfer of four F32 elements to 0x2000, whose one sector is number 16, with some sectors written. -/
def xfer0 (done : List Int) : Xfer :=
  { id := 0, core := 0, asid := 0, level := 0, issuer := .wave loneWid, op := 0, dst := BitVec.ofNat 512 tensA, src := BitVec.ofNat 512 tensB,
    dstVa := 0x1000, srcVa := 0x1040, origin := 0, slab := false, obj := 0x3000, done := done, slabs := 0, accepted := true, t := 0, q := 0,
    idx := [], idxRead := true, formed := [], later := [], failed := none, order := 0, carry := Carry.none }
def moving (done : List Int) : State := idle id (fun s => { s with xfers := [xfer0 done], nextId := 1 })
theorem witness_SectorWrite : ∃ (s : State) (t : Xfer) (c : Ctx), s.xfers.find? (fun t => t.id == 0) = some t ∧ s.ctx? t.asid = some c ∧
    s.still t.asid t.issuer = false ∧ t.idxRead = true ∧ t.failed = none ∧ (∀ h ∈ s.stalls, h.work ≠ (0, 0)) ∧
    (∀ h ∈ s.heldBytes, h.work ≠ (0, 0)) ∧ sectorOf 32 ∉ t.done ∧ sectorOf 32 ∈ t.sectors ∧ (s.core t.core).sectors.length < 2048 ∧
    s.writesBarred t.asid (0, t.id) t.order 32 (t.writes (sectorOf 32)) = false ∧
    engJoin (s.engVia c (s.ownOf t.issuer) (s.viewIss t.issuer) .read (0, t.id) 32 (t.reads (sectorOf 32)))
      (s.engVia c (s.ownOf t.issuer) (s.viewIss t.issuer) .write (0, t.id) 32 (t.writes (sectorOf 32))) = .ok ∧
    ∃ s1, s.engWrite c t.issuer (runsOf (t.image (s.engRead c t.issuer) (sectorOf 32))) = .ok s1 :=
  ⟨moving [], xfer0 [], _, rfl, rfl, by decide, rfl, rfl, by decide, by decide, by decide, by decide +kernel, by decide, by decide +kernel, by decide +kernel, fine_of (by decide +kernel)⟩
theorem witness_ScatterAdds : ∃ t : Xfer, (t.op == 3 && decide (t.level ≥ 1)) = true ∧ t.idxRead = true ∧ sectorOf 32 ∈ t.sectors ∧ t.issuer = .wave loneWid ∧
    ∃ u : Xfer, u.op = 3 ∧ u.level ≥ 1 ∧ sectorOf 32 ∈ u.sectors ∧ u.issuer = .node 0 0 :=
  ⟨{ xfer0 [] with op := 3, level := 1, dst := BitVec.ofNat 512 tensIxA, idx := [0, 1, 2, 3] }, rfl, rfl, by decide +kernel, rfl,
   { xfer0 [] with op := 3, level := 1, dst := BitVec.ofNat 512 tensIxA, idx := [0, 1, 2, 3], issuer := .node 0 0 }, rfl, by decide,
     by decide +kernel, rfl⟩
theorem witness_TransferEnds : ∃ (s : State) (t : Xfer) (c : Ctx), s.xfers.find? (fun t => t.id == 0) = some t ∧ s.ctx? t.asid = some c ∧
    (∀ x ∈ t.sectors, x ∈ t.done) ∧ s.flying t = [] ∧ t.later = [] ∧ t.issuer = .wave loneWid ∧ (s.slabIncs 0 2).2 = true ∧
    ∃ s2, (s.slabIncs 0 2).1.increment t.asid t.issuer (0, 0) ((s.slabIncs 0 2).1.viewIss t.issuer) t.obj 1 = .made s2 :=
  ⟨moving [16], xfer0 [16], _, rfl, rfl, by decide +kernel, rfl, rfl, rfl, by decide +kernel, made_of (by decide +kernel)⟩
def csig0 : Csig := { id := 0, wave := loneWid, core := 0, obj := 0x3000, value := 1, slot := none, after := [] }
theorem witness_Signal : ∃ (s : State) (g : Csig), s.csigs.find? (fun g => g.id == 0) = some g ∧ s.frozen g.wave.team = false ∧ g.slot = none ∧
    (∀ k ∈ g.after, ∀ t ∈ s.xfers, t.id ≠ k) ∧ (∀ r ∈ s.waiting, r.wave = g.wave → r.id < g.id → r.nums.length < 4) ∧
    ∃ s1, s.increment (asidOf g.wave) (.wave g.wave) (0, 0) (s.viewOf g.wave) g.obj g.value.toNat = .made s1 :=
  ⟨idle id (fun s => { s with csigs := [csig0] }), _, rfl, rfl, rfl, by decide, by decide, made_of (by decide +kernel)⟩
theorem witness_SignalToSlot : ∃ (s : State) (g : Csig) (s1 : State), s.csigs.find? (fun g => g.id == 0) = some g ∧ s.frozen g.wave.team = false ∧
    g.slot = some 5 ∧ (∀ k ∈ g.after, ∀ t ∈ s.xfers, t.id ≠ k) ∧ (∀ r ∈ s.waiting, r.wave = g.wave → r.id < g.id → r.nums.length < 4) ∧
    s.decNode g.core 5 (asidOf g.wave) = (true, s1) :=
  ⟨idle id (fun s => { s with csigs := [{ csig0 with slot := some 5 }] }), _, _, rfl, rfl, rfl, by decide, by decide, rfl⟩
def coll0 : Coll := { id := 0, asid := 0, die := 0, issuer := .wave loneWid, block := BitVec.ofNat 256 oneBlock, blockVa := 0x1080,
                      src := BitVec.ofNat 512 tensB, dst := BitVec.ofNat 512 tensA, obj := 0x3000, done := [], incs := 0, accepted := true, order := 0, carry := Carry.none }
theorem witness_Chunk : ∃ (s : State) (o : Coll) (c : Ctx), s.colls.find? (fun o => o.id == 0) = some o ∧ s.ctx? o.asid = some c ∧
    s.still o.asid o.issuer = false ∧ (∀ h ∈ s.stalls, h.work ≠ (0, o.id)) ∧ (∀ h ∈ s.heldBytes, h.work ≠ (0, o.id)) ∧
    s.writesBarred o.asid (0, o.id) o.order 0 (elemWrites (tensorOf o.dst.toNat) (chunkIx (tensorOf o.dst.toNat) 0)) = false ∧ 0 < chunkCount (tensorOf o.dst.toNat) ∧ (cblockOf o.block.toNat).count = 1 ∧
    (cblockOf o.block.toNat).rank 0 = field c.drank 11 0 ∧
    engJoin (s.engVia c none none .read (0, o.id) 0 (elemReads (tensorOf o.src.toNat) false [[0], [1], [2], [3]]))
      (s.engVia c none none .write (0, o.id) 0 (elemWrites (tensorOf o.dst.toNat) (chunkIx (tensorOf o.dst.toNat) 0))) = .ok :=
  ⟨idle id (fun s => { s with colls := [coll0], nextId := 1 }), coll0, _, rfl, rfl, by decide, by decide, by decide, by decide +kernel, by decide +kernel, by decide +kernel, by decide +kernel,
    by decide +kernel⟩

/-- A demand that all its axes be replicated for an entry of one rank, and its context. -/
def demand0 (started : Bool) : Demand :=
  { idx := 0, number := 1, target := [0, 24, 24], dstVa := 0x1000, dst := BitVec.ofNat 512 tensB, objs := [(.wave loneWid, 0x3000)], level := 0, started := started, ended := false, order := 0, carry := Carry.none }
def demands (started : Bool) (s : State) : State :=
  ctxBy (fun c => { c.setEntry 0 0x18c00002001000800000000000000000000000000000000000000000000400000000001040 (BitVec.ofNat 512 tensA) with demands := [demand0 started] }) s
theorem witness_ConversionStart : ∃ (s : State) (c : Ctx) (m : Demand), s.ctx? 0 = some c ∧
    c.demands.find? (fun m => m.idx == 0 && !m.ended) = some m ∧ m.started = false ∧ c.stopped = false ∧
    (∀ r ∈ (pentryOf (c.entry 0)).ranks, r = field c.drank 11 0) ∧
    ∀ a < 3, convListed ((pentryOf (c.entry 0)).st.getD a 0) (m.target.getD a 0) = true :=
  ⟨idle id (demands false), _, _, rfl, rfl, rfl, rfl, by decide +kernel, by decide +kernel⟩
theorem witness_ConversionEnd : ∃ (s : State) (c : Ctx) (m : Demand) (sd : BitVec 512), s.ctx? 0 = some c ∧ c.asid = 0 ∧
    c.demands.find? (fun m => m.idx == 0 && (m.started || m.ended)) = some m ∧ c.shards.find? (fun p => p.1 == 0) = some (0, sd) ∧
    c.stopped = false ∧ m.ended = false ∧ (∀ h ∈ s.stalls, h.work ≠ (1, 0)) ∧
    engJoin (s.engAll { c with place := [], shards := [] } none none .read (elemReads (tensorOf sd.toNat) false [[0], [1], [2], [3]]))
      (s.engAll { c with place := [], shards := [] } none none .write (elemWrites (tensorOf m.dst.toNat) [[0], [1], [2], [3]])) = .ok ∧
    (∀ r ∈ s.waiting, r.freed = true → asidOf r.wave ≠ 0) ∧ s.releases.any (fun o => o.asid == 0 && overlap (tensorOf sd.toNat).range (o.lo, o.hi)) = false ∧
    ∀ x ∈ elemWrites (tensorOf m.dst.toNat) [[0], [1], [2], [3]], s.ownedBefore (1, 0) m.order 0 (wrapN 64 x.1) x.2 = false :=
  ⟨idle id (demands true), _, _, _, rfl, rfl, rfl, rfl, rfl, rfl, by decide, by decide +kernel, by decide, by decide +kernel, by decide +kernel⟩

/-- A graph slot in each of the three states in which its work goes on. -/
def graph0 (st : Nat) (s : State) : State :=
  s.setNode 0 0 { NodeSlot.free with state := st, asid := some 0, desc := 4 <<< 272 }
theorem witness_GraphWork : ∀ st ∈ [2, 3, 4], ∃ (s : State) (c : Ctx), (s.node 0 0).asid = some c.asid ∧ s.ctx? c.asid = some c ∧ c.killed = false ∧
    (s.node 0 0).state = st ∧ nodeKind (s.node 0 0).desc = 4 ∧ s.nodeBusy 0 0 = false ∧
    nodeComp (s.node 0 0).desc = 0 ∧ (∀ h ∈ s.stalls, h.work ≠ nodeWorkName 0 0) ∧ ∀ h ∈ s.heldBytes, h.work ≠ nodeWorkName 0 0 := by
  intro st h
  simp only [List.mem_cons, List.not_mem_nil, or_false] at h
  rcases h with rfl | rfl | rfl
  · exact ⟨idle id (graph0 2), ctx0 (idle id (graph0 2)), by decide, rfl, rfl, by decide, by decide +kernel, by decide, by decide +kernel, by decide, by decide⟩
  · exact ⟨idle id (graph0 3), ctx0 (idle id (graph0 3)), by decide, rfl, rfl, by decide, by decide +kernel, by decide, by decide +kernel, by decide, by decide⟩
  · exact ⟨idle id (graph0 4), ctx0 (idle id (graph0 4)), by decide, rfl, rfl, by decide, by decide +kernel, by decide, by decide +kernel, by decide, by decide⟩

/-- A grid that waits for a place, a team that is done, and grids that are, of each origin. -/
theorem witness_Placement : ∃ s : State, (match pickSeat s.seats with | some (.next g n) => (s.placeGrid g n).isSome | _ => false) = true :=
  ⟨idle id (fun s => (s.newGrid 0 loneRec (.host 0 0) 1 0 0).2), by decide +kernel⟩
theorem witness_TeamRetires : ∃ (s : State) (t : Team), s.team? loneWid.team = some t ∧ t.away = false ∧ s.idleGrid loneWid.team.grid = false ∧
    s.teamDone t = true ∧ t.ended = false ∧ t.pending = [] :=
  ⟨idle (fun w => w.updThreads w.lanes (fun _ t => { t with run := .ended })) id, _, rfl, rfl, by decide, by decide +kernel, rfl, rfl⟩
def finished (o : Origin) : State := idle id (gridBy (fun g => { g with origin := o, placed := [(0, 0)], retired := [(0, 0)] }))
theorem witness_GridRetires : ∀ o ∈ [Origin.host 0 9, .child loneWid.team.grid loneWid 0x3000, .graph 0 0], ∃ (g : Grid),
    (finished o).idleGrid loneWid.team.grid = false ∧ ((finished o).mergeGrid loneWid.team.grid).2 = true ∧ ((finished o).mergeGrid loneWid.team.grid).1.grid? loneWid.team.grid = some g ∧
    g.faulted = false := by
  intro o h
  simp only [List.mem_cons, List.not_mem_nil, or_false] at h
  rcases h with rfl | rfl | rfl
  · exact ⟨_, by decide, by decide, rfl, rfl⟩
  · exact ⟨_, by decide, by decide, rfl, rfl⟩
  · exact ⟨_, by decide, by decide, rfl, rfl⟩
theorem witness_GridDone : ∃ g, (finished (.host 0 9)).grid? loneWid.team.grid = some g ∧ (finished (.host 0 9)).gridDone g = true ∧
    ∃ h, (finished (.graph 0 0)).grid? loneWid.team.grid = some h ∧ (finished (.graph 0 0)).gridDone h = true := ⟨_, rfl, by decide, _, rfl, by decide⟩

/-- Two requests of one pseudo-channel, a port that is up, and the other conditions of the package's events. -/
def chanReq (cls slack block : Nat) : ChanReq := { arrival := 0, cls := cls, slack := slack, block := block, charge := none, origin := .writeBack }
theorem witness_Grant : ∃ (h : Chan) (cls : Nat) (r : ChanReq), h.lent = false ∧ h.grantClass = some cls ∧
    leastDeadline ((eligibleFrom [] h.waiting).filter (fun r => r.cls == cls)) = some r ∧ r.slack ≠ 0 ∧ h.clock > r.arrival + r.slack :=
  ⟨{ Chan.idle with clock := 9, waiting := [chanReq 2 0 1, chanReq 0 3 2] }, 0, chanReq 0 3 2, rfl, by decide, by decide, by decide, by decide⟩
theorem witness_Lanes : (State.reset.chan 0).waiting = [] ∧ (State.reset.chan 1).waiting = [] ∧
    ((State.reset.updPair 0 (fun h => { h with reclaiming := true })).chan 0).reclaiming = true ∧
    2 * 0 < chanCount ∧ (State.reset.chan (2 * (0 ^^^ 1))).lent = false ∧ rowThere ⟨23, 31, 1, 0, 5⟩ = true := by decide
theorem witness_RowThreshold : rowThere ⟨23, 31, 1, 0, 5⟩ = true ∧
    ({ State.reset with rowCtr := [(⟨23, 31, 1, 0, 5⟩, 9)], record := { State.reset.record with threshold := 9 } } : State).rowCount ⟨23, 31, 1, 0, 5⟩ ≥ 9 := by decide
def ask (k : UalKind) (data : List Byte) : UalRequest := { port := 0, kind := k, addr := 0x1000, len := 64, data := data }
theorem witness_Ualink : (cellGet Port.start State.reset.ports 0).up = true ∧ ualOk (ask .read []) State.reset = true ∧
    ualOk (ask .write (List.replicate 64 1)) State.reset = true ∧ ualOk (ask .other []) State.reset = false ∧
    ualOk { ask (.atomic 9 false) (List.replicate 16 1) with len := 8 } State.reset = true ∧ State.reset.badByte 0x1000 8 = none ∧
    State.reset.badByte 0x1000 64 = none ∧ State.reset.partialRetired 0x1000 64 = none := by decide +kernel
theorem witness_UalinkWaits : ∃ s : State, (cellGet Port.start s.ports 0).up = true ∧ s.ualLate s.ualIn (ask .read []) = true :=
  ⟨{ State.reset with ualIn := [ask .read []] }, by decide +kernel, by decide +kernel⟩
theorem witness_WaitEnds : ∃ (s : State) (c : Ctx) (k : Cmd), s.ctx? 0 = some c ∧ c.asid = 0 ∧ c.runs 0 = some k ∧ k.h.cmd = 0x08 ∧
    c.stopped = false ∧ (∀ h ∈ s.stalls, h.work ≠ cmdWork 0 (hq k.h)) ∧ s.workRead c (cmdWork 0 (hq k.h)) (bodyWord k.body 0) 8 = (.ok, 0) ∧
    0 ≥ bodyWord k.body 1 :=
  ⟨idle id (ctxBy (fun c => { c with running := [(0, { h := cmdHdr 8 32 false, body := [0x3000#64, 0#64, 0#64, 0#64], step := 0 })] })), _, _, rfl, rfl, rfl, rfl, rfl,
    by decide, by decide +kernel, by decide +kernel⟩
def stopping (acks : List UnitId) : State := idle id (ctxBy (fun c => { c with stopped := true, acks := acks }))
theorem witness_Acknowledge : ∃ (s : State) (c : Ctx), s.ctx? 0 = some c ∧ c.stopped = true ∧ UnitId.issue 0 0 ∈ c.acks ∧ s.hasStopped 0 (.issue 0 0) = true :=
  ⟨stopping [.issue 0 0], _, rfl, rfl, by decide, by decide⟩

/-! ## Host commands -/

/-- A package with one context of one queue, a heap of 1 GiB, and a command of that queue. -/
def host (g : State → State) : State :=
  g { State.reset with booted := true, ctxs := [{ newCtx 0 [] with heapLimit := 2 ^ 30, statusVa := 0x8000 }] }
def cmd (n len : Nat) : CmdHeader := cmdHdr n len false
def words (l : List Nat) : List DWord := l.map (BitVec.ofNat 64)
theorem starts_host {h : CmdHeader} {b : List DWord} {g : State → State} {c : Ctx} (hs : (host g).shutdown = false ∧ (host g).recovery = false)
    (hc : (host g).ctx? (ha h) = some c) (hr : (decide (hq h < c.nq) && !c.killed && !c.stopped && (c.running.find? (fun p => p.1 == hq h)).isNone) = true) :
    Starts h b (host g) c := by
  simp only [Bool.and_eq_true, decide_eq_true_eq, Bool.not_eq_true', Option.isNone_iff_eq_none] at hr
  exact ⟨hs, hc, hr.1.1.1, hr.1.1.2, .inl hr.1.2, hr.2⟩
/-- A command that starts on a body, with what its statement asks of the body. -/
def Can (n len : Nat) (b : List Nat) (g : State → State) (p : CmdHeader → List DWord → State → Ctx → Prop) : Prop :=
  ∃ c, Starts (cmd n len) (words b) (host g) c ∧ p (cmd n len) (words b) (started (cmd n len) (words b) (host g) c) c

theorem witness_CommandWaits : ∃ (s : State) (c : Ctx) (k : Cmd), s.ctx? 0 = some c ∧ c.running.find? (fun p => p.1 == 0) = some (0, k) ∧
    s.shutdown = false ∧ s.recovery = false ∧ 0 < c.nq ∧ c.killed = false :=
  ⟨host (ctxBy (fun c => { c with running := [(0, { h := cmd 7 32, body := [], step := 0 })] })), _, _, rfl, rfl, rfl, rfl, by decide, rfl⟩
theorem witness_CommandOfKilled : ∃ (s : State) (c : Ctx), s.ctx? 0 = some c ∧ 0 < c.nq ∧ c.killed = true :=
  ⟨host (ctxBy (fun c => { c with killed := true })), _, rfl, by decide, rfl⟩

theorem witness_SetDlevel : Can 0x09 32 [1, 0, 0, 0] (id) (fun _ b _ _ => strayBody b [[(1, 0)]] = false) :=
  ⟨_, starts_host ⟨rfl, rfl⟩ rfl (by decide), by decide +kernel⟩

theorem witness_SignalCmd : Can 0x07 32 [0x3000, 0, 0, 0] (id) (fun _ b s0 c => strayBody b [[(55, 3)]] = false ∧ ∃ s1, s0.behalf c.asid (.node 0 0) (cmdWork c.asid 0) none (bodyWord b 0) true (toBytes 8 1) = .made s1) :=
  ⟨_, starts_host ⟨rfl, rfl⟩ rfl (by decide), by decide +kernel, made_of (by decide +kernel)⟩

theorem witness_WaitCmd : Can 0x08 32 [0x3000, 0, 0, 0] (id) (fun _ b s0 c => strayBody b [[(55, 3)], [(63, 0)]] = false ∧ s0.workRead c (cmdWork c.asid 0) (bodyWord b 0) 8 = (.ok, 0) ∧ (∀ x ∈ s0.stalls, x.work ≠ cmdWork c.asid 0)) :=
  ⟨_, starts_host ⟨rfl, rfl⟩ rfl (by decide), by decide +kernel, by decide +kernel, by decide +kernel⟩

theorem witness_LaunchCmd : Can 0x05 128 [0x0, 0x0, 0x0, 0x1000100010001, 0x8800020000400000, 0x0, 0x0, 0x0, 0x0, 0x0, 0x0, 0x0, 0x0, 0x0, 0x0, 0x0] (id) (fun _ b s0 c => s0.grids = [] ∧ recRefused (bodyNum b 0 16) (cellGet 0 c.qlevel 0) true = false) :=
  ⟨_, starts_host ⟨rfl, rfl⟩ rfl (by decide), rfl, by decide +kernel⟩

theorem witness_GraphNode : Can 0x06 32 [0x1000, 0, 0, 0] (poke 0x1000 64 (4 * 2 ^ 272)) (fun _ b s0 c => strayBody b [[(55, 6)], [(5, 0), (15, 8)]] = false ∧ s0.workRead c (cmdWork c.asid 0) (bodyWord b 0) 64 = (.ok, 4 * 2 ^ 272) ∧ (s0.enterNode 0 0 c.asid (BitVec.ofNat 512 (4 * 2 ^ 272))).isSome = true ∧
    nfield (bodyWord b 1) 5 0 < 48 ∧ (∀ x ∈ s0.stalls, x.work ≠ cmdWork c.asid 0)) :=
  ⟨_, starts_host ⟨rfl, rfl⟩ rfl (by decide), by decide +kernel, by decide +kernel, by decide +kernel, by decide +kernel, by decide +kernel⟩

theorem witness_PlacementSetCmd : Can 0x0C 96 [0, 0, 0, 0, 0x400000000001040, 0x0, 0x0, 0x1000800000000000, 0x18c6000200, 0x0, 0x0, 0x0] (poke 0x1040 64 tensA) (fun _ b s0 c => strayBody b ([[(11, 0)], [], [], []] ++ List.replicate 8 [(63, 0)]) = false ∧ s0.workRead c (cmdWork c.asid 0) 0x1040 64 = (.ok, tensA) ∧
    (pentryOf (BitVec.ofNat 512 (bodyNum b 4 8))).shard = 0x1040 ∧ (pentryOf (c.entry 0)).conv = false ∧ imageRefused c (BitVec.ofNat 512 (bodyNum b 4 8)) = false ∧
    shardRefused c 0 (BitVec.ofNat 512 (bodyNum b 4 8)) (BitVec.ofNat 512 tensA) = false ∧ (tensorOf (BitVec.ofNat 512 tensA).toNat).base ≠ 0 ∧ (∀ x ∈ s0.stalls, x.work ≠ cmdWork c.asid 0)) :=
  ⟨_, starts_host ⟨rfl, rfl⟩ rfl (by decide), by decide +kernel, by decide +kernel, by decide +kernel, by decide +kernel, by decide +kernel, by decide +kernel, by decide +kernel, by decide +kernel⟩

theorem witness_Trigger : Can 0x0D 64 [5, 0, 0, 0, 0x3000, 0, 0, 0] (ctxBy (fun c => { c with ring := 0x4000, ringN := 4 })) (fun _ b s0 c => strayBody b [[(15, 0)], [(63, 0)], [(47, 0)], [(31, 0)], [(55, 3)]] = false ∧ c.ringN ≠ 0 ∧ bodyWord b 3 < 10 ^ 9 ∧
    (∃ s1, s0.behalf c.asid (.node 0 0) (cmdWork c.asid 0) none 0x4004 false (toBytes 28 (triggerFields b)) = .made s1) ∧
    (∃ s2, s0.behalf c.asid (.node 0 0) (cmdWork c.asid 0) none 0x4000 false (toBytes 4 1) = .made s2) ∧ ∃ s3, s0.behalf c.asid (.node 0 0) (cmdWork c.asid 0) none (bodyWord b 4) true (toBytes 8 1) = .made s3) :=
  ⟨_, starts_host ⟨rfl, rfl⟩ rfl (by decide), by decide +kernel, by decide, by decide, made_of (by decide +kernel), made_of (by decide +kernel), made_of (by decide +kernel)⟩

theorem witness_ExpertSetCreate : Can 0x0B 64 [0x10000, 0x6400000004, 1, 0, 0, 0, 0, 0x1000] (poke 0x1000 128 0x88000200004000000001000100010001000000000000000000000000000000000000000000000000) (fun _ b s0 c => s0.expertRefused c b = false ∧ s0.workRead c (cmdWork c.asid 0) (bodyWord b 7) 128 = (.ok, 0x88000200004000000001000100010001000000000000000000000000000000000000000000000000) ∧ expertRecBad 0x88000200004000000001000100010001000000000000000000000000000000000000000000000000 = false ∧ (∀ x ∈ s0.stalls, x.work ≠ cmdWork c.asid 0)) :=
  ⟨_, starts_host ⟨rfl, rfl⟩ rfl (by decide), by decide +kernel, by decide +kernel, by decide +kernel, by decide +kernel⟩

theorem witness_ExpertSetDelete : Can 0x0B 64 [1, 0, 0, 0, 0, 0, 0, 0] (id) (fun _ b _ c => strayBody b [[(1, 0)]] = false ∧ c.experts = none) :=
  ⟨_, starts_host ⟨rfl, rfl⟩ rfl (by decide), by decide +kernel, rfl⟩

theorem witness_ProcRegister : Can 0x0A 192 [0x300, 0x40000000, 0x200000000, 0x50000000, 0x1, 0x0, 0x0, 0x0, 0x0, 0x0, 0x0, 0x1000100010001, 0x8800020000400000, 0x0, 0x0, 0x0, 0x0, 0x0, 0x0, 0x0, 0x0, 0x0, 0x0, 0x0] (id) (fun _ b s0 c => s0.procRefused c b = false) :=
  ⟨_, starts_host ⟨rfl, rfl⟩ rfl (by decide), by decide +kernel⟩

theorem witness_ProcReset : Can 0x0A 192 [0x302, 0, 0, 0, 0, 0, 2, 0, 0, 0, 0, 0, 0, 0, 0, 0, 0, 0, 0, 0, 0, 0, 0, 0] (ctxBy (fun c => { c with procs := [(3, proc0)] })) (fun _ b _ c => nfield (bodyWord b 0) 13 8 = 3 ∧ c.proc? 3 = some proc0 ∧ strayBody b [[(1, 0), (13, 8)], [], [], [], [], [(31, 0)], [(31, 0)]] = false ∧ bodyWord b 5 + bodyWord b 6 ≤ proc0.nblk ∧ bodyWord b 6 ≠ 0) :=
  ⟨_, starts_host ⟨rfl, rfl⟩ rfl (by decide), by decide +kernel, by decide +kernel, by decide +kernel, by decide +kernel, by decide +kernel⟩

theorem witness_ProcDeregister : Can 0x0A 192 [0x301, 0, 0, 0, 0, 0, 0, 0, 0, 0, 0, 0, 0, 0, 0, 0, 0, 0, 0, 0, 0, 0, 0, 0] (ctxBy (fun c => { c with procs := [(3, proc0)] })) (fun _ b s0 c => c.proc? 3 = some proc0 ∧ strayBody b [[(1, 0), (13, 8)]] = false ∧ ∀ q ∈ proc0.blocks, s0.blockBusy c.asid 3 q.1 q.2 = false) :=
  ⟨_, starts_host ⟨rfl, rfl⟩ rfl (by decide), by decide +kernel, by decide +kernel, by decide +kernel⟩

theorem witness_PreemptStop : Can 0x0E 32 [0, 0, 0, 0] (id) (fun _ b s0 c => strayBody b [[(0, 0)]] = false ∧ c.stopped = false ∧ s0.unitsOf c.asid = []) :=
  ⟨_, starts_host ⟨rfl, rfl⟩ rfl (by decide), by decide +kernel, rfl, by decide +kernel⟩

theorem witness_PreemptBusy : (idle id id).unitsOf 0 ≠ [] ∧ (stopping []).ctxs.all (fun c => c.stopped && c.acks.isEmpty) = true := by decide

theorem witness_Map : Can 0x03 32 [0x400000000000, 0x100000, 1, 0] (id) (fun _ b s0 c => strayBody b [[(55, 16)], [(51, 13)], [(31, 0)], [(4, 0)]] = false ∧ bodyWord b 0 % 2 ^ pageBits 0 = 0 ∧ s0.tableFor (bodyWord b 0) 0 0 c.ptroot.toNat = .at 0 ∧
    (∀ a ∈ ({ level := 0, va := bodyWord b 0, count := 1, table := 0 } : PteOp).addrs, s0.backed a = true ∧ s0.badByte a 8 = none ∧ s0.partialRetired a 8 = none ∧
      s0.pteAt 0 a = .invalid false) ∧ inDevice (bodyWord b 1) 8192 = true ∧ s0.touchesRemoved (bodyWord b 1) 8192 = false ∧
    overlaps (bodyWord b 0) (2 ^ 46) c.heapBase.toNat c.heapLimit.toNat = false ∧ overlaps (bodyWord b 0) (2 ^ 46) c.spillVa (c.spillSz * 2 ^ 16) = false ∧ c.procs = []) :=
  ⟨_, starts_host ⟨rfl, rfl⟩ rfl (by decide), by decide +kernel, by decide +kernel, by decide +kernel, by decide +kernel, by decide +kernel, by decide +kernel, by decide +kernel, by decide +kernel, rfl⟩

theorem witness_Unmap : Can 0x04 32 [0x400000000000, 0, 1, 0x20] (poke 8 8 0x100001) (fun _ b s0 c => strayBody b [[(55, 16)], [], [(31, 0)], [(1, 0), (5, 5)]] = false ∧ s0.tableFor (bodyWord b 0) 0 0 c.ptroot.toNat = .at 0 ∧
    (∀ a ∈ ({ level := 0, va := bodyWord b 0, count := 1, table := 0 } : PteOp).addrs, s0.backed a = true ∧ s0.badByte a 8 = none ∧ s0.partialRetired a 8 = none ∧
      s0.pteAt 0 a ≠ .invalid false) ∧ s0.inFlight c.asid (bodyWord b 0) (2 ^ 46) [] = false) :=
  ⟨_, starts_host ⟨rfl, rfl⟩ rfl (by decide), by decide +kernel, by decide +kernel, by decide +kernel, by decide +kernel⟩

theorem witness_RetentionRemove : Can 0x0F 32 [0x100, 0x4000000000000, 0, 0] (fun s => ctxBy (fun c => { c with heapLimit := 0 }) s) (fun _ b s0 _ => retBad b = false ∧ s0.layers = [] ∧ s0.rangeUsed (retLayer b * layerBytes) layerBytes = false ∧ s0.anyBad (retLayer b * layerBytes) layerBytes = false) :=
  ⟨_, starts_host ⟨rfl, rfl⟩ rfl (by decide), by decide +kernel, rfl, by decide +kernel, by decide +kernel⟩

theorem witness_RetentionRestore : Can 0x0F 32 [0x101, 0x4000000000000, 0, 0] (fun s => { s with layers := [{ layer := 1, tier := 2 ^ 50 }] }) (fun _ b s0 _ => retBad b = false ∧ { layer := retLayer b, tier := retTier b } ∈ s0.layers ∧ s0.anyBad (retTier b) layerBytes = false) :=
  ⟨_, starts_host ⟨rfl, rfl⟩ rfl (by decide), by decide +kernel, by decide +kernel, by decide +kernel⟩

theorem witness_CtxCreate : State.reset.recovery = false ∧ State.reset.freeAsid = some 0 ∧ State.reset.ctxRefused (words [0, 0, 0, 0, 0, 1073741824, 9216, 0, 0, 0, 0, 0, 64, 0, 0, 0, 0, 0, 0, 0, 0, 0, 0, 0]) = false ∧
    State.reset.rankTable (newCtx 0 (words [0, 0, 0, 0, 0, 1073741824, 9216, 0, 0, 0, 0, 0, 64, 0, 0, 0, 0, 0, 0, 0, 0, 0, 0, 0])) 0 1 = some [] := by decide +kernel
theorem witness_CtxDestroy : ∃ c, (host id).ctx? (ha (cmd 2 32)) = some c ∧ (host id).recovery = false := ⟨_, rfl, rfl⟩
theorem witness_PreemptResume : ∃ c, (stopping []).ctx? (ha (cmd 0x0E 32)) = some c ∧ (stopping []).recovery = false ∧ c.killed = false ∧ c.stopped = true ∧
    c.acks = [] ∧ strayBody (words [1, 0, 0, 0]) [[(0, 0)]] = false := ⟨_, rfl, rfl, rfl, rfl, rfl, by decide⟩
theorem witness_QueryPackage : (cmdHdr 0x10 32 true).pkg = true ∧ queryBad 0 [] (words [0, 0, 0, 0]) = false ∧ queryBad 1 [(63, 0)] (words [1, 5, 0, 0]) = false ∧
    queryBad 2 [] (words [2, 0, 0, 0]) = false ∧ queryBad 5 [] (words [5, 0, 0, 0]) = false := by decide

theorem witness_QueryBlocks : Can 0x10 32 [3, 3, 0, 0] (ctxBy (fun c => { c with procs := [(3, proc0)] })) (fun _ b _ c => queryBad 3 [(5, 0), (63, 32)] b = false ∧ c.proc? (nfield (bodyWord b 1) 5 0) = some proc0) :=
  ⟨_, starts_host ⟨rfl, rfl⟩ rfl (by decide), by decide +kernel, by decide +kernel⟩

theorem witness_QueryGraph : Can 0x10 32 [4, 0, 0, 0] (id) (fun _ b _ _ => queryBad 4 [] b = false) :=
  ⟨_, starts_host ⟨rfl, rfl⟩ rfl (by decide), by decide +kernel⟩

theorem witness_QuerySummary : Can 0x10 32 [6, 0, 0, 0] (id) (fun _ b s0 c => queryBad 6 [] b = false ∧ s0.workRead c (cmdWork c.asid 0) c.statusVa 64 = (.ok, 0) ∧ (∀ x ∈ s0.stalls, x.work ≠ cmdWork c.asid 0)) :=
  ⟨_, starts_host ⟨rfl, rfl⟩ rfl (by decide), by decide +kernel, by decide +kernel, by decide +kernel⟩

end Sys2Proof.Tests
end

section
/-!
SUPPORT. Every instruction that a slot holds is the issue of its own effect under the header of its slot; and what `issue` answers where a
check stops the instruction, or where its effect jumps or traps.
-/
namespace Sys2Proof.Machine

/-! ### Issue: the header of a slot, and the ends of an issue -/

theorem getHdr_encR (o : Nat) (f : FmtR) : getHdr (encR o f) = f.h := congrArg FmtR.h (getR_encR o f)
theorem getHdr_encI (o : Nat) (f : FmtI) : getHdr (encI o f) = f.h := congrArg FmtI.h (getI_encI o f)
theorem getHdr_encM (o : Nat) (f : FmtM) : getHdr (encM o f) = f.h := congrArg FmtM.h (getM_encM o f)
theorem getHdr_encX (o : Nat) (f : FmtX) : getHdr (encX o f) = f.h := congrArg FmtX.h (getX_encX o f)
theorem getHdr_encB (o : Nat) (f : FmtB) : getHdr (encB o f) = f.h := congrArg FmtB.h (getB_encB o f)
theorem getHdr_encW (o : Nat) (f : FmtW) : getHdr (encW o f) = f.h := congrArg FmtW.h (getW_encW o f)

/-- An instruction that issues under the header of the slot that the encoder writes for it. -/
theorem issued_of_header {i : Instr} {h : Hdr} {e k : Slot} {body : Iss → State → Res} (he : getHdr e = h) (hk : some e = some k)
    (hx : ∀ s, exec i s = issue i h body s) : ∃ body, ∀ s, exec i s = issue i (getHdr k) body s := by
  cases hk
  exact ⟨body, fun s => by rw [hx, he]⟩

/-- Every instruction that a slot holds, but for an unassigned code point, is the issue of an effect of its own (R92). -/
theorem exec_eq_issue {i : Instr} {k : Slot} (hk : encode i = some k) (hu : ∀ u, i ≠ .unassignedCodePoint u) :
    ∃ body, ∀ s, exec i s = issue i (getHdr k) body s := by
  cases i with
  | nop f | exit f | yield f | launch f | andR f | bfi f | bfx f | brev f | bsel f | clz f | iabs f | iadd f | icmp f | idiv f | imad f
  | imax f | imin f | imul f | imulh f | irem f | isub f | movFirst f | mov f | orR f | popc f | rot f | sel f | shl f | shr f | sra f
  | xorR f | cvt f | fadd f | fcmp f | fcos f | fdiv f | fexp2 f | ffma f | flog2 f | fmax f | fmin f | fmul f | frcp f | frnd f
  | frsq f | fsin f | fsqrt f | fsub f | ftsum f | pfma f | leafx f | barArv f | bar f | decp f | dect f | lred f | matchR f | qpop f
  | qpush f | racq f | rrel f | slane f | vpoll f | xdeq f | xenq f | xstatFlush f | xstatReset f | xstatQuery f | bkpt f | gfail f
  | gfin f | merge f | rtt f =>
    exact issued_of_header (getHdr_encR _ f) hk (fun _ => rfl)
  | moviHi f | movi f | andImm f | iaddImm f | icmpImm f | idivImm f | imaxImm f | iminImm f | imulImm f | imulhImm f | iremImm f
  | isubImm f | orImm f | rotImm f | shlImm f | shrImm f | sraImm f | xorImm f | faddImm f | fcmpImm f | fdivImm f | fmaxImm f
  | fminImm f | fmulImm f | fsubImm f | sreg f | swr f | trap f =>
    exact issued_of_header (getHdr_encI _ f) hk (fun _ => rfl)
  | agen f | ld f | st f | atom f | cas f | fenceWalk f | fence f | cflush f | pref f | mcst f | ctest f | cwait f =>
    exact issued_of_header (getHdr_encM _ f) hk (fun _ => rfl)
  | facc f | tex f | texqRead f | texq f | trace f | pldRed f | pldConv f | coll f | copy f | csigNode f | csig f | gath f | node f
  | placeGet f | placeSet f | scatAdd f | scat f | mdrn f | mmac f | mwl f | mzero f | vxm f =>
    exact issued_of_header (getHdr_encX _ f) hk (fun _ => rfl)
  | bra f | bru f | call f | ret f | jmpi f | rcvset f | rcv f =>
    exact issued_of_header (getHdr_encB _ f) hk (fun _ => rfl)
  | muel f | wadd f | wdot f | wexp f | wfma f | wmul f | wscal f | wspan f | wsum f =>
    exact issued_of_header (getHdr_encW _ f) hk (fun _ => rfl)
  | unassignedCodePoint u => exact absurd rfl (hu u)
  | _ => cases hk

theorem opcOfInstr_eq {i : Instr} {k : Slot} (hk : encode i = some k) : opcOfInstr i = opcOf k := by
  simp only [opcOfInstr, hk]

/-- The group that issues, its wave being there. -/
theorem issue_eq {i : Instr} {h : Hdr} {s : State} {c : Cur} {w : Wave} (body : Iss → State → Res) (hc : s.cur = some c)
    (hw : s.wave? c.wid = some w) : issue i h body s = .next (drained s (issueAt i h body c w s)) := by
  simp only [issue, hc, hw]
  rfl

/-- An operand that breaks the rules of operands, whatever the guards are (R84, R92). -/
theorem issueAt_operandFault {i : Instr} {h : Hdr} {s : State} {c : Cur} {w : Wave} {code : Nat} (body : Iss → State → Res)
    (hf : operandFault i w = some code) : issueAt i h body c w s = s.raisePrecise c.wid cIllegalOperand c.lanes code := by
  simp only [issueAt, hf]

/-- No thread of the group has a true guard (R74). -/
theorem issueAt_guardsFalse {i : Instr} {h : Hdr} {s : State} {c : Cur} {w : Wave} (body : Iss → State → Res)
    (hf : operandFault i w = none) (hg : (lanesOf c.lanes).filter (guardTrue h w) = []) :
    issueAt i h body c w s = advance s c.wid (lanesOf c.lanes) c.pc := by
  have hall : (lanesOf c.lanes).filter (fun l => !([] : List Nat).contains l) = lanesOf c.lanes :=
    List.filter_eq_self.mpr (fun _ _ => by simp)
  simp only [issueAt, hf, hg, List.isEmpty_nil, if_true, finish, hall]

/-- The role of the wave may not issue the instruction (R49). -/
theorem issueAt_roleRefused {i : Instr} {h : Hdr} {s : State} {c : Cur} {w : Wave} (body : Iss → State → Res)
    (hf : operandFault i w = none) (hg : (lanesOf c.lanes).filter (guardTrue h w) ≠ []) (hr : s.roleRefused i w = true) :
    issueAt i h body c w s = s.raisePrecise c.wid cRole (maskOf ((lanesOf c.lanes).filter (guardTrue h w))) (opcOfInstr i) := by
  have hne : ((lanesOf c.lanes).filter (guardTrue h w)).isEmpty = false := by simpa using hg
  simp only [issueAt, hf, hne, hr, Bool.false_eq_true, if_false, if_true]

/-- An instruction with nothing in its way whose effect sets the PCs of its group. -/
theorem issue_jump {i : Instr} {h : Hdr} {s s' : State} {x : Iss} (body : Iss → State → Res) (H : Issues i h s x)
    (hb : body x s = .jump s') : issue i h body s = .next (jumped x s s') := by
  rw [issue_clear body H, hb]
  rfl

/-- An instruction with nothing in its way whose effect raises a cause. -/
theorem issue_trap {i : Instr} {h : Hdr} {s : State} {x : Iss} {cause : Nat} {mask : LaneMask} {addr : Nat}
    (body : Iss → State → Res) (H : Issues i h s x) (hb : body x s = .trap cause mask addr) :
    issue i h body s = .next (drained s (s.raisePrecise x.wid cause mask addr)) := by
  rw [issue_clear body H, hb]
  rfl

/-! ### The checks at issue, and roles -/

/-- Settles O11: each clause is one check of `issueAt`, for the effect that the instruction issues. -/
theorem issueChecks : Obligations.IssueChecks := by
  unfold Obligations.IssueChecks
  refine ⟨?guards, ?operands, ?roles⟩
  case guards =>
    intro i k s c w hk hu hc hw hf hg
    obtain ⟨body, hx⟩ := exec_eq_issue hk hu
    rw [hx, issue_eq body hc hw, issueAt_guardsFalse body hf hg]
  case operands =>
    intro i k s c w code hk hu hc hw hf
    obtain ⟨body, hx⟩ := exec_eq_issue hk hu
    rw [hx, issue_eq body hc hw, issueAt_operandFault body hf]
  case roles =>
    intro i k s c w hk hu hc hw hf hg hr
    obtain ⟨body, hx⟩ := exec_eq_issue hk hu
    rw [hx, issue_eq body hc hw, issueAt_roleRefused body hf hg hr, opcOfInstr_eq hk]

/-- What R49's table and a ring's configuration leave of a ring instruction in a wave that is not `GENERAL` (R51). -/
theorem roleRefused_ring {s : State} {w : Wave} {t : Team} (f : FmtR) (ht : s.team? w.id.team = some t) (hr : w.role ≠ .general) :
    let c := t.rings.getD (f.fn.toNat % 8) (ringOfWord 0)
    let side := if f.fn.toNat / 8 % 2 = 0 then c.prod else c.cons
    (s.roleRefused (.racq f) w = true ↔ c.n > 0 ∧ side ≠ w.role.code) ∧
    (s.roleRefused (.rrel f) w = true ↔ c.n > 0 ∧ side ≠ w.role.code) := by
  constructor <;> simp [State.roleRefused, roleOk, ht, hr]

/-- Settles O12: the rows of R49 role by role, and R51 for the rings. -/
theorem rolesAsTabled : Obligations.RolesAsTabled := by
  unfold Obligations.RolesAsTabled
  intro f g r
  have rings := fun (s : State) (w : Wave) (t : Team) => roleRefused_ring (s := s) (w := w) (t := t) g
  cases r <;> simpa [roleOk] using rings

end Sys2Proof.Machine
end

section
/-!
SUPPORT. The join barriers (R40, R41), and what shared effects of a team that is not redundant, child grids, hardware queues and stage rings
come to (R28, R29, R52, R440, R441, R466 to R469).
-/
namespace Sys2Proof.Machine

/-! ### Join barriers -/

/-- A wait at join barrier `j` (R41). -/
def Wait.atJoin (j : Nat) : Wait → Bool
  | .rcv k _ => k == j
  | _ => false

/-- `RCVSET` traps where a thread waits on its barrier, and arms the barrier where none does (R40). -/
theorem semRcvset_eq (f : FmtB) (x : Iss) (s : State) :
    semRcvset f x s = if x.w.lanes.any (fun l => (x.w.thread l).waits x.w.tlevel (Wait.atJoin f.j.toNat))
      then .trap cIllegalOperand x.actMask f.j.toNat
      else .go (s.updWave x.wid (fun w => w.setJoin f.j.toNat { w.join f.j.toNat with
        exp := x.actMask, arr := 0, ext := 0, brk := false })) [] := rfl

/-- `RCVSET` with no thread waiting on the barrier. -/
theorem semRcvset_idle {f : FmtB} {x : Iss}
    (hw : ∀ l ∈ x.w.lanes, (x.w.thread l).waits x.w.tlevel (Wait.atJoin f.j.toNat) = false) (s : State) :
    semRcvset f x s = .go (s.updWave x.wid (fun w => w.setJoin f.j.toNat { w.join f.j.toNat with
      exp := x.actMask, arr := 0, ext := 0, brk := false })) [] := by
  rw [semRcvset_eq, any_false hw, if_neg Bool.false_ne_true]

/-- `RCVSET` with a thread waiting on the barrier. -/
theorem semRcvset_waited {f : FmtB} {x : Iss}
    (hw : ∃ l ∈ x.w.lanes, (x.w.thread l).waits x.w.tlevel (Wait.atJoin f.j.toNat) = true) (s : State) :
    semRcvset f x s = .trap cIllegalOperand x.actMask f.j.toNat := by
  rw [semRcvset_eq, List.any_eq_true.mpr hw, if_pos rfl]

/-- Settles O30: `RCVSET` by whether a thread waits on its barrier, `RCV` by whether a thread stays at it. -/
theorem joinBarriers : Obligations.JoinBarriers := by
  unfold Obligations.JoinBarriers
  intro f s x
  refine ⟨?arm, ?armed, ?pass, ?wait⟩
  case arm => exact fun H hw => issue_go (semRcvset f) H (semRcvset_idle hw s)
  case armed => exact fun H hw => ⟨_, issue_trap (semRcvset f) H (semRcvset_waited hw s)⟩
  case pass =>
    intro H hstay
    refine issue_jump (semRcv f) H ?_
    simp only [semRcv, hstay, List.isEmpty_nil, if_true]
  case wait =>
    intro H hstay
    refine issue_jump (semRcv f) H ?_
    have hne := List.isEmpty_eq_false_iff.mpr hstay
    simp only [semRcv, hne, Bool.false_eq_true, if_false]

/-! ### Effects of a team that is not redundant -/

/-- A team that is not redundant performs a shared effect by itself (R301). -/
theorem together_alone {x : Iss} {s : State} {t : Team} (h : alone x s t) (i : Instr) (operands : List Nat)
    (act : Iss → State → Res) : together i operands act x s = act x s := by
  obtain ⟨ht, hr⟩ := h
  unfold together
  rw [ht]
  cases s.wave? (twinOf x.wid) with
  | none => rfl
  | some wb => simp only [hr, Bool.not_false, if_true]

/-- Outside a handler the check of R340 lets an instruction go on. -/
theorem outsideHandler_zero {x : Iss} (h : x.w.tlevel = 0) (go : Unit → Res) : outsideHandler x go = go () := by
  unfold outsideHandler
  exact if_neg (by omega)

/-! ### `LAUNCH` -/

/-- The team leader of R28. -/
theorem roleRefused_launch {s : State} {w : Wave} {t : Team} (f : FmtR) (ht : s.team? w.id.team = some t) :
    s.roleRefused (.launch f) w = false ↔ (if t.hasLead = true then w.isLead = true else w.id.wave = 0) := by
  cases hl : t.hasLead <;> simp [State.roleRefused, roleOk, ht, hl]

/-- `LAUNCH` of a team that is not redundant, its operands and its record accepted (R440, R441). -/
theorem semLaunch_accepted {f : FmtR} {x : Iss} {s : State} {t : Team} {g : Grid} {a b r : Nat} (ha : x.uval f.a 2 = a)
    (hb : (if f.b.toNat = 511 then 0 else x.uval f.b 2) = b) (hal : alone x s t) (hg : s.grid? x.wid.team.grid = some g)
    (huni : x.uniformFaults ((f.a, 2) :: (if f.b.toNat = 511 then [] else [(f.b, 2)])) = none)
    (ha0 : a ≠ 0) (ha64 : a % 64 = 0) (hb0 : f.b.toNat ≠ 511 → b ≠ 0) (hb8 : b % 8 = 0)
    (hr : s.uload x a 128 = .ok r) (hrec : recRefused r g.level false = false) (hd : g.depth < 10) :
    semLaunch f x s = launchChild f r b g x s := by
  have hnull : ¬ (a == 0 || (f.b.toNat != 511 && b == 0)) = true := by simpa [ha0] using hb0
  have hdepth : ¬ g.depth ≥ 10 := by omega
  simp only [semLaunch, beq_iff_eq, ha, hb, huni, if_neg hnull, ha64, hb8, hr, hg, hrec, if_neg hdepth, together_alone hal, bne_self_eq_false,
    Bool.false_eq_true, if_false]

/-- Settles O31: the role check of R28, then the child grid of R441. -/
theorem launchMakesChild : Obligations.LaunchMakesChild := by
  unfold Obligations.LaunchMakesChild
  refine ⟨?leader, ?child⟩
  case leader =>
    intro f k s c w t hk hc hw ht hf hg
    refine ⟨(roleRefused_launch f ht).mpr, fun hn => ?_⟩
    have hr : s.roleRefused (.launch f) w = true := by
      rw [← Bool.not_eq_false]
      exact fun h => hn ((roleRefused_launch f ht).mp h)
    have hrole := issueAt_roleRefused (semLaunch f) hf hg hr
    rw [opcOfInstr_eq hk] at hrole
    exact (issue_eq (semLaunch f) hc hw).trans (by rw [hrole])
  case child =>
    intro f s x t g r a b H hal hg huni ha0 ha64 hb0 hb8 hr hrec hd
    exact issue_go (semLaunch f) H (semLaunch_accepted rfl rfl hal hg huni ha0 ha64 hb0 hb8 hr hrec hd)

/-! ### Hardware queues -/

/-- `QPUSH` of a team that is not redundant into a queue with room (R466, R467). -/
theorem semQpush_room {f : FmtR} {x : Iss} {s : State} {t : Team} {c : Ctx} (hal : alone x s t) (hc : s.ctx? (asidOf x.wid) = some c)
    (hq : c.queueSize f.fn.toNat ≠ 0)
    (hroom : (c.queue f.fn.toNat).length + (x.lanes.map (fun l => BitVec.ofNat 64 (x.rd l f.a 2))).length ≤ c.queueSize f.fn.toNat) :
    semQpush f x s = .go (s.queuePut (asidOf x.wid) f.fn.toNat (x.lanes.map (fun l => BitVec.ofNat 64 (x.rd l f.a 2)))) [] := by
  have hfit := Nat.not_lt.mpr hroom
  simp only [semQpush, hc, beq_iff_eq, if_neg hq, together_alone hal, gt_iff_lt, if_neg hfit]

/-- `QPOP` of a team that is not redundant from a queue that holds an entry (R466, R467). -/
theorem semQpop_entry {f : FmtR} {x : Iss} {s : State} {t : Team} {c : Ctx} (hal : alone x s t) (hc : s.ctx? (asidOf x.wid) = some c)
    (hq : c.queueSize f.fn.toNat ≠ 0) (hne : c.queue f.fn.toNat ≠ []) :
    semQpop f x s = .go (claimPops f x f.fn.toNat x.lanes (c.queue f.fn.toNat) s) [] := by
  simp only [semQpop, hc, beq_iff_eq, if_neg hq, together_alone hal, List.isEmpty_iff, if_neg hne]

/-! ### Stage rings -/

/-- The side of a ring that an instruction names: the consumer's where set (R51). -/
def ringSide (f : FmtR) : Bool := f.fn.toNat / 8 % 2 == 1

/-- Where a wave keeps its position on a side of a ring. -/
def ringKey (f : FmtR) : Nat := 2 * (f.fn.toNat % 8) + (if ringSide f then 1 else 0)

/-- A wave's position on a side of a ring after the slot at `pos`: the next slot, with the other phase after the ring's end (R52). -/
def RingCfg.nextPos (c : RingCfg) (pos : Nat) : Nat := if pos / 2 + 1 ≥ c.n then 1 - pos % 2 else 2 * (pos / 2 + 1) + pos % 2

/-- A slot after one more wave of the side `cons` has released it: with the last one it changes hands (R52, R469). -/
def RingSlot.release (b : RingSlot) (c : RingCfg) (cons : Bool) (wave : Nat) : RingSlot :=
  let done := b.done ++ [wave]
  if done.length ≥ (if cons then c.c else c.p) then { full := !cons, ph := if cons then !b.ph else b.ph, done := [] }
  else { b with done := done }

/-- `RACQ` outside a handler, the wave's next slot ready (R52, R468). -/
theorem semRacq_ready {f : FmtR} {x : Iss} {s : State} {t : Team} {pos : Nat} (hl : x.w.tlevel = 0) (ht : s.team? x.wid.team = some t)
    (hn : (ringOf t f).n ≠ 0) (hp : cellGet 0 x.w.ring (ringKey f) = pos)
    (hr : ringReady (t.slot (f.fn.toNat % 8) (pos / 2)) (ringSide f) (pos % 2 == 1) = true) :
    semRacq f x s = .go (s.updWave x.wid (fun w =>
      ({ w with ring := cellSet 0 w.ring (ringKey f) ((ringOf t f).nextPos pos) }).writeReg x.first f.d.toNat 2 (pos / 2))) [] := by
  subst hp
  have hcfg : ¬ ((ringOf t f).n == 0) = true := by simpa using hn
  rw [semRacq, outsideHandler_zero hl]
  simp only [ht]
  rw [if_neg hcfg]
  refine if_neg ?_
  rw [Bool.not_eq_true, Bool.not_eq_false']
  exact hr

/-- `RREL` outside a handler of a slot that the wave's side holds and that the wave has not released yet (R52, R468, R469). -/
theorem semRrel_counts {f : FmtR} {x : Iss} {s : State} {t : Team} {k : Nat} {b : RingSlot} (hl : x.w.tlevel = 0)
    (ht : s.team? x.wid.team = some t) (hn : (ringOf t f).n ≠ 0) (hk : x.rd x.first f.a 2 = k) (hkn : k < (ringOf t f).n)
    (hb : t.slot (f.fn.toNat % 8) k = b) (hfull : b.full = ringSide f) (hdone : x.wid.wave ∉ b.done) :
    semRrel f x s = .go (s.updTeam t.id (fun u => { u with
      ringSlots := cellSet RingSlot.none u.ringSlots (16 * (f.fn.toNat % 8) + k) (b.release (ringOf t f) (ringSide f) x.wid.wave) })) [] := by
  subst hk hb
  have hcfg : ¬ ((ringOf t f).n == 0) = true := by simpa using hn
  rw [semRrel, outsideHandler_zero hl]
  simp only [ht]
  rw [if_neg hcfg]
  refine if_neg ?_
  rw [show (f.fn.toNat / 8 % 2 == 1) = ringSide f from rfl, hfull]
  simpa [hdone] using hkn

/-- Settles O34: the queues of a team that is not redundant, then the two sides' instructions of a ring. -/
theorem queuesAndRings : Obligations.QueuesAndRings := by
  unfold Obligations.QueuesAndRings
  refine ⟨?queues, ?rings⟩
  case queues =>
    intro f s x t c q vals hal hc hq
    exact ⟨fun H hroom => issue_go (semQpush f) H (semQpush_room hal hc hq hroom),
      fun H hne => issue_go (semQpop f) H (semQpop_entry hal hc hq hne)⟩
  case rings =>
    intro f s x t n cons c key pos k b done hl ht hid hn
    exact ⟨fun H hready => issue_go (semRacq f) H (semRacq_ready hl ht hn rfl hready),
      fun H hk hfull hmem => issue_go (semRrel f) H (semRrel_counts hl ht hn rfl hk rfl hfull hmem)⟩

end Sys2Proof.Machine
end

section
/-!
SUPPORT. The events of a wave (R34, R41, R44, R284, R333, R334, R347), the exchange of the active set (R283), and the placement and the
retirement of teams and grids (R30, R271, R279, R280, R441).
-/
namespace Sys2Proof.Machine

/-! ### The end of an event that changes waves alone -/

/-- A step that changes only waves leaves memory as it was. -/
theorem drained_waves {s s' : State} (hq : s.stores = []) (h : s' = { s with waves := s'.waves }) : drained s s' = s' := by
  rw [h]
  simp [drained, hq]

/-- The end of an event whose effect is known. -/
theorem commit_eq {s u v : State} (h : u = v) : commit s u = .next (drained s v) := by
  rw [h]
  rfl

/-- A step that updates one wave changes nothing else. -/
theorem onlyWave_updWave {s : State} (wid : WaveId) {f : Wave → Wave} (hf : ∀ w, (f w).id = w.id) (hq : s.stores = []) :
    OnlyWave s (drained s (s.updWave wid f)) wid := by
  rw [drained_waves hq rfl]
  exact ⟨rfl, fun k hk => State.wave?_updWave_ne f hf hk, fun _ => rfl⟩

/-! ### The events of a wave -/

@[simp] theorem Wave.moved_id (w : Wave) (k : Nat) : (w.moved k).id = w.id := by
  unfold Wave.moved
  split <;> rfl

theorem Wave.moved_eq (w : Wave) (k : Nat) : w.moved k = if k ∈ w.moves then
    { w with moves := w.moves.filter (· != k), resident := w.resident || (w.active && (w.moves.filter (· != k)).isEmpty) } else w := by
  unfold Wave.moved
  simp only [List.contains_iff_mem]

@[simp] theorem Wave.stopSkid_id (w : Wave) (n : Nat) : (w.stopSkid n).id = w.id := by
  unfold Wave.stopSkid
  generalize BitVec.ofNat 64 _ = tskid
  rfl

/-- A wave where every wave is updated in the same way. -/
theorem State.wave?_mapWaves (s : State) (f : Wave → Wave) (hf : ∀ w, (f w).id = w.id) (k : WaveId) :
    ({ s with waves := s.waves.map f } : State).wave? k = (s.wave? k).map f := by
  simp only [State.wave?, List.find?_map, Function.comp_def, hf]

/-- The fairness count reaches its bound (R34). -/
theorem expireFairness_due {s : State} {wid : WaveId} {w : Wave} {c : Ctx} (hw : s.wave? wid = some w) (hc : s.ctx? (asidOf wid) = some c)
    (h : w.fair ≥ c.f) : expireFairness wid s = s.updWave wid (fun w => { w with bpc := oldestPc w (s.readyLanes w), fair := 0 }) := by
  simp only [expireFairness, hw, hc, if_pos h]

/-- A join barrier expires (R41). -/
theorem expireJoin_due {s : State} {wid : WaveId} {w : Wave} {j : Nat} (hw : s.wave? wid = some w) (h : (w.join j).expires = true) :
    expireJoin wid j s = s.updWave wid (fun w =>
      (w.joinGo j true).setJoin j { w.join j with arr := 0, brk := true, bnd := 0, cnt := 0, wdc := 0, young := false }) := by
  simp only [expireJoin, hw, h, Bool.not_true, Bool.false_eq_true, if_false]

/-- The watchdog of a join barrier runs out (R347). -/
theorem raiseWatchdog_due {s : State} {wid : WaveId} {w : Wave} {c : Ctx} {j : Nat} (hw : s.wave? wid = some w)
    (hc : s.ctx? (asidOf wid) = some c) (h : (w.join j).overdue c.wd = true) :
    raiseWatchdog wid j s = (s.updWave wid (fun w => w.setJoin j { w.join j with wdc := 0 })).postCause wid.team (some wid.wave)
      cWatchdog j (w.join j).arr := by
  simp only [raiseWatchdog, hw, hc, h, Bool.not_true, Bool.false_eq_true, if_false]

/-- The first move of a wave is over for every wave that takes part in it (R284). -/
theorem moveDone_head {s : State} {wid : WaveId} {w : Wave} {m : Nat} (hw : s.wave? wid = some w) (hm : w.moves.head? = some m) :
    moveDone wid s = { s with waves := s.waves.map (fun w => w.moved m) } := by
  obtain ⟨ms, hms⟩ := List.head?_eq_some_iff.mp hm
  simp only [moveDone, hw, hms]

/-- A run state parked on a miss that has resolved (R44). -/
def Run.isResolved : Run → Bool
  | .parked _ _ r => r == .resolved
  | _ => false

/-- The threads of a wave that stand with that of lane `l` at its instruction, their misses resolved (R44; log 20). -/
def Wave.resolvedWith (w : Wave) (l : Nat) : List Nat :=
  w.lanes.filter (fun k => (w.thread k).pc == (w.thread l).pc && (w.thread k).run.isResolved)

/-- A thread whose miss resolved is ready, with those that stand with it (R44). -/
theorem reexecute_resolved {s : State} {wid : WaveId} {w : Wave} {l va : Nat} {on : List MissOn} (hw : s.wave? wid = some w)
    (hlive : s.liveWave w = true) (hhalt : w.halt ≠ .stopped) (hrun : (w.thread l).run = .parked on va .resolved) :
    reexecute wid l s =
      (s.updWave wid (fun v => v.updThreads (w.resolvedWith l) (fun _ t => { t with run := .ready }))).settle wid := by
  have hgo : ¬ (!s.liveWave w || w.halt == .stopped) = true := by simp [hlive, hhalt]
  simp only [reexecute, hw, if_neg hgo, hrun]
  rfl

/-- A skid ends in a stop (R334). -/
theorem stopInSkid_onlyWave {s : State} {wid : WaveId} {w : Wave} {n : Nat} (hq : s.stores = []) (hw : s.wave? wid = some w)
    (h : w.halt = .skid n) :
    (drained s (stopInSkid wid s)).wave? wid = some (w.stopSkid n) ∧ OnlyWave s (drained s (stopInSkid wid s)) wid := by
  have hid : ∀ v : Wave, (match v.halt with | .skid n => v.stopSkid n | _ => v).id = v.id := by
    intro v
    split
    · exact v.stopSkid_id _
    · rfl
  refine ⟨?_, onlyWave_updWave wid hid hq⟩
  refine (State.wave?_updWave_self _ hid hw).trans ?_
  rw [h]

/-- The next cause that is pending reaches the wave that it goes to (R333). -/
theorem deliverCause_next {s : State} {tid : TeamId} {t : Team} {p : Pending} {ps : List Pending} {k : WaveId} (ht : s.team? tid = some t)
    (hrun : t.halted = none) (haway : t.away = false) (hidle : s.idleGrid tid.grid = false) (hp : t.pending = p :: ps)
    (hk : (s.updTeam tid (fun t => { t with pending := ps })).causeTarget tid p.wave = some k) :
    let s2 := (s.updTeam tid (fun t => { t with pending := ps })).takeTrap k p.cause true p.mask p.addr
    deliverCause tid s =
      if (s2.team? tid).any (fun t => t.halted.isNone && !t.pending.isEmpty) then s2.pushDue (.engineCauseDelivery tid) else s2 := by
  simp only [deliverCause, State.deliverPending, ht, hrun, haway, hidle, hp, hk, Option.isSome_none, List.isEmpty_cons, Bool.or_self,
    Bool.false_eq_true, if_false]

/-! ### The exchange of the active set -/

/-- The lowest `LEVEL` of some waves (R283). -/
def lowestPrio (ws : List Wave) : Nat := ws.foldl (fun m w => min m w.prioUse) 256

section
variable {s : State} {core bay : Nat} {b o : Wave}

/-- A free place takes the best ready wave of the paddock (R283, rule 1). -/
theorem exchangeBay_free (hb : s.best (s.paddock core bay) = some b) (hroom : (s.bayWaves core bay true).length < 8) :
    exchangeBay core bay s = (s.exchange b none).endClock core bay false := by
  simp only [exchangeBay, hb, if_pos hroom]

/-- A wave of higher `LEVEL` replaces the oldest of the lowest (R283, rule 2). -/
theorem exchangeBay_level (hb : s.best (s.paddock core bay) = some b) (hfull : (s.bayWaves core bay true).length ≥ 8)
    (hlow : b.prioUse > lowestPrio (s.bayWaves core bay true))
    (ho : s.bestBy (fun w => (w.age, 0)) ((s.bayWaves core bay true).filter
      (fun w => w.prioUse == lowestPrio (s.bayWaves core bay true))) = some o) :
    exchangeBay core bay s = (s.exchange b (some o)).endClock core bay false := by
  rw [← ho]
  simp only [exchangeBay, hb, if_neg (Nat.not_lt.mpr hfull)]
  exact if_pos hlow

/-- A yielded wave gives way (R283, rule 3). -/
theorem exchangeBay_yielded (hb : s.best (s.paddock core bay) = some b) (hfull : (s.bayWaves core bay true).length ≥ 8)
    (hlow : b.prioUse ≤ lowestPrio (s.bayWaves core bay true))
    (ho : s.bestBy (fun w => (w.yielded, 0)) ((s.bayWaves core bay true).filter (fun w => w.yielded != 0)) = some o) :
    exchangeBay core bay s = (s.exchange b (some o)).endClock core bay false := by
  simp only [exchangeBay, hb, if_neg (Nat.not_lt.mpr hfull), ho]
  exact if_neg (Nat.not_lt.mpr hlow)

/-- A wave blocked for 33 clocks gives way (R283, rule 3). -/
theorem swapBlocked_due (hb : s.best (s.paddock core bay) = some b)
    (ho : s.bestBy (fun w => (w.blockedFor, 0)) ((s.bayWaves core bay true).filter (fun w => w.blockedFor ≥ 33)) = some o) :
    swapBlocked core bay s = (s.exchange b (some o)).endClock core bay false := by
  simp only [swapBlocked, hb, ho]

/-- A wave that has been active for 4,096 clocks gives way to one of its `LEVEL` (R283, rule 4). -/
theorem rotate_due
    (ho : s.bestBy (fun w => (w.age, 0)) ((s.bayWaves core bay true).filter
      (fun w => w.age ≥ 4096 && (s.paddock core bay).any (fun p => p.prioUse == w.prioUse))) = some o)
    (hb : s.best ((s.paddock core bay).filter (fun p => p.prioUse == o.prioUse)) = some b) :
    rotate core bay s = (s.exchange b (some o)).endClock core bay false := by
  simp only [rotate, ho, hb]

end

/-- Settles O53: each event by its own equation, and the exchanges in the order of the rules of R283. -/
theorem waveEvents : Obligations.WaveEvents := by
  unfold Obligations.WaveEvents
  refine ⟨?events, ?exchange⟩
  case events =>
    intro s wid w c j l n va t b same hq hw hc ht
    refine ⟨?fair, ?expiry, ?watchdog, ?move, ?skid, ?parked, ?cause⟩
    case fair => exact fun h => commit_eq (expireFairness_due hw hc h)
    case expiry => exact fun h => commit_eq (expireJoin_due hw h)
    case watchdog => exact fun h => commit_eq (raiseWatchdog_due hw hc h)
    case move =>
      intro m hm
      have hdone := moveDone_head hw hm
      refine ⟨_, commit_eq hdone, ?_⟩
      rw [drained_waves hq rfl]
      refine ⟨rfl, fun k v hv => ?_⟩
      rw [State.wave?_mapWaves s _ (fun w => w.moved_id m), hv, Option.map_some, Wave.moved_eq]
    case skid =>
      intro h
      obtain ⟨hself, honly⟩ := stopInSkid_onlyWave hq hw h
      exact ⟨_, _, rfl, hself, rfl, honly⟩
    case parked =>
      exact fun on hlive hhalt hrun => commit_eq (reexecute_resolved hw hlive hhalt hrun)
    case cause =>
      exact fun p ps k hrun haway hidle hp hk =>
        commit_eq (deliverCause_next ht hrun haway hidle hp hk)
  case exchange =>
    intro s core bay b o act pad low swaps
    exact ⟨fun hb hroom => commit_eq (exchangeBay_free hb hroom),
      fun hb hfull hlow ho => commit_eq (exchangeBay_level hb hfull hlow ho),
      fun hb hfull hlow ho => commit_eq (exchangeBay_yielded hb hfull hlow ho),
      fun hb ho => commit_eq (swapBlocked_due hb ho),
      fun ho hb => commit_eq (rotate_due ho hb)⟩

/-! ### Teams and grids -/

/-- A waiting team that placement takes is placed (R279, R280). -/
theorem placeNext_next {s s1 : State} {g : Grid} {n : Nat} (hs : pickSeat s.seats = some (.next g n)) (hp : s.placeGrid g n = some s1) :
    placeNext s = s1.pushDue .teamPlacement := by
  simp only [placeNext, hs, hp]

/-- What a grid keeps of a team that has retired: its name, and above D0 its share of the merge (R30, R297). -/
def Grid.retire (t : Team) (tid : TeamId) (g : Grid) : Grid :=
  { g with
    retired := g.retired ++ [(tid.team, tid.copy)]
    left := if g.level = 0 then g.left else g.left ++
      [{ team := t.id.team, copy := t.id.copy, bytes := t.wset, reps := t.wrep, updates := t.updates }] }

/-- A team whose waves have ended and that owes nothing, no cause pending and not ended by its handler, retires (R30). -/
theorem retireTeam_done {s : State} {tid : TeamId} {t : Team} (ht : s.team? tid = some t) (haway : t.away = false)
    (hidle : s.idleGrid tid.grid = false) (hdone : s.teamDone t = true) (hend : t.ended = false) (hpend : t.pending = []) :
    let s0 := if t.red then s.keepSaver tid else s
    retireTeam tid s = (((({ (s0.updGrid tid.grid (Grid.retire t tid)).dropReqs (fun x => x.wave.team == tid) with
        teams := s.teams.filter (fun x => x.id != tid)
        waves := s0.waves.filter (fun x => x.id.team != tid)
        waiting := s.waiting.filter (fun x => x.wave.team != tid) } : State).mergeDue tid.grid).pushDue
          (.gridRetirement tid.grid)).pushDue .teamPlacement) := by
  have hstay : ¬ (t.away || s.idleGrid tid.grid || !s.teamDone t) = true := by simp [haway, hidle, hdone]
  simp only [retireTeam, ht, if_neg hstay, hend, hpend, List.length_nil, List.range_zero, List.foldl_nil, ite_self, Bool.or_false,
    beq_iff_eq]
  cases t.red <;> rfl

/-- A grid whose teams and children have retired and whose merge is made is released (R30). -/
theorem retireGrid_done {s : State} {gid : GridId} {g g' : Grid} (hg : s.grid? gid = some g) (hidle : s.idleGrid gid = false)
    (hdone : s.gridDone g = true) (hm : (s.mergeGrid gid).2 = true) (hg' : (s.mergeGrid gid).1.grid? gid = some g') :
    retireGrid gid s = (s.mergeGrid gid).1.releaseGrid g' := by
  have hstay : ¬ (s.idleGrid gid || !s.gridDone g) = true := by simp [hidle, hdone]
  obtain ⟨m, hmerge⟩ : ∃ m, s.mergeGrid gid = (m, true) := ⟨_, Prod.ext rfl hm⟩
  rw [hmerge] at hg' ⊢
  simp only [retireGrid, hg, if_neg hstay, hmerge, hg']

/-- A grid of a `LAUNCH` command completes it, faulted or not (R271; log 58). -/
theorem releaseGrid_host {s : State} {g : Grid} {q tag : Nat} (ho : g.origin = .host q tag) :
    s.releaseGrid g = (s.gridGone g.id).finishCmd g.id.asid q 0 0 := by
  simp only [State.releaseGrid, ho]

/-- A child grid increments its parent's object, and its parent may retire (R30, R441). -/
theorem releaseGrid_child {s s1 : State} {g : Grid} {p : GridId} {w : WaveId} {obj : Nat} (ho : g.origin = .child p w obj)
    (hi : s.increment g.id.asid (.wave w) (gridWork g.id) (if (s.team? w.team).isSome then s.viewOf w else none) obj 1 = .made s1) :
    s.releaseGrid g = ((s1.mirror (.wave w) obj 8).gridGone g.id).pushDue (.gridRetirement p) := by
  simp only [State.releaseGrid, ho, hi]

/-- A grid of a graph node that did not fault ends the node's work (R271). -/
theorem releaseGrid_graph {s : State} {g : Grid} {core slot : Nat} (ho : g.origin = .graph core slot) (hf : g.faulted = false) :
    s.releaseGrid g = (s.gridGone g.id).pushDue (.graphWorkCompletion core slot) := by
  simp only [State.releaseGrid, ho, hf, Bool.false_eq_true, if_false]

/-- Settles O56: placement, the retirement of a team, and the end of a grid by its origin. -/
theorem teamsAndGrids : Obligations.TeamsAndGrids := by
  unfold Obligations.TeamsAndGrids
  intro s s1
  refine ⟨?placed, ?retires, ?ends⟩
  case placed => exact fun g n hs hp => commit_eq (placeNext_next hs hp)
  case retires => exact fun tid t ht haway hidle hd hend hpend => commit_eq (retireTeam_done ht haway hidle hd hend hpend)
  case ends =>
    intro gid g g' hg hidle hd hm m hg' gone
    have hrel := retireGrid_done hg hidle hd hm hg'
    exact ⟨fun q tag ho => commit_eq (hrel.trans (releaseGrid_host ho)),
      fun p w obj ho hi => commit_eq (hrel.trans (releaseGrid_child ho hi)),
      fun core slot ho hf => commit_eq (hrel.trans (releaseGrid_graph ho hf))⟩

end Sys2Proof.Machine
end

section
/-!
SUPPORT. The arithmetic instructions by the shape of their operands: what a shape yields where no lane traps, and the trap of R129.
-/
namespace Sys2Proof.Machine

/-! ### Enabled exceptions -/

/-- The exceptions that an executing lane produces and its thread enables (R129). -/
def Iss.raised (x : Iss) (f : Nat → LaneOut) (l : Nat) : BitVec 6 := (f l).exc &&& (x.w.thread l).fen

/-- The executing lanes with an enabled exception, and the exceptions of all of them (R129). -/
def Iss.trapping (x : Iss) (f : Nat → LaneOut) : List Nat := x.lanes.filter (fun l => x.raised f l != 0)
def Iss.allRaised (x : Iss) (f : Nat → LaneOut) : BitVec 6 := (x.trapping f).foldl (fun e l => e ||| x.raised f l) 0

/-- The lowest exception of a set is the one set with none below it. -/
theorem lowestExc_eq {e : BitVec 6} {b : Nat} (hb : b < 6) (hset : e.getLsbD b = true) (hlow : ∀ n < b, e.getLsbD n = false) :
    lowestExc e = b := by
  have hfind : (List.range 6).find? (fun b => e.getLsbD b) = some b :=
    List.find?_range_eq_some.mpr ⟨hset, List.mem_range.mpr hb, fun n hn => by simp [hlow n hn]⟩
  simp only [lowestExc, hfind, Option.getD_some]

/-- A bit of a union of exceptions. -/
theorem getLsbD_foldl_or {α : Type} {n : Nat} (g : α → BitVec n) (l : List α) (e : BitVec n) (b : Nat) :
    (l.foldl (fun e a => e ||| g a) e).getLsbD b = (e.getLsbD b || l.any (fun a => (g a).getLsbD b)) := by
  induction l generalizing e with
  | nil => simp
  | cons a l ih => simp [ih, Bool.or_assoc]

section
variable {x : Iss} {f : Nat → LaneOut} {b : Nat}

/-- Lanes with an enabled exception trap on the lowest exception of all of them (R129). -/
theorem arith_trapping (s : State) (h : x.trapping f ≠ []) :
    arith x s f = .trap (0x20 + lowestExc (x.allRaised f))
      (maskOf ((x.trapping f).filter (fun l => (x.raised f l).getLsbD (lowestExc (x.allRaised f))))) 0 := by
  have htraps : (x.lanes.map (fun l => (l, f l))).filter (fun p => p.2.exc &&& (x.w.thread p.1).fen != 0) =
      (x.trapping f).map (fun l => (l, f l)) := List.filter_map
  have hsome : ((x.trapping f).map (fun l => (l, f l))).isEmpty = false := by simpa using h
  simp only [arith, htraps, hsome, Bool.false_eq_true, if_false, List.foldl_map, List.filter_map, List.map_map]
  exact congrArg (fun ls => Res.trap _ (maskOf ls) 0) (List.map_id _)

/-- A lane that raises an exception has one enabled. -/
theorem raised_ne_zero_and (x : Iss) (f : Nat → LaneOut) (b l : Nat) :
    (x.raised f l != 0 && (x.raised f l).getLsbD b) = (x.raised f l).getLsbD b := by
  by_cases h : x.raised f l = 0#6 <;> simp [h]

/-- The lanes that raise an exception are among those that trap. -/
theorem trapping_filter (x : Iss) (f : Nat → LaneOut) (b : Nat) :
    (x.trapping f).filter (fun l => (x.raised f l).getLsbD b) = x.lanes.filter (fun l => (x.raised f l).getLsbD b) := by
  rw [Iss.trapping, List.filter_filter]
  exact List.filter_congr (fun l _ => (Bool.and_comm _ _).trans (raised_ne_zero_and x f b l))

/-- An exception of the union is one that some executing lane raises. -/
theorem getLsbD_allRaised (x : Iss) (f : Nat → LaneOut) (b : Nat) :
    (x.allRaised f).getLsbD b = x.lanes.any (fun l => (x.raised f l).getLsbD b) := by
  simp only [Iss.allRaised, getLsbD_foldl_or, Iss.trapping, List.any_filter, raised_ne_zero_and]
  simp

/-- Where a lane raises exception `b` and none a lower one, the lanes that raise `b` trap (R129; log 101). -/
theorem arith_trap (s : State) (hb : b < 6) (hhit : ∃ l ∈ x.lanes, (x.raised f l).getLsbD b = true)
    (hlow : ∀ n < b, ∀ l ∈ x.lanes, (x.raised f l).getLsbD n = false) :
    arith x s f = .trap (0x20 + b) (maskOf (x.lanes.filter (fun l => (x.raised f l).getLsbD b))) 0 := by
  have hne : x.trapping f ≠ [] := by
    obtain ⟨l, hl, hbit⟩ := hhit
    have hboth := raised_ne_zero_and x f b l
    rw [hbit, Bool.and_true] at hboth
    exact List.ne_nil_of_mem (List.mem_filter.mpr ⟨hl, hboth⟩)
  have hmin : lowestExc (x.allRaised f) = b := by
    refine lowestExc_eq hb ?_ (fun n hn => ?_)
    · rw [getLsbD_allRaised]
      exact List.any_eq_true.mpr hhit
    · rw [getLsbD_allRaised]
      exact any_false (hlow n hn)
  rw [arith_trapping s hne, hmin, trapping_filter]

end

/-! ### What each shape of operands yields -/

/-- An arithmetic instruction yields the tidy results of its lanes where none of them traps (R129). -/
theorem yields_of_arith {i : Instr} {h : Hdr} {body : Iss → State → Res} {f : Iss → Nat → LaneOut}
    (hx : ∀ s, exec i s = issue i h body s) (hb : ∀ x s, body x s = arith x s (f x)) (ht : ∀ x l, (f x l).tidy) : Yields i h f := by
  intro s x H hn
  rw [hx]
  exact arith_next H (hb x s) (fun l _ => ht x l) hn

/-- An arithmetic instruction whose lanes each produce one result. -/
theorem yields_one {i : Instr} {h : Hdr} {body : Iss → State → Res} {c n : Nat} {v : Iss → Nat → Nat} {e : Iss → Nat → BitVec 6}
    (hx : ∀ s, exec i s = issue i h body s) (hb : ∀ x s, body x s = arith x s (fun l => LaneOut.one c n (v x l) (e x l))) :
    Yields i h (fun x l => LaneOut.one c n (v x l) (e x l)) :=
  yields_of_arith hx hb (fun _ _ => LaneOut.tidy_one _ _ _ _)

section
variable {i : Instr} {f : FmtR} {k : FmtI}

/-- Two integers (R434). -/
theorem yields_int2 {g : Nat → Int → Int → Int × BitVec 6} (hx : ∀ s, exec i s = issue i f.h (int2 f g) s) :
    Yields i f.h (fun x l =>
      let r := g (tyS f.ty) (x.int l f.a (tyS f.ty)) (x.int l f.b (tyS f.ty))
      LaneOut.int f.d (tyS f.ty) r.1 r.2) :=
  yields_one hx (fun _ _ => rfl)

/-- One bit pattern, with a result of the destination type (R379, R456). -/
theorem yields_bits1 {g : Nat → Nat → Nat} (hx : ∀ s, exec i s = issue i f.h (bits1 f g) s) :
    Yields i f.h (fun x l => LaneOut.int f.d (tyD f.ty) (g (tyWidth (tyS f.ty)) (x.pat l f.a (tyS f.ty)) : Nat) 0) :=
  yields_one hx (fun _ _ => rfl)

/-- Two bit patterns, the second in full (R116, R379, R456, R477). -/
theorem yields_bits2 {g : Nat → Nat → Nat → Nat} (hx : ∀ s, exec i s = issue i f.h (bits2 f g) s) :
    Yields i f.h (fun x l => LaneOut.int f.d (tyS f.ty)
      (g (tyWidth (tyS f.ty)) (x.pat l f.a (tyS f.ty)) (x.rd l f.b (words (tyS f.ty))) : Nat) 0) :=
  yields_one hx (fun _ _ => rfl)

/-- A bit pattern and an immediate (R103). -/
theorem yields_bits2i {g : Nat → Nat → Nat → Nat} (hx : ∀ s, exec i s = issue i k.h (bits2i k g) s) :
    Yields i k.h (fun x l => LaneOut.int k.d (tyS k.ty)
      (g (tyWidth (tyS k.ty)) (x.pat l k.a (tyS k.ty)) (immVal (tyS k.ty) k.imm) : Nat) 0) :=
  yields_one hx (fun _ _ => rfl)

/-- Three bit patterns (R379, R380). -/
theorem yields_bits3 {g : Nat → Nat → Nat → Nat → Nat} (hx : ∀ s, exec i s = issue i f.h (bits3 f g) s) :
    Yields i f.h (fun x l => LaneOut.int f.d (tyS f.ty)
      (g (tyWidth (tyS f.ty)) (x.pat l f.a (tyS f.ty)) (x.rd l f.b (words (tyS f.ty))) (x.rd l f.c (words (tyS f.ty))) : Nat) 0) :=
  yields_one hx (fun _ _ => rfl)

/-- One float (R423, R424). -/
theorem yields_float1 {g : Nat → Rnd → Val → Nat × BitVec 6} (hx : ∀ s, exec i s = issue i f.h (float1 f g) s) :
    Yields i f.h (fun x l => LaneOut.flt f.d (g (tyS f.ty) (rndOf f.mode.toNat) (x.flt l f.a (tyS f.ty)))) :=
  yields_one hx (fun _ _ => rfl)

end

/-! ### Traps, logic and shifts -/

/-- The result of an integer operation is the wrapped or held exact value (R116, R434). -/
theorem laneOut_intResult (d : RegCode) (t : Nat) (sat : Bool) (v : Int) :
    LaneOut.one d.toNat (words t) (extendTo 64 t (intResult t sat v).1) (intResult t sat v).2 = LaneOut.sum d t sat v := by
  cases sat <;> rfl

/-- Settles O14: the effect of either add is `arith` of its results, and that traps. -/
theorem enabledExceptionTraps : Obligations.EnabledExceptionTraps := by
  unfold Obligations.EnabledExceptionTraps
  intro f s x b hit trapped least sum fsum
  refine ⟨?iadd, ?fadd⟩
  case iadd =>
    rintro H ⟨hb, hhit, hlow⟩
    refine issue_trap _ H ?_
    have hsum : int2 f (fun t a b => intResult t (satOf f.mode) (a + b)) x s = arith x s sum :=
      congrArg (arith x s) (funext fun l => laneOut_intResult _ _ _ _)
    exact hsum.trans (arith_trap s hb hhit hlow)
  case fadd =>
    rintro H ⟨hb, hhit, hlow⟩
    exact issue_trap (float2 f fAdd) H (arith_trap s hb hhit hlow)

/-- Settles O17: each instruction by the shape of its operands. -/
theorem logicAndShifts : Obligations.LogicAndShifts := by
  unfold Obligations.LogicAndShifts
  intro f k t u w v a b c p q out outI
  refine ⟨?andR, ?orR, ?xorR, ?andImm, ?orImm, ?xorImm, ?shl, ?shr, ?sra, ?rot, ?shlImm, ?shrImm, ?sraImm, ?rotImm,
    ?bfi, ?bfx, ?brev, ?bsel, ?clz, ?popc⟩
  case andR => exact yields_bits2 (g := fun w a b => a &&& b % 2 ^ w) (fun _ => rfl)
  case orR => exact yields_bits2 (g := fun w a b => a ||| b % 2 ^ w) (fun _ => rfl)
  case xorR => exact yields_bits2 (g := fun w a b => a ^^^ b % 2 ^ w) (fun _ => rfl)
  case shl => exact yields_bits2 (g := shlBits) (fun _ => rfl)
  case shr => exact yields_bits2 (g := shrBits) (fun _ => rfl)
  case sra => exact yields_bits2 (g := sraBits) (fun _ => rfl)
  case rot => exact yields_bits2 (g := rotBits) (fun _ => rfl)
  case andImm => exact yields_bits2i (g := fun w a b => a &&& b % 2 ^ w) (fun _ => rfl)
  case orImm => exact yields_bits2i (g := fun w a b => a ||| b % 2 ^ w) (fun _ => rfl)
  case xorImm => exact yields_bits2i (g := fun w a b => a ^^^ b % 2 ^ w) (fun _ => rfl)
  case shlImm => exact yields_bits2i (g := shlBits) (fun _ => rfl)
  case shrImm => exact yields_bits2i (g := shrBits) (fun _ => rfl)
  case sraImm => exact yields_bits2i (g := sraBits) (fun _ => rfl)
  case rotImm => exact yields_bits2i (g := rotBits) (fun _ => rfl)
  case bfi => exact yields_bits3 (g := bfiBits) (fun _ => rfl)
  case bsel => exact yields_bits3 (g := fun w a b m => (a &&& m) ||| (b % 2 ^ w &&& (2 ^ w - 1 - m % 2 ^ w))) (fun _ => rfl)
  case brev => exact yields_bits1 (g := revBits) (fun _ => rfl)
  case clz => exact yields_bits1 (g := clzBits) (fun _ => rfl)
  case popc => exact yields_bits1 (g := popBits) (fun _ => rfl)
  case bfx => exact yields_one (fun _ => rfl) (fun _ _ => rfl)

/-! ### Shifts, rotation and reversal, bit by bit -/

/-- The two's-complement reading and the wrapping of the model are those of bit vectors. -/
theorem sext_eq_toInt (w a : Nat) : sext w a = (BitVec.ofNat w a).toInt := by
  simp [sext, BitVec.toInt_eq_toNat_cond]
theorem wrapN_eq_toNat_ofInt (w : Nat) (x : Int) : wrapN w x = (BitVec.ofInt w x).toNat := by
  simp [wrapN, BitVec.toNat_ofInt]

/-- A number below 2^w has no bit at or above w. -/
theorem testBit_eq_false_of_width_le {w a i : Nat} (ha : a < 2 ^ w) (hi : w ≤ i) : a.testBit i = false :=
  Nat.testBit_lt_two_pow (Nat.lt_of_lt_of_le ha (Nat.pow_le_pow_right (by omega) hi))

section
variable {w a c i : Nat}

/-- `SHL` moves bits up, and empties the word at a count of its width (R116). -/
theorem testBit_shlBits (hi : i < w) :
    (shlBits w a c).testBit i = (decide (c % 2 ^ 32 ≤ i) && a.testBit (i - c % 2 ^ 32)) := by
  unfold shlBits
  split
  next h => rw [Nat.zero_testBit, decide_eq_false (by omega), Bool.false_and]
  next h => rw [Nat.testBit_mod_two_pow, Nat.testBit_mul_two_pow, decide_eq_true hi, Bool.true_and]

/-- `SHR` moves bits down (R116). -/
theorem testBit_shrBits (ha : a < 2 ^ w) :
    (shrBits w a c).testBit i = (decide (i + c % 2 ^ 32 < w) && a.testBit (i + c % 2 ^ 32)) := by
  have hout : w ≤ i + c % 2 ^ 32 → a.testBit (i + c % 2 ^ 32) = false := testBit_eq_false_of_width_le ha
  unfold shrBits
  split
  next h => rw [Nat.zero_testBit, decide_eq_false (by omega), Bool.false_and]
  next h =>
    rw [Nat.testBit_div_two_pow]
    by_cases hlt : i + c % 2 ^ 32 < w
    · rw [decide_eq_true hlt, Bool.true_and]
    · rw [hout (by omega), Bool.and_false]

/-- The arithmetic shift of the model is that of bit vectors (R116). -/
theorem sraBits_eq_sshiftRight : sraBits w a c = ((BitVec.ofNat w a).sshiftRight (c % 2 ^ 32)).toNat := by
  have hval : (if c % 2 ^ 32 ≥ w then (if sext w a < 0 then -1 else 0) else sext w a / (2 ^ (c % 2 ^ 32) : Nat)) =
      (BitVec.ofNat w a).toInt >>> (c % 2 ^ 32) := by
    have hlow := BitVec.le_two_mul_toInt (x := BitVec.ofNat w a)
    have hhigh := BitVec.two_mul_toInt_lt (x := BitVec.ofNat w a)
    rw [sext_eq_toInt, Int.shiftRight_eq_div_pow]
    split
    next hn =>
      have hpow : (2 : Int) ^ w ≤ ((2 ^ (c % 2 ^ 32) : Nat) : Int) := by
        exact_mod_cast Nat.pow_le_pow_right (by omega) hn
      split
      next hneg => rw [Int.ediv_eq_neg_one_of_neg_of_le hneg (by omega)]
      next hpos => rw [Int.ediv_eq_zero_of_lt (by omega) (by omega)]
    next => rfl
  rw [sraBits, hval, wrapN_eq_toNat_ofInt, BitVec.sshiftRight]

/-- `SRA` moves bits down and fills with the sign (R116). -/
theorem testBit_sraBits (hi : i < w) :
    (sraBits w a c).testBit i = a.testBit (if i + c % 2 ^ 32 < w then i + c % 2 ^ 32 else w - 1) := by
  rw [sraBits_eq_sshiftRight, BitVec.testBit_toNat, BitVec.getLsbD_sshiftRight, BitVec.msb_eq_getLsbD_last, ← apply_ite
    (BitVec.ofNat w a).getLsbD, Nat.add_comm (c % 2 ^ 32), BitVec.getLsbD_ofNat]
  have hin : (if i + c % 2 ^ 32 < w then i + c % 2 ^ 32 else w - 1) < w := by split <;> omega
  rw [decide_eq_true hin, decide_eq_false (Nat.not_le.mpr hi), Bool.not_false, Bool.true_and, Bool.true_and]

/-- `ROT` takes its count modulo the width (R116, R456). -/
theorem testBit_rotBits (ha : a < 2 ^ w) (hi : i < w) :
    (rotBits w a c).testBit i = a.testBit ((i + w - c % 2 ^ 32 % w) % w) := by
  have hk : c % 2 ^ 32 % w < w := Nat.mod_lt _ (by omega)
  simp only [rotBits, Nat.testBit_or, Nat.testBit_mod_two_pow, Nat.testBit_mul_two_pow, Nat.testBit_div_two_pow, decide_eq_true hi,
    Bool.true_and]
  generalize c % 2 ^ 32 % w = k at hk
  by_cases hki : k ≤ i
  · have hmod : (i + w - k) % w = i - k := by
      rw [show i + w - k = i - k + w by omega, Nat.add_mod_right, Nat.mod_eq_of_lt (by omega)]
    rw [hmod, testBit_eq_false_of_width_le ha (i := i + (w - k)) (by omega), decide_eq_true hki, Bool.true_and, Bool.or_false]
  · have hmod : (i + w - k) % w = i + (w - k) := by
      rw [Nat.mod_eq_of_lt (by omega)]
      omega
    rw [hmod, decide_eq_false hki, Bool.false_and, Bool.false_or]

/-- The low `k` bits of a number in reverse. -/
def revLow (a : Nat) : Nat → Nat
  | 0 => 0
  | k + 1 => 2 * revLow a k + (a.testBit k).toNat

theorem testBit_revLow {k : Nat} (hi : i < k) : (revLow a k).testBit i = a.testBit (k - 1 - i) := by
  induction k generalizing i with
  | zero => omega
  | succ k ih =>
    rw [revLow]
    cases i with
    | zero =>
      rw [Nat.testBit_zero, Nat.add_sub_cancel, Nat.sub_zero]
      cases a.testBit k
      · exact decide_eq_false (by simp only [Bool.toNat_false]; omega)
      · exact decide_eq_true (by simp only [Bool.toNat_true]; omega)
    | succ i =>
      have hbit := Bool.toNat_lt (a.testBit k)
      rw [Nat.testBit_succ, show (2 * revLow a k + (a.testBit k).toNat) / 2 = revLow a k by omega, ih (by omega),
        show k + 1 - 1 - (i + 1) = k - 1 - i by omega]

/-- The first `k` steps of `BREV` put the low `k` bits in reverse at the top of the word (R379). -/
theorem revBits_steps {k : Nat} (hk : k ≤ w) :
    (List.range k).foldl (fun r i => r + (if a.testBit i then 2 ^ (w - 1 - i) else 0)) 0 = 2 ^ (w - k) * revLow a k := by
  induction k with
  | zero => rfl
  | succ k ih =>
    have hpow : 2 ^ (w - k) = 2 ^ (w - (k + 1)) * 2 := by
      rw [← Nat.pow_succ, show (w - (k + 1)).succ = w - k by omega]
    have hbit : (if a.testBit k then 2 ^ (w - (k + 1)) else 0) = 2 ^ (w - (k + 1)) * (a.testBit k).toNat := by
      cases a.testBit k
      · rfl
      · exact (Nat.mul_one _).symm
    rw [List.range_succ, List.foldl_append, ih (by omega), List.foldl_cons, List.foldl_nil, show w - 1 - k = w - (k + 1) by omega,
      hbit, hpow, revLow, Nat.mul_add, Nat.mul_assoc]

theorem revBits_eq_revLow : revBits w a = revLow a w :=
  (revBits_steps (Nat.le_refl w)).trans (by rw [Nat.sub_self, Nat.pow_zero, Nat.one_mul])

end

/-- Settles O18: bit `i` of each. -/
theorem shiftsBitByBit : Obligations.ShiftsBitByBit := by
  unfold Obligations.ShiftsBitByBit
  intro w a c i _ ha hi n
  refine ⟨testBit_shlBits hi, testBit_shrBits ha, testBit_sraBits hi, testBit_rotBits ha hi, ?reversed⟩
  rw [revBits_eq_revLow, testBit_revLow hi]

/-! ### 32-bit operations as operations on words -/

/-- A result of type N32 in a V register is its exact value as a word (R115). -/
theorem ofNat_extendTo_n32 (v : Int) : BitVec.ofNat 32 (extendTo 64 6 v) = BitVec.ofInt 32 v := by
  have hext : extendTo 64 6 v = wrapN 64 (wrapN 32 v : Int) := rfl
  refine BitVec.eq_of_toNat_eq ?_
  rw [hext, BitVec.toNat_ofNat, BitVec.toNat_ofInt]
  simp only [wrapN]
  omega

/-- An instruction whose lanes each yield one N32 result without an exception: each destination holds the value as a word. -/
theorem Yields.word {i : Instr} {h : Hdr} {d : RegCode} {v : Iss → Nat → Int} {s : State} {x : Iss}
    (Y : Yields i h (fun x l => LaneOut.int d 6 (v x l) 0)) (hd : d.toNat < 320) (H : Issues i h s x) :
    ∃ t w, exec i s = .next t ∧ t.wave? x.wid = some w ∧ ∀ l ∈ x.lanes, w.vreg l d.toNat = BitVec.ofInt 32 (v x l) := by
  have hquiet : NoTrap x (fun l => LaneOut.int d 6 (v x l) 0) := fun _ _ => BitVec.zero_and
  obtain ⟨t, ht, -, w, hw, W⟩ := Y s x H hquiet
  refine ⟨t, w, ht, hw, fun l hl => ?_⟩
  rw [← ofNat_extendTo_n32]
  exact (W.reg l hl _ (List.mem_singleton_self _) hd).1

section
variable {x : Iss} {l : Nat} {code : RegCode}

/-- An N32 operand in a V register is the register's word (R85, R88). -/
theorem Iss.rd_vreg (h : code.toNat < 320) : x.rd l code (words 6) = (x.w.vreg l code.toNat).toNat := by
  simp [Iss.rd, Wave.readReg, h, words, tyWidth]

theorem Iss.pat_n32 (h : code.toNat < 320) : x.pat l code 6 = (x.w.vreg l code.toNat).toNat := by
  rw [Iss.pat, Iss.rd_vreg h]
  exact Nat.mod_eq_of_lt (BitVec.isLt _)

theorem Iss.int_n32 (h : code.toNat < 320) : x.int l code 6 = ((x.w.vreg l code.toNat).toNat : Int) :=
  congrArg Nat.cast (Iss.pat_n32 h)

end

section
variable {i : Instr} {f : FmtR} {s : State} {x : Iss}

/-- An integer operation of two N32 V registers, without `.SAT`, is the word operation that its exact value reduces to (R116, R434). -/
theorem int2_words {op : Int → Int → Int} {g : Word → Word → Word}
    (hx : ∀ s, exec i s = issue i f.h (int2 f (fun t a b => intResult t (satOf f.mode) (op a b))) s)
    (hg : ∀ u v : Word, BitVec.ofInt 32 (op u.toNat v.toNat) = g u v) (hty : f.ty = 0x66) (hmode : f.mode = 0)
    (hd : f.d.toNat < 320) (ha : f.a.toNat < 320) (hb : f.b.toNat < 320) (H : Issues i f.h s x) :
    ∃ t w, exec i s = .next t ∧ t.wave? x.wid = some w ∧
      ∀ l ∈ x.lanes, w.vreg l f.d.toNat = g (x.w.vreg l f.a.toNat) (x.w.vreg l f.b.toNat) := by
  have ht : tyS f.ty = 6 := by rw [hty]; rfl
  have hsat : satOf f.mode = false := by rw [hmode]; rfl
  have Y := yields_int2 hx
  simp only [ht, hsat] at Y
  obtain ⟨t, w, hnext, hw, hres⟩ := Y.word hd H
  refine ⟨t, w, hnext, hw, fun l hl => ?_⟩
  rw [hres l hl, Iss.int_n32 ha, Iss.int_n32 hb, ← hg]
  rfl

/-- A bitwise operation of two N32 V registers is the word operation of the same bits (R379, R456, R477). -/
theorem bits2_words {op : Nat → Nat → Nat → Nat} {g : Word → Word → Word} (hx : ∀ s, exec i s = issue i f.h (bits2 f op) s)
    (hg : ∀ u v : Word, op 32 u.toNat v.toNat = (g u v).toNat) (hty : f.ty = 0x66)
    (hd : f.d.toNat < 320) (ha : f.a.toNat < 320) (hb : f.b.toNat < 320) (H : Issues i f.h s x) :
    ∃ t w, exec i s = .next t ∧ t.wave? x.wid = some w ∧
      ∀ l ∈ x.lanes, w.vreg l f.d.toNat = g (x.w.vreg l f.a.toNat) (x.w.vreg l f.b.toNat) := by
  have ht : tyS f.ty = 6 := by rw [hty]; rfl
  have Y := yields_bits2 hx
  simp only [ht] at Y
  obtain ⟨t, w, hnext, hw, hres⟩ := Y.word hd H
  refine ⟨t, w, hnext, hw, fun l hl => ?_⟩
  rw [hres l hl, Iss.pat_n32 ha, Iss.rd_vreg hb, show tyWidth 6 = 32 from rfl, hg, BitVec.ofInt_natCast, BitVec.ofNat_toNat,
    BitVec.setWidth_eq]

end

/-- Settles O19: each result's word is the word operation on the words of its operands. -/
theorem wordArithmetic : Obligations.WordArithmetic := by
  unfold Obligations.WordArithmetic
  intro f s x hty hmode hd ha hb does
  refine ⟨?iadd, ?isub, ?imul, ?andR, ?orR, ?xorR⟩
  case iadd => exact int2_words (fun _ => rfl) (fun u v => by simp [BitVec.ofInt_add]) hty hmode hd ha hb
  case isub =>
    exact int2_words (fun _ => rfl)
      (fun u v => by simp [Int.sub_eq_add_neg, BitVec.sub_eq_add_neg, BitVec.ofInt_add, BitVec.ofInt_neg]) hty hmode hd ha hb
  case imul => exact int2_words (fun _ => rfl) (fun u v => by simp [BitVec.ofInt_mul]) hty hmode hd ha hb
  case andR =>
    exact bits2_words (op := fun w a b => a &&& b % 2 ^ w) (fun _ => rfl)
      (fun u v => by rw [Nat.mod_eq_of_lt v.isLt, BitVec.toNat_and]) hty hd ha hb
  case orR =>
    exact bits2_words (op := fun w a b => a ||| b % 2 ^ w) (fun _ => rfl)
      (fun u v => by rw [Nat.mod_eq_of_lt v.isLt, BitVec.toNat_or]) hty hd ha hb
  case xorR =>
    exact bits2_words (op := fun w a b => a ^^^ b % 2 ^ w) (fun _ => rfl)
      (fun u v => by rw [Nat.mod_eq_of_lt v.isLt, BitVec.toNat_xor]) hty hd ha hb

/-! ### Floats -/

section
variable {t : Nat} {r : Rnd} {a b : Val}

theorem sigFlags_pair (a b : Val) : sigFlags [a, b] = if a = .nan true ∨ b = .nan true then 1 else 0 := by
  have hsig : ∀ v : Val, v.isSig = decide (v = .nan true) := by
    intro v
    cases v with
    | nan s => cases s <;> rfl
    | inf _ | fin _ _ => rfl
  simp only [sigFlags, List.any_cons, List.any_nil, Bool.or_false, hsig, Bool.or_eq_true, decide_eq_true_eq]
  rfl

/-- A NaN operand gives the canonical NaN, invalid where an operand signals (R124). -/
theorem fAdd_nan (h : ∃ k, a = .nan k ∨ b = .nan k) : fAdd t r a b = (canonNaN t, sigFlags [a, b]) := by
  obtain ⟨k, rfl | rfl⟩ := h
  · rfl
  · cases a <;> rfl

theorem fDiv_nan (h : ∃ k, a = .nan k ∨ b = .nan k) : fDiv t r a b = (canonNaN t, sigFlags [a, b]) := by
  obtain ⟨k, rfl | rfl⟩ := h
  · rfl
  · cases a <;> rfl

theorem mulExact_nan (h : ∃ k, a = .nan k ∨ b = .nan k) : mulExact a b = (.nan false, sigFlags [a, b]) := by
  obtain ⟨k, rfl | rfl⟩ := h
  · rfl
  · cases a <;> rfl

theorem fMul_nan (h : ∃ k, a = .nan k ∨ b = .nan k) : fMul t r a b = (canonNaN t, sigFlags [a, b]) := by
  simp only [fMul, mulExact_nan h, roundVal]
  exact congrArg (Prod.mk _) BitVec.or_zero

theorem neg_eq_nan {k : Bool} : b.neg = .nan k ↔ b = .nan k := by
  cases b <;> simp [Val.neg]

/-- A subtraction treats a NaN as an addition does. -/
theorem fSub_nan (h : ∃ k, a = .nan k ∨ b = .nan k) : fSub t r a b = (canonNaN t, sigFlags [a, b]) := by
  have hneg : ∃ k, a = .nan k ∨ b.neg = .nan k := by simpa only [neg_eq_nan] using h
  simp only [fSub, fAdd_nan hneg, sigFlags_pair, neg_eq_nan]

/-- Infinity times zero, in either order (R421). -/
theorem mulExact_inf_zero (n m : Bool) : mulExact (.inf n) (.fin m 0) = (.nan false, nvBit) := by
  simp [mulExact]
theorem mulExact_zero_inf (n m : Bool) : mulExact (.fin m 0) (.inf n) = (.nan false, nvBit) := by
  simp [mulExact]

/-- An invalid product gives the canonical NaN, and it does so whatever NaN is added to it (R421). -/
theorem fMul_invalid (h : mulExact a b = (.nan false, nvBit)) : fMul t r a b = (canonNaN t, 1) := by
  simp only [fMul, h, roundVal]
  rfl

theorem fFma_invalid (h : mulExact a b = (.nan false, nvBit)) (sg : Bool) : fFma t r a b (.nan sg) = (canonNaN t, 1) := by
  simp only [fFma, h, fAdd_nan ⟨false, .inl rfl⟩]
  cases sg <;> rfl

end

/-- Settles O23: a NaN first, then each special pair. -/
theorem floatSpecials : Obligations.FloatSpecials := by
  unfold Obligations.FloatSpecials
  intro t r a b n m sg q _ inf nan
  refine ⟨?nan, ?addInf, ?subInf, ?mulInf, ?mulZero, ?fmaInf, ?fmaZero, ?divInf, ?divZero, ?byZero, ?infFin⟩
  case nan =>
    intro h
    have hnan : (canonNaN t, sigFlags [a, b]) = nan := by rw [sigFlags_pair]
    exact ⟨(fAdd_nan h).trans hnan, (fSub_nan h).trans hnan, (fMul_nan h).trans hnan, (fDiv_nan h).trans hnan⟩
  case addInf | subInf => cases n <;> rfl
  case mulInf => exact fMul_invalid (mulExact_inf_zero n m)
  case mulZero => exact fMul_invalid (mulExact_zero_inf n m)
  case fmaInf => exact fFma_invalid (mulExact_inf_zero n m) sg
  case fmaZero => exact fFma_invalid (mulExact_zero_inf n m) sg
  case divInf => rfl
  case divZero => simp [fDiv, nvBit]
  case byZero =>
    intro hq
    simp only [fDiv, if_true, if_neg hq]
    rfl
  case infFin => rfl

/-- Settles O24: the functions of one operand by their shape, and `FTSUM`, `PFMA` and `CVT` by their one result. -/
theorem floatOneOperand : Obligations.FloatOneOperand := by
  unfold Obligations.FloatOneOperand
  intro f t r el pf draw
  refine ⟨?frnd, ?fsqrt, ?frcp, ?frsq, ?fexp2, ?flog2, ?fsin, ?fcos, ?ftsum, ?pfma, ?cvt⟩
  case frnd => exact yields_float1 (g := fRnd) (fun _ => rfl)
  case fsqrt => exact yields_float1 (g := fUnary 0) (fun _ => rfl)
  case frcp => exact yields_float1 (g := fUnary 1) (fun _ => rfl)
  case frsq => exact yields_float1 (g := fUnary 2) (fun _ => rfl)
  case fexp2 => exact yields_float1 (g := fUnary 3) (fun _ => rfl)
  case flog2 => exact yields_float1 (g := fUnary 4) (fun _ => rfl)
  case fsin => exact yields_float1 (g := fUnary 5) (fun _ => rfl)
  case fcos => exact yields_float1 (g := fUnary 6) (fun _ => rfl)
  case ftsum => exact yields_one (fun _ => rfl) (fun _ _ => rfl)
  case pfma => exact yields_one (fun _ => rfl) (fun _ _ => rfl)
  case cvt => exact yields_of_arith (fun _ => rfl) (fun _ _ => rfl) (fun _ _ => LaneOut.tidy_one _ _ _ 0)

end Sys2Proof.Machine
end

section
/-!
SUPPORT. The matrix engine: the words of a tile after its rows are set (R125, R178, R182, R183), and the engine's own steps (R130, R175 to R177,
R287).
-/
namespace Sys2Proof.Machine

/-! ### Several writes of cells -/

section
variable {α : Type} [DecidableEq α] (d : α) (l : List (Nat × α)) {key : Nat → Nat} {v : Nat → α}

/-- A cell of no key that is written keeps its value. -/
theorem cellGet_cellSets_other {ws : List (Nat × α)} {y : Nat} (h : ∀ p ∈ ws, p.1 ≠ y) :
    cellGet d (cellSets d l ws) y = cellGet d l y := by
  unfold cellSets
  induction ws generalizing l with
  | nil => rfl
  | cons p ws ih =>
    rw [List.foldl_cons, ih _ (fun q hq => h q (List.mem_cons_of_mem p hq)), cellGet_cellSet, if_neg (h p List.mem_cons_self)]

/-- Each cell of several written at distinct keys holds its own value. -/
theorem cellGet_cellSets_range (hkey : Function.Injective key) {n c : Nat} (hc : c < n) :
    cellGet d (cellSets d l ((List.range n).map (fun c => (key c, v c)))) (key c) = v c := by
  induction n with
  | zero => omega
  | succ n ih =>
    have hsnoc : cellSets d l ((List.range (n + 1)).map (fun c => (key c, v c))) =
        cellSet d (cellSets d l ((List.range n).map (fun c => (key c, v c)))) (key n) (v n) := by
      rw [List.range_succ, List.map_append, cellSets, List.foldl_append]
      rfl
    rw [hsnoc, cellGet_cellSet]
    by_cases h : n = c
    · rw [if_pos (congrArg key h), h]
    · rw [if_neg (fun e => h (hkey e)), ih (by omega)]

end

/-! ### Rows of a tile -/

section
variable {tiles bay bay' n n' r r' c c' : Nat}

/-- Words of the accumulators have keys of their own (R178). -/
theorem accKey_inj (hn : n < tiles) (hn' : n' < tiles) (hr : r < 32) (hr' : r' < 32) (hc : c < 128) (hc' : c' < 128) :
    accKey tiles bay n (128 * r + c) = accKey tiles bay' n' (128 * r' + c') ↔ bay = bay' ∧ n = n' ∧ r = r' ∧ c = c' := by
  refine ⟨fun h => ?_, fun ⟨h1, h2, h3, h4⟩ => by rw [h1, h2, h3, h4]⟩
  have htile : bay * tiles + n = bay' * tiles + n' ∧ r = r' ∧ c = c' := by
    unfold accKey at h
    omega
  obtain ⟨h, hrow, hcol⟩ := htile
  have hb : bay = bay' := by
    have hdiv : ∀ b m : Nat, m < tiles → (b * tiles + m) / tiles = b := by
      intro b m hm
      rw [Nat.mul_comm, Nat.mul_add_div (by omega), Nat.div_eq_of_lt hm, Nat.add_zero]
    rw [← hdiv bay n hn, h, hdiv bay' n' hn']
  subst hb
  exact ⟨rfl, by omega, hrow, hcol⟩

@[simp] theorem Team.setRow_scratch (t : Team) (ws : List Nat) : (t.setRow tiles bay n r ws).scratch = t.scratch := rfl

/-- A word of the accumulators after a row of a tile is set. -/
theorem Team.accWord_setRow (t : Team) {ws : List Nat} (hws : ws.length = 128) (hn : n < tiles) (hn' : n' < tiles) (hr : r < 32)
    (hr' : r' < 32) (hc : c < 128) :
    (t.setRow tiles bay n r ws).accWord tiles bay' n' r' c =
      if bay' = bay ∧ n' = n ∧ r' = r then BitVec.ofNat 32 (ws.getD c 0) else t.accWord tiles bay' n' r' c := by
  unfold Team.accWord Team.setRow
  split
  next h =>
    obtain ⟨rfl, rfl, rfl⟩ := h
    refine cellGet_cellSets_range 0 t.acc (key := fun c => accKey tiles bay' n' (128 * r' + c)) (fun c c' h => ?_) (hws ▸ hc)
    simp only [accKey] at h
    omega
  next h =>
    refine cellGet_cellSets_other 0 t.acc (fun p hp => ?_)
    obtain ⟨c', hc', rfl⟩ := List.mem_map.mp hp
    rw [List.mem_range, hws] at hc'
    intro e
    obtain ⟨h1, h2, h3, -⟩ := (accKey_inj hn hn' hr hr' hc' hc).mp e
    exact h ⟨h1.symm, h2.symm, h3.symm⟩

/-- Rows of several lanes set one after another, each computed from the team as it then is. -/
def Team.setRows (t : Team) (tiles bay n : Nat) (row : Team → Nat → List Nat) (ls : List Nat) : Team :=
  ls.foldl (fun t l => t.setRow tiles bay n l (row t l)) t

/-- A row that is computed from scratch and from the lane's own row of the tile. -/
def RowLocal (tiles bay n : Nat) (row : Team → Nat → List Nat) : Prop :=
  ∀ t t' l, t'.scratch = t.scratch → (∀ c < 128, t'.accWord tiles bay n l c = t.accWord tiles bay n l c) → row t' l = row t l

/-- A word of the accumulators after the rows of several lanes are set: of a lane's row its own, and no other. -/
theorem Team.accWord_setRows {row : Team → Nat → List Nat} (hlen : ∀ t l, (row t l).length = 128) (hloc : RowLocal tiles bay n row)
    (hn : n < tiles) (hn' : n' < tiles) (hr' : r' < 32) (hc : c < 128) {ls : List Nat} (hnd : ls.Nodup) (hls : ∀ l ∈ ls, l < 32)
    (t : Team) :
    (t.setRows tiles bay n row ls).accWord tiles bay' n' r' c =
      if bay' = bay ∧ n' = n ∧ r' ∈ ls then BitVec.ofNat 32 ((row t r').getD c 0) else t.accWord tiles bay' n' r' c := by
  induction ls generalizing t with
  | nil => simp [Team.setRows]
  | cons l ls ih =>
    obtain ⟨hl, hnd⟩ := List.nodup_cons.mp hnd
    have hl32 : l < 32 := hls l List.mem_cons_self
    have hstep : t.setRows tiles bay n row (l :: ls) = (t.setRow tiles bay n l (row t l)).setRows tiles bay n row ls := rfl
    rw [hstep, ih hnd (fun k hk => hls k (List.mem_cons_of_mem l hk)), t.accWord_setRow (hlen t l) hn hn' hl32 hr' hc]
    have hsame : ∀ k ∈ ls, row (t.setRow tiles bay n l (row t l)) k = row t k := by
      intro k hk
      refine hloc _ _ k (t.setRow_scratch _) (fun c hc => ?_)
      rw [t.accWord_setRow (hlen t l) hn hn hl32 (hls k (List.mem_cons_of_mem l hk)) hc, if_neg]
      rintro ⟨-, -, rfl⟩
      exact hl hk
    by_cases hin : r' ∈ ls
    · have hne : r' ≠ l := fun e => hl (e ▸ hin)
      simp [hin, hne, hsame r' hin]
    · by_cases he : r' = l
      · subst he
        simp [hin]
      · simp [hin, he]

end

/-! ### `MZERO` and `MMAC` in the accumulator -/

section
variable {e : Entry} {f : FmtX} {tiles : Nat} {t t' : Team}

/-- What an entry reads of scratch, a lane's activations and its scales, does not depend on the accumulators (R182). -/
theorem rowBytesOf_congr (h : t'.scratch = t.scratch) (l : Nat) : rowBytesOf e f t' l = rowBytesOf e f t l := by
  simp only [rowBytesOf, Entry.scratch, h]

theorem rowScales_congr (h : t'.scratch = t.scratch) (l groups : Nat) : rowScales e f t' l groups = rowScales e f t l groups := by
  simp only [rowScales, Entry.scratch, h]

/-- A row of sums depends on the row's own 128 words. -/
theorem mmacRow_congr {ty : Nat} {sat : Bool} {bytes scales : List Byte} {w : Nat → Nat → Val} {old old' : Nat → Nat}
    (h : ∀ c < 128, old' c = old c) : mmacRow ty sat bytes scales w old' = mmacRow ty sat bytes scales w old := by
  unfold mmacRow
  refine List.map_congr_left (fun c hc => ?_)
  rw [h c (List.mem_range.mp hc)]

/-- A word of a row with its exceptions left out. -/
theorem getD_map_fst (row : List (Nat × BitVec 6)) (c : Nat) : (row.map (·.1)).getD c 0 = (row.getD c (0, 0)).1 := by
  simp only [List.getD_eq_getElem?_getD, List.getElem?_map]
  exact Option.getD_map Prod.fst (0, 0) row[c]?

/-- The row of sums of a lane of an `MMAC` entry, with the exceptions of each word (R182). -/
def mmacSums (e : Entry) (f : FmtX) (tiles : Nat) (w : WSlot) (t : Team) (l : Nat) : List (Nat × BitVec 6) :=
  mmacRow (f.fn.toNat % 16) (f.fn.getLsbD 6) (rowBytesOf e f t l) (rowScales e f t l (slotK (f.fn.toNat % 16) / 32))
    (weightOf w.latched) (fun c => (t.accWord tiles e.bay (e.scal.headD 0) l c).toNat)

theorem mmacSums_local (e : Entry) (f : FmtX) (tiles : Nat) (w : WSlot) :
    RowLocal tiles e.bay (e.scal.headD 0) (fun t l => (mmacSums e f tiles w t l).map (·.1)) := by
  intro t t' l hs ha
  have hsums : mmacSums e f tiles w t' l = mmacSums e f tiles w t l := by
    rw [mmacSums, rowBytesOf_congr hs, rowScales_congr hs]
    exact mmacRow_congr (fun c hc => by rw [ha c hc])
  simp only [hsums]

/-- `MZERO` sets the rows of its lanes to zero (R183). -/
theorem runMzero_eq : runMzero e tiles t =
    t.setRows tiles e.bay (e.scal.headD 0) (fun _ _ => List.replicate 128 0) (lanesOf e.lanes) := rfl

/-- `MMAC` of an INVALID generation changes nothing (R175). -/
theorem runMmac_invalid (h : invalidGen (t.wslot e.slot) = true) : (runMmac e f tiles t).1 = t := by
  simp only [runMmac, if_pos h]

/-- `MMAC` sets the rows of its lanes to their sums (R182). -/
theorem runMmac_valid (h : invalidGen (t.wslot e.slot) = false) : (runMmac e f tiles t).1 =
    t.setRows tiles e.bay (e.scal.headD 0) (fun u l => (mmacSums e f tiles (t.wslot e.slot) u l).map (·.1)) (lanesOf e.lanes) := by
  simp only [runMmac, h, Bool.false_eq_true, if_false]
  exact (List.foldl_hom Prod.fst (fun _ _ => rfl)).symm

variable {bay n r c : Nat} (hr : r < 32) (hc : c < 128) (hn : n < tiles) (htile : e.scal.headD 0 < tiles)
include hr hc hn htile

/-- A word of the accumulators after an `MZERO` (R183). -/
theorem accWord_runMzero : (runMzero e tiles t).accWord tiles bay n r c =
    if bay = e.bay ∧ n = e.scal.headD 0 ∧ r ∈ lanesOf e.lanes then 0 else t.accWord tiles bay n r c := by
  rw [runMzero_eq, Team.accWord_setRows (fun _ _ => List.length_replicate) (fun _ _ _ _ _ => rfl) htile hn hr hc
    (lanesOf_nodup e.lanes) (fun _ => lanesOf_lt), List.getD_eq_getElem?_getD, List.getElem?_replicate_of_lt hc]
  rfl

/-- A word of the accumulators after an `MMAC` of a generation that is not INVALID (R182). -/
theorem accWord_runMmac (h : invalidGen (t.wslot e.slot) = false) : (runMmac e f tiles t).1.accWord tiles bay n r c =
    if bay = e.bay ∧ n = e.scal.headD 0 ∧ r ∈ lanesOf e.lanes then
      BitVec.ofNat 32 ((mmacSums e f tiles (t.wslot e.slot) t r).getD c (0, 0)).1
    else t.accWord tiles bay n r c := by
  have hlen : ∀ u l, ((mmacSums e f tiles (t.wslot e.slot) u l).map (·.1)).length = 128 := fun _ _ => by simp [mmacSums, mmacRow]
  rw [runMmac_valid h, Team.accWord_setRows hlen (mmacSums_local e f tiles _) htile hn hr hc (lanesOf_nodup e.lanes)
    (fun _ => lanesOf_lt), getD_map_fst]

end

/-- Settles O50: a word of the tile's rows by the entry's effect, and every other word as it was. -/
theorem tileWords : Obligations.TileWords := by
  unfold Obligations.TileWords
  intro e f tiles bay n r c t hr hc hn _ here w row htile _
  have hzero := accWord_runMzero (t := t) (bay := bay) hr hc hn htile
  have hsums := accWord_runMmac (t := t) (f := f) (bay := bay) hr hc hn htile
  refine ⟨fun h => hzero.trans (if_pos h), fun h => hzero.trans (if_neg h), ?summed, ?sumFrame⟩
  case summed =>
    rintro ⟨rfl, rfl, hlane⟩ hvalid
    exact (hsums hvalid).trans (if_pos ⟨rfl, rfl, hlane⟩)
  case sumFrame =>
    intro h
    cases hinv : invalidGen w with
    | true => rw [runMmac_invalid hinv]
    | false => exact (hsums hinv).trans (if_neg (h.resolve_right (by simp [hinv])))

/-! ### Quarters -/

/-- A weight slot after a quarter of its forming generation has reached the arrays: with the fourth the generation is latched (R175). -/
def WSlot.fill (w : WSlot) (q : Quarter) : WSlot :=
  if (w.filled ++ [q]).length < 4 then { w with filled := w.filled ++ [q] }
  else { w with state := .latched, gen := w.gen + 1, ty := w.formTy, latched := w.filled ++ [q], filled := [] }

/-- A staged quarter of the quartet that fills a slot, from a position not filled yet, reaches the arrays (R175). -/
theorem transferQuarter_reaches {s : State} {core bay k : Nat} {t : Team} {q : Quarter}
    (ht : s.teams.find? (fun t => t.core == core && !s.frozen t.id && t.staged.any (fun q => q.bay == bay && q.slot == k)) = some t)
    (hq : t.staged.find? (fun q => q.bay == bay && q.slot == k) = some q) (hstate : (t.wslot k).state = .filling)
    (hquartet : q.quartet = (t.wslot k).formQuartet) (hfree : ∀ p ∈ (t.wslot k).filled, p.bay ≠ bay) :
    transferQuarter core bay k s = (s.updTeam t.id (fun u =>
      ({ u with staged := u.staged.filter (fun p => !(p.bay == bay && p.slot == k)) } : Team).setWslot k
        ((t.wslot k).fill q))).slotSettle t.id k := by
  have hfilled : (t.wslot k).filled.any (fun p => p.bay == bay) = false := any_false (fun p hp => by simpa using hfree p hp)
  have hgo : ¬ ((t.wslot k).state != .filling || q.quartet != (t.wslot k).formQuartet ||
      (t.wslot k).filled.any (fun p => p.bay == bay)) = true := by simp [hstate, hquartet, hfilled]
  simp only [transferQuarter, ht, hq, if_neg hgo]
  rfl

/-! ### Acceptance of an offer that waits -/

/-- The group that made an offer takes its issue up again as it was (R176). -/
theorem reissue_resumes {i : Instr} {h : Hdr} {s : State} {r : Waiting} {x : Iss} (R : Resumes i h s r x) (body : Iss → State → Res) :
    s.reissue r h body = finish x s (body x s) := by
  have hx : (⟨r.wave, x.w, lanesOf r.lanes, r.pc, (lanesOf r.lanes).filter (guardTrue h x.w), isUniform i,
      if isUniform i then ((lanesOf r.lanes).filter (guardTrue h x.w)).take 1 else (lanesOf r.lanes).filter (guardTrue h x.w)⟩ : Iss) = x := by
    obtain ⟨-, -, hwid, hpc, hgroup, hact, huni, hlanes, -, -, -⟩ := R
    cases x
    simp_all
  simp only [State.reissue, R.wave, R.instr, hx]

/-- The work that waits first enters the FIFO where it has room, and waits no longer (R287). -/
theorem offerEntry_first {x : Iss} {s : State} {r : Waiting} {rest : List Waiting} (hold : ∃ k, x.w.hold = some k ∧ k.work = some r.id)
    (hfirst : s.matrixWaiters x.w.core = r :: rest) (hroom : s.fifoRoom x.w.core x.w.bay = true) (i : Instr) (accept : State → Res) :
    offerEntry i x accept s = accept (s.dropWork r.id) := by
  obtain ⟨k, hk, hwork⟩ := hold
  simp [offerEntry, hk, hwork, hfirst, hroom]

/-- `MZERO` of a tile in range, its placement fields in range (R179, R183). -/
theorem semMzero_offers {f : FmtX} {x : Iss} {s : State} {n : Nat} (ht : s.target x f false false = some n)
    (htile : x.uval f.b 1 % 2 ^ 32 < s.tiles x.wid) :
    semMzero f x s = offerEntry (.mzero f) x (fun s => .go (s.pushEntry x (newEntry (.mzero f) x [] [x.uval f.b 1 % 2 ^ 32])) []) s := by
  simp only [semMzero, ht, tileOf, if_pos htile]

/-- The offer of an `MZERO` that waits first is accepted once the FIFO has room (R287). -/
theorem acceptMatrix_mzero {f : FmtX} {s : State} {core n : Nat} {r : Waiting} {rest : List Waiting} {x : Iss}
    (R : Resumes (.mzero f) f.h s r x) (hfirst : s.matrixWaiters core = r :: rest) (hcore : x.w.core = core)
    (ht : s.target x f false false = some n) (htile : x.uval f.b 1 % 2 ^ 32 < s.tiles x.wid)
    (hroom : s.fifoRoom core x.w.bay = true) :
    acceptMatrix core s = finish x s (.go ((s.dropWork r.id).pushEntry x (newEntry (.mzero f) x [] [x.uval f.b 1 % 2 ^ 32])) []) := by
  subst hcore
  simp only [acceptMatrix, hfirst, R.instr]
  rw [reissue_resumes R, semMzero_offers ht htile, offerEntry_first R.hold hfirst hroom]

/-! ### Start and completion of an entry -/

/-- The first entry of a bay starts where none has started, its tile is free and, for `MMAC`, its generation is there (R176). -/
theorem startMatrix_first {s : State} {core bay : Nat} {e : Entry}
    (hfirst : ((s.core core).fifo.filter (fun e => e.bay == bay && !s.frozen e.wave.team)).find? (fun e => !e.started) = some e)
    (hnone : ∀ a ∈ (s.core core).fifo, a.bay = bay → a.started = false) (htile : s.tileWaited e = false)
    (hgen : ∀ f, e.instr = .mmac f → ∀ t, s.team? e.wave.team = some t →
      (t.wslot e.slot).gen = e.gen ∧ ((t.wslot e.slot).state = .latched ∨ (t.wslot e.slot).state = .draining)) :
    startMatrix core bay s = s.updEntry core e.id (fun e => { e with started := true }) := by
  have hbusy : (s.core core).fifo.any (fun e => e.bay == bay && e.started) = false := by
    refine any_false (fun a ha => ?_)
    by_cases hb : a.bay = bay
    · rw [hnone a ha hb, Bool.and_false]
    · simp [hb]
  simp only [startMatrix, hfirst, hbusy, htile]
  refine if_neg ?_
  split
  next f t he ht =>
    obtain ⟨hg, hstate⟩ := hgen f he t ht
    rcases hstate with h | h <;> simp [he, hg, h]
  next => split <;> simp

/-- A started entry that waits for nothing ends with its effect (R130, R177; log 93). -/
theorem completeMatrix_ends {s s' : State} {core bay : Nat} {e : Entry} {exc : BitVec 6}
    (hfirst : (s.core core).fifo.find? (fun e => e.bay == bay && e.started) = some e) (hchan : s.atChannel (.matrix core e.id) = false)
    (hwait : ∀ c, s.ctx? (asidOf e.wave) = some c → s.entryWaits c e = none) (heff : entryEffect e s = (s', exc, [])) :
    completeMatrix core bay s = entryOver core e exc s' := by
  have hgo : (s.ctx? (asidOf e.wave)).bind (fun c => s.entryWaits c e) = none := Option.bind_eq_none_iff.mpr hwait
  simp only [completeMatrix, hfirst, hchan, Bool.false_and, Bool.false_eq_true, if_false, hgo, heff, State.tellEntry]
  rfl

section
variable {e : Entry} {f : FmtX} {s : State}

theorem entryEffect_mmac {t : Team} (he : e.instr = .mmac f) (ht : s.team? e.wave.team = some t) (hbad : mmacBad e f t = none) :
    entryEffect e s = (s.updTeam t.id (fun _ => (runMmac e f (s.tiles e.wave) t).1), (runMmac e f (s.tiles e.wave) t).2, []) := by
  simp only [entryEffect, he, ht, hbad]

theorem entryEffect_mzero (he : e.instr = .mzero f) :
    entryEffect e s = (s.updTeam e.wave.team (runMzero e (s.tiles e.wave)), 0, []) := by
  simp only [entryEffect, he]

theorem entryEffect_mdrn (he : e.instr = .mdrn f) :
    entryEffect e s = (lanesOf e.lanes).foldl (drainLane e f (s.tiles e.wave)) (s, 0, []) := by
  simp only [entryEffect, he]

theorem entryEffect_vxm (he : e.instr = .vxm f) : entryEffect e s = runVxm e f s := by
  simp only [entryEffect, he]

end

/-- Settles O49: each step of the engine by its own equation, and completion by the effect of each instruction. -/
theorem matrixSteps : Obligations.MatrixSteps := by
  unfold Obligations.MatrixSteps
  intro s core bay k
  refine ⟨?quarter, ?accept, ?start, ?complete⟩
  case quarter =>
    intro t q ht hq w hstate hquartet hfree filled w'
    exact commit_eq (transferQuarter_reaches ht hq hstate hquartet hfree)
  case accept =>
    exact fun f x r rest n R hfirst hcore ht htile hroom => commit_eq (acceptMatrix_mzero R hfirst hcore ht htile hroom)
  case start => exact fun e hfirst hnone htile hgen => commit_eq (startMatrix_first hfirst hnone htile hgen)
  case complete =>
    intro e t hfirst ht hchan hwait tiles ends
    have ended : ∀ {s' exc}, entryEffect e s = (s', exc, []) → ends s' exc :=
      fun heff => commit_eq (completeMatrix_ends hfirst hchan hwait heff)
    exact ⟨fun f he hbad => ended (entryEffect_mmac he ht hbad), fun f he => ended (entryEffect_mzero he),
      fun f he s' exc hfold => ended ((entryEffect_mdrn he).trans hfold), fun f he s' exc hrun => ended ((entryEffect_vxm he).trans hrun)⟩

end Sys2Proof.Machine
end

section
/-!
SUPPORT. Spectral instructions and their neighbours: `MUEL` over an error in scratch (R136, R223), the lane groups and `LEAFX` (R447 to
R451, R480, R481), the special registers (R482 to R484), and textures, marks and walks (R142 to R145, R489 to R492).
-/
namespace Sys2Proof.Machine

/-! ### `MUEL` over an uncorrectable error -/

/-- An instruction with nothing in its way that finds uncorrectable errors raises `MACHINE_CHECK` (R223). -/
theorem issue_check {i : Instr} {h : Hdr} {s : State} {x : Iss} {pas : List Nat} {mask : LaneMask} {addr : Nat}
    {es : List (Nat × Nat × Nat)} (body : Iss → State → Res) (H : Issues i h s x) (hb : body x s = .check pas mask addr es) :
    issue i h body s = .next (drained s (s.raiseCheck x.wid pas mask addr es)) := by
  rw [issue_clear body H, hb]
  rfl

/-- `MUEL` whose aligned matrices hold a byte of scratch with an uncorrectable error (R136, R223). -/
theorem semMuel_badPool {f : FmtW} {x : Iss} {s : State} {t : Team} {m : LaneMask} {b : Nat} (ht : s.team? x.wid.team = some t)
    (hva : ∀ l ∈ x.lanes, x.rd l f.vs 1 % 2 ^ 32 % 64 = 0 ∧ x.rd l f.vs 1 % 2 ^ 32 + 512 ≤ s.scratchSize x.wid)
    (hbad : poolCheck x t 1 (x.accs (fun l => x.rd l f.vs 1 % 2 ^ 32) 512) = some (m, b)) :
    semMuel f x s = .check [] m b [] := by
  have halign : x.misaligned 64 (x.accs (fun l => x.rd l f.vs 1 % 2 ^ 32) 512) = none :=
    aligned_none (List.forall_mem_map.mpr fun l hl => (hva l hl).1)
  have hin : x.beyond (s.scratchSize x.wid) (x.accs (fun l => x.rd l f.vs 1 % 2 ^ 32) 512) = none :=
    within_none (List.forall_mem_map.mpr fun l hl => (hva l hl).2)
  rw [Iss.accs] at halign hin hbad
  simp only [semMuel, halign, hin, ht, hbad]

/-- The instruction of the counterexample: the packets from `V32` and `V64`, the matrices at the address in `V4`. -/
def muelInstr : FmtW := ⟨⟨0, false, 0⟩, 4, 8, 0, 0, 4, 0, 0⟩

/-- A lone wave about to issue it in lane 0, with 256 KiB of scratch whose byte 0 holds an uncorrectable error. -/
def muelState : State :=
  let s := State.reset.withSlot ((encode (.muel muelInstr)).getD 0)
  { s with
    grids := s.grids.map (fun g => { g with lrec := { g.lrec with scr := 1 } })
    teams := s.teams.map (fun t => { t with badPool := [(1, 0)] })
    cur := some { wid := loneWid, lanes := 1, pc := 0, viaLoop := false } }

/-- Its wave, its team and its group. -/
def muelWave : Wave := (muelState.wave? loneWid).get (by decide)
def muelTeam : Team := (muelState.team? loneWid.team).get (by decide)
def muelIss : Iss := { wid := loneWid, w := muelWave, group := [0], pc := 0, act := [0], uni := false, lanes := [0] }

theorem muelIss_issues : Issues (.muel muelInstr) muelInstr.h muelState muelIss where
  wave := (Option.some_get (x := muelState.wave? loneWid) (by decide)).symm
  cur := ⟨_, rfl, rfl, rfl, by decide⟩
  act := by decide
  active := by decide
  uni := by decide
  lanes := by decide
  operands := by decide
  role := by decide
  full := by decide
  sound := by decide
  quiet := by decide

/-- An arithmetic instruction leaves the contexts as they were. -/
theorem Computed.ctxs_eq {x : Iss} {s t : State} {f : Nat → LaneOut} (h : Computed x s t f) : t.ctxs = s.ctxs := by
  obtain ⟨⟨hrest, -, -⟩, -⟩ := h
  rw [hrest]

/-- Refutes O25: the clause of `MUEL` asks for aligned matrices within scratch, and not that scratch can be read. Where a byte of them holds
an uncorrectable error, `MUEL` writes nothing and raises `MACHINE_CHECK` (R223), which here kills the context, whose wave has no handler. -/
theorem not_packetOperations : ¬ Obligations.PacketOperations := by
  unfold Obligations.PacketOperations
  intro h
  obtain ⟨-, -, -, -, -, -, -, -, hmuel⟩ := h muelInstr
  have hva : ∀ l ∈ muelIss.lanes, muelIss.rd l muelInstr.vs 1 % 2 ^ 32 % 64 = 0 ∧
      muelIss.rd l muelInstr.vs 1 % 2 ^ 32 + 512 ≤ muelState.scratchSize muelIss.wid := by decide
  have hteam : muelState.team? muelIss.wid.team = some muelTeam :=
    (Option.some_get (x := muelState.team? loneWid.team) (by decide)).symm
  have hfen : ∀ l ∈ muelIss.lanes, (muelIss.w.thread l).fen = 0 := by decide
  have hquiet (f : Nat → LaneOut) : NoTrap muelIss f := fun l hl => by rw [hfen l hl]; exact BitVec.and_zero
  obtain ⟨t, ht, hcomp⟩ := hmuel muelState muelIss muelTeam muelIss_issues (hquiet _) hteam hva
  have hcheck := issue_check _ muelIss_issues (semMuel_badPool hteam hva (m := 1) (b := 0) (by decide +kernel))
  have hkilled : (muelState.raiseCheck loneWid [] 1 0 []).ctxs.map (·.killed) ≠ muelState.ctxs.map (·.killed) := by decide +kernel
  have hnext := ht.symm.trans hcheck
  injection hnext with hnext
  subst hnext
  exact hkilled (congrArg (List.map (·.killed)) hcomp.ctxs_eq)

/-! ### Lane groups and leaves -/

/-- At most one register result and at most one predicate result do not meet. -/
theorem LaneOut.tidy_of_le_one {o : LaneOut} (hw : o.writes.length ≤ 1) (hp : o.preds.length ≤ 1) : o.tidy := by
  refine ⟨?_, .inl hw, hp⟩
  match h : o.writes with
  | [] => exact List.nodup_nil
  | [p] => exact List.pairwise_singleton _ p.1
  | p :: q :: t => simp [h] at hw

/-- The check of a source lane of `SLANE` as a proposition (R480). -/
theorem slaneTaken_eq (j : Int) (g : List Nat) :
    (decide (0 ≤ j) && decide (j ≤ 31) && g.contains j.toNat) = decide (0 ≤ j ∧ j ≤ 31 ∧ j.toNat ∈ g) := by
  simp [Bool.and_assoc]

/-- Settles O26: a lane of each group instruction has one register result and at most one predicate, and `LEAFX` goes on. -/
theorem laneGroupsAndLeaves : Obligations.LaneGroupsAndLeaves := by
  unfold Obligations.LaneGroupsAndLeaves
  refine ⟨?groups, ?leaves⟩
  case groups =>
    intro f t same red
    have tidy {o : LaneOut} := LaneOut.tidy_of_le_one (o := o)
    refine ⟨?lred, ?matchR, ?slane, ?vpoll⟩
    case lred => exact yields_of_arith (fun _ => rfl) (fun _ _ => rfl) (fun _ _ => tidy (Nat.le_refl 1) (Nat.zero_le 1))
    case matchR =>
      refine yields_of_arith (body := semMatch f) (fun _ => rfl) (fun x s => ?_) (fun _ _ => tidy (Nat.le_refl 1) (Nat.le_refl 1))
      simp only [semMatch, Bool.beq_eq_decide_eq (α := Option Nat)]
      rfl
    case slane =>
      refine yields_of_arith (body := semSlane f) (fun _ => rfl) (fun x s => ?_) (fun _ _ => tidy (Nat.le_refl 1) (Nat.le_refl 1))
      simp only [semSlane, slaneTaken_eq]
      rfl
    case vpoll => exact yields_of_arith (fun _ => rfl) (fun _ _ => rfl) (fun _ _ => tidy (Nat.le_refl 1) (Nat.le_refl 1))
  case leaves => exact fun f s x H => issue_go _ H rfl

/-! ### Special registers -/

section
variable {f : FmtI} {x : Iss} {s s' : State}

/-- A read of a special register by a team that need not act together (R301, R483). -/
theorem semSreg_alone (h : f.imm = 0x030 ∨ f.imm = 0x00B → ∃ t, alone x s t) : semSreg f x s = readSpecial f x s := by
  unfold semSreg
  split
  next hshared =>
    obtain ⟨t, hal⟩ := h (by simpa [BitVec.toNat_eq] using hshared)
    exact together_alone hal _ _ _
  next => rfl

/-- `SREG` writes the register's value, or its low 32 bits, in every executing lane (R483; log 35). -/
theorem readSpecial_eq : readSpecial f x s = .go (s.updWave x.wid (fun w => x.lanes.foldl (fun w l =>
    if f.ty = 0x77 then w.writeReg l f.d.toNat 2 (s.special x.w l f.imm.toNat)
    else w.writeReg l f.d.toNat 1 (s.special x.w l f.imm.toNat % 2 ^ 32)) w)) [] := by
  by_cases hty : f.ty = 0x77
  · simp only [readSpecial, beq_iff_eq, if_pos hty, if_true]
  · have hone : ¬ (1 : Nat) = 2 := by decide
    simp only [readSpecial, beq_iff_eq, if_neg hty, if_neg hone]

/-- The value that `SWR` writes in a lane (R484). -/
def swrValue (f : FmtI) (x : Iss) (s : State) (l : Nat) : Nat :=
  let n := if f.ty == 0x77 then 2 else 1
  let v := x.rd (if x.uni then x.first else l) f.a n
  if n == 2 then v else s.special x.w l f.imm.toNat / 2 ^ 32 * 2 ^ 32 + v % 2 ^ 32

/-- An N32 keeps the register's upper 32 bits (R484). -/
theorem swrValue_eq (l : Nat) : swrValue f x s l =
    let r := if x.uni then x.first else l
    if f.ty = 0x77 then x.rd r f.a 2 else s.special x.w l f.imm.toNat / 2 ^ 32 * 2 ^ 32 + x.rd r f.a 1 % 2 ^ 32 := by
  by_cases hty : f.ty = 0x77
  · simp only [swrValue, beq_iff_eq, if_pos hty, if_true]
  · have hone : ¬ (1 : Nat) = 2 := by decide
    simp only [swrValue, beq_iff_eq, if_neg hty, if_neg hone]

/-- `SWR` of an accepted value to a register of the wave, or of the core and the context (R484). -/
theorem semSwr_accepted (hnum : specialsThread.contains f.imm.toNat = false)
    (hw : s.writeSpecial x.wid f.imm.toNat (swrValue f x s x.first) = some s') : semSwr f x s = .go s' [] := by
  unfold swrValue at hw
  simp only [semSwr, hnum, hw, Bool.false_eq_true, if_false]

/-- `SWR` of a value that such a register's check refuses (R484; log 28). -/
theorem semSwr_refused (hnum : specialsThread.contains f.imm.toNat = false)
    (hw : s.writeSpecial x.wid f.imm.toNat (swrValue f x s x.first) = none) :
    semSwr f x s = .trap cIllegalOperand x.actMask f.a.toNat := by
  unfold swrValue at hw
  simp only [semSwr, hnum, hw, Bool.false_eq_true, if_false]

/-- `SWR` to a register of the active threads, a `TRET` being of a level in use (R337, R484). -/
theorem semSwr_thread (hnum : specialsThread.contains f.imm.toNat = true)
    (hlevel : 0x010 ≤ f.imm.toNat → x.w.tlevel ≠ 0 ∧ bankLevel x.w f.imm.toNat ≤ x.w.tlevel) :
    semSwr f x s = .go (s.updWave x.wid (fun w => w.updThreads x.act (fun l t =>
      t.writeSpecial f.imm.toNat (bankLevel x.w f.imm.toNat) (swrValue f x s l)))) [] := by
  have hgo : ¬ (decide (f.imm.toNat ≥ 0x010) && (x.w.tlevel == 0 || decide (bankLevel x.w f.imm.toNat > x.w.tlevel))) = true := by
    simpa using hlevel
  simp only [semSwr, hnum, if_true, if_neg hgo, swrValue]

/-- `SWR` to a `TRET` of a level that is not in use (R337, R484). -/
theorem semSwr_unused (hnum : specialsThread.contains f.imm.toNat = true) (htret : 0x010 ≤ f.imm.toNat)
    (hlevel : x.w.tlevel = 0 ∨ x.w.tlevel < bankLevel x.w f.imm.toNat) :
    semSwr f x s = .trap cIllegalOperand x.actMask f.imm.toNat := by
  have hstop : (decide (f.imm.toNat ≥ 0x010) && (x.w.tlevel == 0 || decide (bankLevel x.w f.imm.toNat > x.w.tlevel))) = true := by
    simpa [htret] using hlevel
  simp only [semSwr, hnum, if_true, if_pos hstop]

end

/-! The registers of `SWR` by number (R482). -/

section
variable {s : State} {wid : WaveId} {w : Wave} (hw : s.wave? wid = some w) (v : Nat)
include hw

theorem writeSpecial_flags : s.writeSpecial wid 0x001 v = some (s.updWave wid (fun w => { w with flags := BitVec.ofNat 6 v })) := by
  simp [State.writeSpecial, hw]

theorem writeSpecial_srkey : s.writeSpecial wid 0x002 v = some (s.updWave wid (fun w => { w with srkey := BitVec.ofNat 64 v })) := by
  simp [State.writeSpecial, hw]

theorem writeSpecial_wlrange : s.writeSpecial wid 0x004 v =
    if wlrangeOk v then some (s.updWave wid (fun w => { w with wlrange := BitVec.ofNat 64 v })) else none := by
  simp [State.writeSpecial, hw]

theorem writeSpecial_dslack : s.writeSpecial wid 0x005 v = some (s.updWave wid (fun w => { w with dslack := BitVec.ofNat 64 v })) := by
  simp [State.writeSpecial, hw]

theorem writeSpecial_prio : s.writeSpecial wid 0x006 v =
    if v % 256 ≤ w.prioGrid then some (s.updWave wid (fun w => { w with prioLevel := v % 256 })) else none := by
  simp [State.writeSpecial, hw]

theorem writeSpecial_handler : s.writeSpecial wid 0x009 v =
    if pcBad v then none else some (s.updWave wid (fun w => { w with handler := BitVec.ofNat 64 v })) := by
  simp [State.writeSpecial, hw]

theorem writeSpecial_missed : s.writeSpecial wid 0x030 v =
    some (s.updCtx (asidOf wid) (fun c => { c with missed := cellSet 0 c.missed w.core (BitVec.ofNat 64 v) })) := by
  simp [State.writeSpecial, hw]

end

/-- The level whose `TRET` a number names: the wave's own, 1 or 2 (R337, R482). -/
def tretLevel (w : Wave) (num level : Nat) : Prop := num = 0x011 ∧ level = w.tlevel ∨ num = 0x019 ∧ level = 1 ∨ num = 0x021 ∧ level = 2

/-- The bank of a `TRET` outside a handler is that of level 1. -/
theorem bankLevel_tret {w : Wave} {num level : Nat} (h : tretLevel w num level) : bankLevel w num = max 1 level := by
  rcases h with ⟨rfl, rfl⟩ | ⟨rfl, rfl⟩ | ⟨rfl, rfl⟩ <;> rfl

/-- A `TRET` is a register of a thread, past the first 16. -/
theorem tretLevel_thread {w : Wave} {num level : Nat} (h : tretLevel w num level) : specialsThread.contains num = true ∧ 0x010 ≤ num := by
  rcases h with ⟨rfl, -⟩ | ⟨rfl, -⟩ | ⟨rfl, -⟩ <;> decide

/-- A write of a `TRET` (R337). -/
theorem Thread.writeSpecial_tret (t : Thread) {num : Nat} (h : 0x010 ≤ num) (level v : Nat) : t.writeSpecial num level v =
    if level = 2 then { t with tret2 := BitVec.ofNat 64 v } else { t with tret1 := BitVec.ofNat 64 v } := by
  have hfen : num ≠ 0 := by omega
  have hsrcnt : num ≠ 3 := by omega
  simp only [Thread.writeSpecial, beq_iff_eq, if_neg hfen, if_neg hsrcnt]

/-- Settles O38: `SREG` by its value, and `SWR` by the register's number and check. -/
theorem specialRegisters : Obligations.SpecialRegisters := by
  unfold Obligations.SpecialRegisters
  refine ⟨?sreg, ?swr⟩
  case sreg => exact fun k s x H hal => issue_go (semSreg k) H ((semSreg_alone hal).trans readSpecial_eq)
  case swr =>
    intro k s x H num value v refused put
    have hval : swrValue k x s = value := funext swrValue_eq
    have accept {n : BitVec 32} {s' : State} (himm : k.imm = n) (hnum : specialsThread.contains n.toNat = false)
        (hw : s.writeSpecial x.wid n.toNat v = some s') : exec (.swr k) s = .next (wentOn x s s' []) := by
      subst himm
      exact issue_go (semSwr k) H (semSwr_accepted hnum (by rw [hval]; exact hw))
    have refuse {n : BitVec 32} (himm : k.imm = n) (hnum : specialsThread.contains n.toNat = false)
        (hw : s.writeSpecial x.wid n.toNat v = none) : refused k.a.toNat := by
      subst himm
      exact issue_trap (semSwr k) H (semSwr_refused hnum (by rw [hval]; exact hw))
    have perThread {n : BitVec 32} {g : Nat → Thread → Thread} (himm : k.imm = n) (hnum : specialsThread.contains n.toNat = true)
        (hlevel : 0x010 ≤ n.toNat → x.w.tlevel ≠ 0 ∧ bankLevel x.w n.toNat ≤ x.w.tlevel)
        (hg : ∀ l t, t.writeSpecial n.toNat (bankLevel x.w n.toNat) (value l) = g l t) : put (fun w => w.updThreads x.act g) := by
      subst himm
      have hgo := semSwr_thread (s := s) hnum hlevel
      simp only [hval, hg] at hgo
      exact issue_go (semSwr k) H hgo
    have hw := H.wave
    refine ⟨?fen, ?flags, ?srkey, ?srcnt, ?range, ?badRange, ?dslack, ?prio, ?badPrio, ?handler, ?badHandler, ?missed, ?tret⟩
    case fen => exact fun himm => perThread himm rfl (fun h => absurd h (by decide)) (fun _ _ => rfl)
    case srcnt => exact fun himm => perThread himm rfl (fun h => absurd h (by decide)) (fun _ _ => rfl)
    case flags => exact fun himm => accept himm rfl (writeSpecial_flags hw v)
    case srkey => exact fun himm => accept himm rfl (writeSpecial_srkey hw v)
    case range => exact fun himm hv => accept himm rfl ((writeSpecial_wlrange hw v).trans (if_pos hv))
    case badRange => exact fun himm hv => refuse himm rfl ((writeSpecial_wlrange hw v).trans (if_neg (by simp [hv])))
    case dslack => exact fun himm => accept himm rfl (writeSpecial_dslack hw v)
    case prio => exact fun himm hv => accept himm rfl ((writeSpecial_prio hw v).trans (if_pos hv))
    case badPrio => exact fun himm hv => refuse himm rfl ((writeSpecial_prio hw v).trans (if_neg (Nat.not_le.mpr hv)))
    case handler => exact fun himm hv => accept himm rfl ((writeSpecial_handler hw v).trans (if_neg (by simp [hv])))
    case badHandler => exact fun himm hv => refuse himm rfl ((writeSpecial_handler hw v).trans (if_pos hv))
    case missed => exact fun himm => accept himm rfl (writeSpecial_missed hw v)
    case tret =>
      intro level (htret : tretLevel x.w k.imm.toNat level)
      obtain ⟨hthread, hhigh⟩ := tretLevel_thread htret
      have hbank := bankLevel_tret htret
      refine ⟨fun hpos hused => ?_, fun hunused => ?_⟩
      · rw [Nat.max_eq_right hpos] at hbank
        exact perThread rfl hthread (fun _ => ⟨by omega, by omega⟩) (fun l t => by rw [t.writeSpecial_tret hhigh, hbank])
      · refine issue_trap (semSwr k) H (semSwr_unused hthread hhigh ?_)
        rcases htret with ⟨-, rfl⟩ | ⟨-, rfl⟩ | ⟨-, rfl⟩ <;> omega

/-! ### Textures -/

section
variable {f : FmtX} {x : Iss} {s : State} {c : Ctx} {core v : Nat}

/-- The descriptor that `C` names is uniform, aligned, readable and accepted (R139, R490, R491). -/
def Textured (f : FmtX) (x : Iss) (s : State) (v : Nat) : Prop :=
  x.uniformFault f.c 2 = none ∧ x.uval f.c 2 ≠ 0 ∧ x.uval f.c 2 % 64 = 0 ∧ s.uload x (x.uval f.c 2) 64 = .ok v ∧ textureBad v = false

/-- The checks through an accepted descriptor let an instruction go on at the target core (R24, R490). -/
theorem withTexture_ok (hc : s.ctx? (asidOf x.wid) = some c) (ht : s.target x f true true = some core) (hd : Textured f x s v)
    (go : Texture → Ctx → Nat → Res) : withTexture f x s go = go (textureOf v) c core := by
  obtain ⟨huni, hnull, halign, hload, hgood⟩ := hd
  simp only [withTexture, huni, ht, beq_iff_eq, if_neg hnull, halign, bne_self_eq_false, hload, hgood, hc, Bool.false_eq_true, if_false]

/-- The addresses that a lane's sample reads (R143). -/
def texFoot (f : FmtX) (x : Iss) (t : Texture) (l : Nat) : List Nat :=
  t.footprint ((x.w.vregs l f.a.toNat 3).map BitVec.toNat) ((x.w.vregs l f.b.toNat 8).map BitVec.toNat)

/-- The fills of a lane's sample: eight words, each at a register of the destination packet (R142, R489; logs 32 and 115). -/
def texFills (f : FmtX) (x : Iss) (s : State) (c : Ctx) (t : Texture) (l : Nat) : List Fill :=
  let cs := (x.w.vregs l f.a.toNat 3).map BitVec.toNat
  let ws := (x.w.vregs l f.b.toNat 8).map BitVec.toNat
  (List.range 8).map (fun j =>
    { lane := l, code := f.d.toNat + j, val := BitVec.ofNat 64 ((t.sample cs ws
      (fun j => Config.freeNat (s.freeKey x.wid (s.fresh + 8 * l + j) (x.pc.toNat :: l :: j :: x.uval f.c 2 :: (cs ++ ws))))
      (fun a => t.value (ofBytes (toBytes t.es (s.viewNum c (s.ownBlock x.wid.team.grid) (s.viewOf x.wid) a t.es))))).getD j 0) })

/-- Without bytes that an entry held, a read is made where it is and in full (R320). -/
@[simp] theorem seenRest_nil (va n : Nat) : seenRest [] va n = [(va, n)] := rfl
@[simp] theorem seenBytes_nil (va n : Nat) (rest : Nat → Nat → List Byte) : seenBytes [] va n rest = rest va n := rfl

/-- A request for no lane is not sent; its name is used. -/
theorem State.requestOn_no_lane (s : State) (core bay : Nat) (w : WaveId) (kind : ReqKind) (code n : Nat) (fills : List Fill) :
    s.requestOn core bay w kind code n fills [] = { s with nextId := s.nextId + 1 } := by
  simp only [State.requestOn, State.newId, List.foldl_nil, updWave_id, List.isEmpty_nil, if_true]

/-! Lanes that are all marked alike: none is picked out under another mark, and all are under their own. -/

section
variable {α β κ : Type} {k j : κ} (ls : List α)

theorem filterMap_alike {g : α × κ → Option β} (h : ∀ a, g (a, k) = none) : (ls.map (fun a => (a, k))).filterMap g = [] :=
  filterMap_none (List.forall_mem_map.mpr fun a _ => h a)

theorem filter_alike [BEq κ] [LawfulBEq κ] : ((ls.map (fun a => (a, k))).filter (fun p => p.2 == k)).map (·.1) = ls := by
  have hall : (ls.map (fun a => (a, k))).filter (fun p => p.2 == k) = ls.map (fun a => (a, k)) :=
    List.filter_eq_self.mpr (List.forall_mem_map.mpr fun _ _ => beq_self_eq_true k)
  rw [hall, List.map_map]
  exact List.map_id ls

theorem filter_unlike [BEq κ] (h : (k == j) = false) : ((ls.map (fun a => (a, k))).filter (fun p => p.2 == j)).map (·.1) = [] := by
  rw [List.filter_eq_nil_iff.mpr (List.forall_mem_map.mpr fun a _ => by simp only [h, Bool.false_eq_true, not_false_eq_true])]
  rfl

theorem flatMap_eq_of_forall {g h : α → List β} (heq : ∀ a ∈ ls, g a = h a) : ls.flatMap g = ls.flatMap h := by
  rw [List.flatMap_def, List.flatMap_def, List.map_congr_left heq]

end

/-- The footprints of a group's lanes where each stands as `k` (R143). -/
theorem map_footOf_eq {own : Option (Nat × Nat)} {t : Texture} {k : Foot} (hseen : ∀ l ∈ x.act, x.seen l = [])
    (hk : ∀ l ∈ x.act, s.footOf c own t.es [] (texFoot f x t l) = k) :
    x.act.map (fun l => (l, s.footOf c own t.es (x.seen l) (t.footprint ((x.w.vregs l f.a.toNat 3).map BitVec.toNat)
      ((x.w.vregs l f.b.toNat 8).map BitVec.toNat)))) = x.act.map (fun l => (l, k)) :=
  List.map_congr_left fun l hl => by rw [hseen l hl, ← hk l hl, texFoot]

/-- `TEX` of lanes whose footprints are resident and readable requests their samples (R142, R143). -/
theorem semTex_resident (hc : s.ctx? (asidOf x.wid) = some c) (ht : s.target x f true true = some core) (hd : Textured f x s v)
    (hseen : ∀ l ∈ x.act, x.seen l = [])
    (hok : ∀ l ∈ x.act, s.footOf c (s.ownBlock x.wid.team.grid) (textureOf v).es [] (texFoot f x (textureOf v) l) = .ok)
    (hread : ∀ l ∈ x.act, ∀ a ∈ texFoot f x (textureOf v) l,
      s.unreadable c (s.ownBlock x.wid.team.grid) (s.viewOf x.wid) a (textureOf v).es = none) :
    semTex f x s = .go { s.requestOn core (bayTo x f) x.wid .texture f.d.toNat 8 (x.act.flatMap (texFills f x s c (textureOf v))) x.act with
      fresh := s.fresh + 256 } [] := by
  have hne : (Foot.ok == Foot.border) = false := rfl
  rw [semTex, withTexture_ok hc ht hd]
  simp only [map_footOf_eq hseen hok, filterMap_alike, filter_alike, filter_unlike _ hne, implies_true, List.filter_nil, List.map_nil,
    List.filterMap_nil, List.append_nil]
  rw [filterMap_none, flatMap_eq_of_forall (h := texFills f x s c (textureOf v))]
  · simp only [dataCheckTo, List.foldl_nil, park_nil, updWave_id]
  · intro l hl
    simp only [hseen l hl, seenBytes_nil, texFills]
  · intro l hl
    rw [hseen l hl, Option.map_eq_none_iff, List.findSome?_eq_none_iff]
    simp only [seenRest_nil, List.mem_flatMap, List.mem_singleton]
    rintro q ⟨a, ha, rfl⟩
    exact hread l hl a ha

/-- `TEX` of lanes that all meet a non-resident page, without marks, gives the border (R143, R144). -/
theorem semTex_border (hc : s.ctx? (asidOf x.wid) = some c) (ht : s.target x f true true = some core) (hd : Textured f x s v)
    (hseen : ∀ l ∈ x.act, x.seen l = [])
    (hdark : ∀ l ∈ x.act, s.footOf c (s.ownBlock x.wid.team.grid) (textureOf v).es [] (texFoot f x (textureOf v) l) = .border)
    (hmarks : (textureOf v).marks = 0) :
    semTex f x s = .go { s.updWave x.wid (fun w => x.act.foldl (fun w l =>
      w.setVs l f.d.toNat (List.replicate 8 (BitVec.ofNat 32 (textureOf v).border))) w) with
        nextId := s.nextId + 1, fresh := s.fresh + 256 } [] := by
  have hne : (Foot.border == Foot.ok) = false := rfl
  have hunmarked : x.act.filter (fun _ => false) = [] := List.filter_eq_nil_iff.mpr fun _ _ => Bool.false_ne_true
  have hgoing : x.act.filter (fun _ => true) = x.act := List.filter_eq_self.mpr fun _ _ => rfl
  rw [semTex, withTexture_ok hc ht hd]
  simp only [map_footOf_eq hseen hdark, filterMap_alike, filter_alike, filter_unlike _ hne, implies_true, List.filter_nil, List.map_nil,
    List.filterMap_nil, List.append_nil, hmarks, bne_self_eq_false, Bool.false_and, hunmarked, dataCheckTo, List.foldl_nil, park_nil,
    List.contains_nil, Bool.not_false, hgoing, List.flatMap_nil, State.requestOn_no_lane]
  rfl

/-- An instruction of whose accesses none has been held goes on to its own effect, once the requests of a load into an S register are past
the pseudo-channels (R217, R320). -/
theorem orAnswer_atOnce {code : Nat} (h : AtOnce x s code) (go : Res) : x.orAnswer code s go = go := by
  have hno : x.answers s = [] := filterMap_none fun l hl => by
    split
    next id uni hrun =>
      obtain ⟨hf, ht⟩ := h.held l hl id
      cases uni
      · exact absurd hrun hf
      · exact absurd hrun ht
    next => rfl
  simp only [Iss.orAnswer, hno]
  refine if_neg fun hchan => ?_
  simp only [Bool.and_eq_true, decide_eq_true_eq] at hchan
  obtain ⟨⟨hlow, hhigh⟩, hwait⟩ := hchan
  simp [h.channel hlow hhigh] at hwait

/-- The group as the texture unit of its target makes its accesses (R24). -/
def Iss.atUnit (x : Iss) (f : FmtX) (core : Nat) : Iss := { x with w := { x.w with core := core, bay := bayTo x f } }

/-- An operand that breaks no rule and allows no special names none (R87). -/
theorem Opnd.not_special {o : Opnd} {nregs : Nat} {uni : Bool} (h : o.bad nregs uni = false) (hx : o.x = false) :
    ¬ (449 ≤ o.code ∧ o.code ≤ 453) := by
  intro hcode
  have hv : ¬ o.code < 320 := by omega
  have hs : ¬ (384 ≤ o.code && decide (o.code < 448)) = true := by simp only [Bool.and_eq_true, decide_eq_true_eq]; omega
  have hz : ¬ (o.code == 448) = true := by simp only [beq_iff_eq]; omega
  have hspecial : (449 ≤ o.code && decide (o.code ≤ 453)) = true := by simpa only [Bool.and_eq_true, decide_eq_true_eq] using hcode
  rw [Opnd.bad, if_neg hv, if_neg hs, if_neg hz, if_pos hspecial, hx] at h
  exact Bool.noConfusion h

/-- The operands of an instruction without an operand fault break no rule (R92). -/
theorem operand_good {i : Instr} {w : Wave} {o : Opnd} (h : operandFault i w = none) (ho : o ∈ operandsOf i) :
    o.bad (if w.isLead then 0 else w.nregs) (isUniform i) = false := by
  cases hfind : (operandsOf i).find? (fun o => o.bad (if w.isLead then 0 else w.nregs) (isUniform i)) with
  | none => simpa using List.find?_eq_none.mp hfind o ho
  | some o' =>
    simp only [operandFault, hfind] at h
    split at h <;> cases h

/-- A source that is no special reads the same at the unit of any core and bay (R87): of all codes, only `CORE` and `BAY` name the place of
the wave (R26). -/
theorem Iss.rd_atUnit {code : RegCode} (h : ¬ (449 ≤ code.toNat ∧ code.toNat ≤ 453)) (l n : Nat) :
    (x.atUnit f core).rd l code n = x.rd l code n := by
  unfold Iss.rd Wave.readReg
  split
  next => rfl
  next =>
    split
    next => rfl
    next =>
      split
      case h_4 => omega
      case h_5 => omega
      all_goals rfl

/-- The VA of the word of marks that `TEXQ` names in a lane (R145). -/
def markVa (f : FmtX) (x : Iss) (t : Texture) (l : Nat) : Nat := t.marks + 4 * (x.rd l f.a 1 % 2 ^ 32)

/-- None of some elements that all satisfy a check fails it. -/
theorem filter_not_of_all {α : Type} {l : List α} {p : α → Bool} (h : ∀ a ∈ l, p a = true) : l.filter (fun a => !p a) = [] :=
  List.filter_eq_nil_iff.mpr fun a ha => by simp [h a ha]

/-- `TEXQ` and `TEXQ.READ` of words within the marks, with nothing in the way of their accesses (R145, R491). -/
theorem semTexq_marks {clear : Bool} {pas : Nat → List (Nat × Nat)} (ha : ¬ (449 ≤ f.a.toNat ∧ f.a.toNat ≤ 453))
    (hc : s.ctx? (asidOf x.wid) = some c) (ht : s.target x f true true = some core) (hat : AtOnce x s f.d.toNat)
    (hd : Textured f x s v) (hm : (textureOf v).marks ≠ 0)
    (hin : ∀ l ∈ x.lanes, 32 * (x.rd l f.a 1 % 2 ^ 32) < (textureOf v).nmark)
    (hr : Reaches (x.atUnit f core) s (x.accs (markVa f x (textureOf v)) 4) (if clear then .write else .read)
      (fun c a => clear && c.needsMcst a.va a.n) pas c)
    (hread : Readable s (x.accs (markVa f x (textureOf v)) 4) pas) :
    let r := s.rmwLanes x.wid (fun _ _ => if clear then some 0 else none)
      ((x.accs (markVa f x (textureOf v)) 4).map (fun a => (a, pas a.lane)))
    semTexq f clear x s = .go (r.2.deliverOn core (bayTo x f) x.wid .marks f.d.toNat r.1
      (s.toks core (x.accs (markVa f x (textureOf v)) 4))) [] := by
  intro r
  have hhit : ∀ l ∈ x.lanes, ((textureOf v).marks != 0 && decide (32 * (x.rd l f.a 1 % 2 ^ 32) < (textureOf v).nmark)) = true :=
    fun l hl => by simpa [hm] using hin l hl
  have hall := List.filter_eq_self.mpr hhit
  have hnone := filter_not_of_all hhit
  have hphase := hr.phase
  have hbad := readable_none (x := x) hread
  have hrd (l : Nat) : (x.atUnit f core).rd l f.a 1 = x.rd l f.a 1 := Iss.rd_atUnit ha l 1
  simp only [Iss.atUnit, Iss.accs, markVa] at hphase hbad hrd
  rw [semTexq, orAnswer_atOnce hat, withTexture_ok hc ht hd]
  simp only [hrd, hall, hnone, hphase, hbad, dataCheckTo]
  simp only [Phase.slots, Phase.holdAll, Iss.awaits, List.foldl_nil, List.isEmpty_nil, Bool.true_or, if_true, List.map_nil,
    List.append_nil, List.map_map, Function.comp_def, r, Iss.accs, markVa]

/-- `TRACE` requests a walk for each active lane (R155, R492). -/
theorem semTrace_walks (ht : s.target x f true true = some core) (huni : x.uniformFault f.b 2 = none) :
    semTrace f x s = .go (s.requestOn core (bayTo x f) x.wid (.walk (f.fn.toNat == 1) f.d.toNat (x.act.map (fun l =>
      (l, (x.w.vregs l f.a.toNat 8).map BitVec.toNat ++ [x.uval f.b 2, if f.c.toNat = 511 then 0xFF else x.rd l f.c 1 % 256])))) f.d.toNat
        8 [] x.act) [] := by
  simp only [semTrace, huni, ht, beq_iff_eq]

end

/-- Settles O51: `TEX` by how the footprints stand, `TEXQ` in its two forms by their words of marks, and `TRACE`. -/
theorem texturesAndRays : Obligations.TexturesAndRays := by
  unfold Obligations.TexturesAndRays
  intro f s x c core v pas t reg foot own view d word va textured unheld y hc ht
  refine ⟨?resident, ?border, ?clear, ?read, ?trace⟩
  case resident =>
    exact fun H hd hseen hok hread => issue_go (semTex f) H (semTex_resident hc ht hd hseen hok hread)
  case border =>
    exact fun H hd hseen hdark hmarks => issue_go (semTex f) H (semTex_border hc ht hd hseen hdark hmarks)
  case clear =>
    intro H hat hd hm hin hr hread r
    have ha := Opnd.not_special (operand_good H.operands (.tail _ (.head _))) rfl
    exact issue_go (semTexq f true) H (semTexq_marks ha hc ht hat hd hm hin hr hread)
  case read =>
    intro H hat hd hm hin hr hread r
    have ha := Opnd.not_special (operand_good H.operands (.tail _ (.head _))) rfl
    exact issue_go (semTexq f false) H (semTexq_marks ha hc ht hat hd hm hin hr hread)
  case trace => exact fun H huni => issue_go (semTrace f) H (semTrace_walks ht huni)

end Sys2Proof.Machine
end

section
/-!
SUPPORT. The commands of a context's queues: how a command that starts is carried out (R271, R355), and `PROC_RANGE` deregistering
(R239, R243), whose pages become invalid.
-/
namespace Sys2Proof.Machine

section
variable {h : CmdHeader} {b : List DWord} {s : State} {c : Ctx}

/-- A command that starts runs in its queue and is carried out at once (R271, R288, R355). -/
theorem queued_starts (H : Starts h b s c) (go : Ctx → Cmd → State → State) :
    queued h b go s = .next (drained s (go c { h := h, body := b, step := 0 } (started h b s c))) := by
  obtain ⟨⟨hon, hwhole⟩, hctx, hqueue, hlive, hgoing, hfree⟩ := H
  have hheld : (c.stopped && !isStop h b) = false := by
    rcases hgoing with hgo | hstop
    · rw [hgo, Bool.false_and]
    · rw [hstop, Bool.not_true, Bool.and_false]
  have hruns : c.runs (hq h) = none := by rw [Ctx.runs, hfree, Option.map_none]
  simp only [queued, hon, hwhole, hctx, if_neg (Nat.not_le.mpr hqueue), hlive, hruns, hheld, Bool.false_and, Bool.false_eq_true, if_false]
  rfl

/-- An effect that stores nothing leaves memory as it was when its step ends. -/
theorem byteAt_drained_of_no_stores {t : State} (ht : t.stores = []) (pa : Nat) : (drained s t).byteAt pa = cellGet memDefault s.mem pa := by
  simp only [drained, ht]
  rfl

/-- A range that deregisters without a busy block releases its pages: the entry of each block is invalid and in no TLB, then the range is
gone (R239, R243). -/
theorem exec_procRangeDeregister {p : ProcRange} (H : Starts h b s c) (hp : c.proc? (nfield (bodyWord b 0) 13 8) = some p)
    (hbody : strayBody b [[(1, 0), (13, 8)]] = false)
    (hidle : ∀ q ∈ p.blocks, (started h b s c).blockBusy c.asid (nfield (bodyWord b 0) 13 8) q.1 q.2 = false) :
    exec (.procRangeDeregister h b) s = .next (drained s
      ((((started h b s c).unmapBlocks c.asid (nfield (bodyWord b 0) 13 8) (p.blocks.map (·.1))).updCtx c.asid (fun c => { c with
        procs := c.procs.filter (fun q => q.1 != nfield (bodyWord b 0) 13 8) })).endCmd h 0 0)) := by
  refine (queued_starts H (semProcDeregister h b)).trans ?_
  simp only [semProcDeregister, hbody, hp, any_false hidle, Bool.false_eq_true, if_false]

end

/-! ### A range whose block is mapped -/

/-- The command of the counterexample: `PROC_RANGE`, deregistering range 3 of context 0 (R362). -/
def deregHeader : CmdHeader := { cmd := 0x0A, queue := 0, asid := 0, pkg := false, length := 192, tag := 7, spare := 0 }
def deregBody : List DWord := 0x301 :: List.replicate 23 0

/-- The range: two blocks of 64 KiB at VA 1 MiB and a pool of one frame at PA 2 MiB; block 0 is FULL in that frame. -/
def deregRange : ProcRange :=
  { base := 0x100000, big := false, nblk := 2, pool := 0x200000, nfrm := 1, lrec := loneRec,
    blocks := [(0, { Block.empty with state := 2, frame := some 0 })], waiting := [] }

/-- The PA of the level 3 entry of block 0. -/
def deregEntry : Nat := 0x8080

/-- The context of the range, its tables at 0x2000, 0x4000, 0x6000 and 0x8000, and the entry of block 0 valid and writable (R230). -/
def deregCtx : Ctx := { newCtx 0 [] with ptroot := 0x2000, procs := [(3, deregRange)] }
def deregState : State :=
  { State.reset with
    booted := true
    ctxs := [deregCtx]
    mem := [(0x2000, 0x01), (0x2001, 0x40), (0x4000, 0x01), (0x4001, 0x60), (0x6000, 0x01), (0x6001, 0x80), (0x8080, 0x07), (0x8082, 0x20)] }

theorem deregState_starts : Starts deregHeader deregBody deregState deregCtx where
  runs := ⟨rfl, rfl⟩
  ctx := rfl
  queue := by decide
  live := rfl
  going := .inl rfl
  free := rfl

/-- Refutes O58: the clauses of `PROC_RANGE` leave memory and the TLBs as they were, while the pages of the blocks become invalid (R239,
R243; log 99). Here a range deregisters whose block 0 is FULL and mapped: its level 3 entry is cleared, where the clause keeps it valid. -/
theorem not_queuedCommands : ¬ Obligations.QueuedCommands := by
  unfold Obligations.QueuedCommands
  rintro ⟨-, hstart⟩
  obtain ⟨-, -, -, -, -, -, -, -, -, -, hranges, -⟩ :=
    hstart deregHeader deregBody deregState deregState deregState deregState deregCtx 0 deregState_starts
  have hrange : deregCtx.proc? (nfield (bodyWord deregBody 0) 13 8) = some deregRange := by decide +kernel
  have hbody : strayBody deregBody [[(1, 0), (13, 8)]] = false := by decide +kernel
  have hidle : ∀ q ∈ deregRange.blocks, (started deregHeader deregBody deregState deregCtx).blockBusy deregCtx.asid
      (nfield (bodyWord deregBody 0) 13 8) q.1 q.2 = false := by decide +kernel
  obtain ⟨-, hclause⟩ := hranges deregRange hrange
  have hmodel := exec_procRangeDeregister deregState_starts hrange hbody hidle
  have hnext := (hclause hbody hidle).symm.trans hmodel
  injection hnext with hnext
  have hentry := congrArg (fun t => t.byteAt deregEntry) hnext
  have hkept : cellGet memDefault deregState.mem deregEntry = 0x07 := by decide
  rw [byteAt_drained_of_no_stores rfl, hkept] at hentry
  exact absurd hentry (by decide +kernel)

end Sys2Proof.Machine
end

section
/-!
SUPPORT. The matrix instructions at issue (R174, R176, R179, R183 to R187): what `MWL` stages, what the rows that an engine will access come to
where nothing stands in their way, and the entry that each of the others puts into a FIFO with room; and two teams of one name, for whose
`MWL` the statement is not what the model does.
-/
namespace Sys2Proof.Machine

section
variable {f : FmtX} {x : Iss} {s : State} {t : Team} {c c' : Ctx} {core n : Nat} {pas pas' : Nat → List (Nat × Nat)}

/-! ### `MWL` -/

/-- Operands that are each uniform pass the check of all of them (R60). -/
theorem uniformFaults_none {ops : List (RegCode × Nat)} (h : ∀ o ∈ ops, x.uniformFault o.1 o.2 = none) : x.uniformFaults ops = none := by
  induction ops with
  | nil => rfl
  | cons o ops ih =>
    simp only [Iss.uniformFaults, h o List.mem_cons_self, ih (fun p hp => h p (List.mem_cons_of_mem o hp))]

/-- The bytes of scales that an `MWL` stages with its quarter (R174). -/
def mwlScaleBytes (f : FmtX) : Nat := if f.c.toNat = 511 then 0 else if tyWidth (f.fn.toNat % 16) = 4 then 512 else 256

/-- The slot that an `MWL` or an `MMAC` names (R174). -/
def weightSlot (f : FmtX) : Nat := if f.fn.getLsbD 5 then 1 else 0

/-- The bytes of scratch that an `MWL` reads: its image in the form from scratch, then its scales (R174). -/
def mwlReads (f : FmtX) (x : Iss) : List LaneAcc :=
  (if f.fn.getLsbD 4 then [{ lane := x.first, va := x.uval f.a 1 % 2 ^ 32, n := 8192 }] else []) ++
    [{ lane := x.first, va := x.uval f.c 1 % 2 ^ 32, n := mwlScaleBytes f }]

/-- The quarter that an `MWL` stages (R174; logs 95 and 102). -/
def mwlQuarter (f : FmtX) (x : Iss) (s : State) (t : Team) : Quarter :=
  { bay := x.w.bay, slot := weightSlot f, quartet := quartetOf (s.recOf x.wid) x.wid.wave, ty := f.fn.toNat % 16,
    bytes := if f.fn.getLsbD 4 then t.scratchBytes (x.uval f.a 1 % 2 ^ 32) 8192 else
      (List.range 64).flatMap (fun i => (List.range 32).flatMap (fun l => toBytes 4 (x.w.vreg l (f.a.toNat + i)).toNat))
    scales := t.scratchBytes (x.uval f.c 1 % 2 ^ 32) (mwlScaleBytes f) }

/-- `MWL` that passes its checks stages its quarter, no other standing at its bay for its slot (R174). -/
theorem exec_mwl (H : Issues (.mwl f) f.h s x) (hcore : s.target x f false false = some core) (ht : s.team? x.wid.team = some t)
    (ha : f.fn.getLsbD 4 = true → x.uniformFault f.a 1 = none) (hc : f.c.toNat ≠ 511 → x.uniformFault f.c 1 = none)
    (himage : f.fn.getLsbD 4 = true → x.uval f.a 1 % 2 ^ 32 % 256 = 0 ∧ x.uval f.a 1 % 2 ^ 32 + 8192 ≤ s.scratchSize x.wid)
    (hscales : mwlScaleBytes f ≠ 0 → x.uval f.c 1 % 2 ^ 32 % 64 = 0 ∧ x.uval f.c 1 % 2 ^ 32 + mwlScaleBytes f ≤ s.scratchSize x.wid)
    (hsound : poolCheck x t 1 (mwlReads f x) = none) (hfree : ∀ q ∈ t.staged, ¬ (q.bay = x.w.bay ∧ q.slot = weightSlot f)) :
    exec (.mwl f) s = .next (wentOn x s ((s.updTeam t.id (fun u => { u with
      staged := u.staged ++ [mwlQuarter f x s t] })).slotSettle t.id (weightSlot f)) []) := by
  refine issue_go (semMwl f) H ?_
  have huni : x.uniformFaults ((if f.fn.getLsbD 4 then [(f.a, 1)] else []) ++ (if f.c.toNat = 511 then [] else [(f.c, 1)])) = none := by
    refine uniformFaults_none (fun o ho => ?_)
    rcases List.mem_append.mp ho with ho | ho
    · split at ho
      next hscr => exact List.mem_singleton.mp ho ▸ ha hscr
      next => cases ho
    · split at ho
      next => cases ho
      next hne => exact List.mem_singleton.mp ho ▸ hc hne
  have himageAlign : ¬ (f.fn.getLsbD 4 && x.uval f.a 1 % 2 ^ 32 % 256 != 0) = true := by simpa using fun h => (himage h).1
  have himageIn : ¬ (f.fn.getLsbD 4 && decide (x.uval f.a 1 % 2 ^ 32 + 8192 > s.scratchSize x.wid)) = true := by
    simpa using fun h => (himage h).2
  have hscalesAlign : ¬ (mwlScaleBytes f != 0 && x.uval f.c 1 % 2 ^ 32 % 64 != 0) = true := by simpa using fun h => (hscales h).1
  have hscalesIn : ¬ (mwlScaleBytes f != 0 && decide (x.uval f.c 1 % 2 ^ 32 + mwlScaleBytes f > s.scratchSize x.wid)) = true := by
    simpa using fun h => (hscales h).2
  have hstaged : t.staged.any (fun q => q.bay == x.w.bay && q.slot == weightSlot f) = false :=
    any_false (fun q hq => by simpa using hfree q hq)
  unfold mwlScaleBytes at hscalesAlign hscalesIn
  unfold weightSlot at hstaged
  unfold mwlReads mwlScaleBytes at hsound
  simp only [semMwl, beq_iff_eq, huni, hcore, ht, if_neg himageAlign, if_neg himageIn, if_neg hscalesAlign, if_neg hscalesIn, hsound,
    hstaged, Bool.false_eq_true, if_false]
  rfl

/-- Where the team alone bears its name, a quarter with the scratch of each team of that name is the quarter with its own scratch. -/
theorem updTeam_mwlQuarter_of_unique (hone : ∀ u ∈ s.teams, u.id = t.id → u = t) :
    s.updTeam t.id (fun u => { u with staged := u.staged ++ [mwlQuarter f x s u] }) =
      s.updTeam t.id (fun u => { u with staged := u.staged ++ [mwlQuarter f x s t] }) := by
  have hteams : s.teams.map (fun u => if u.id = t.id then { u with staged := u.staged ++ [mwlQuarter f x s u] } else u) =
      s.teams.map (fun u => if u.id = t.id then { u with staged := u.staged ++ [mwlQuarter f x s t] } else u) :=
    List.map_congr_left fun u hu => ite_congr rfl (fun hid => by rw [hone u hu hid]) (fun _ => rfl)
  unfold State.updTeam
  rw [hteams]

/-! ### The FIFO -/

/-- A FIFO with room, for which no wave waits, takes an entry at once (R176). -/
theorem offerEntry_free (hfree : fifoFree x s) (i : Instr) (accept : State → Res) : offerEntry i x accept s = accept s := by
  obtain ⟨hhold, hroom, hwait⟩ := hfree
  simp only [offerEntry, hhold, hroom, hwait, List.takeWhile_nil, List.isEmpty_nil, Bool.and_self, if_true]

/-- A tile index in range (R179). -/
theorem tileOf_lt (hn : x.uval f.b 1 % 2 ^ 32 < s.tiles x.wid) : tileOf f x s = some (x.uval f.b 1 % 2 ^ 32) := if_pos hn

/-- An entry changes no context. -/
theorem ctx?_pushEntry (e : Entry) (a : Nat) : (s.pushEntry x e).ctx? a = s.ctx? a := rfl

/-! ### `MMAC` and `MZERO` -/

/-- The generation of a slot that an `MMAC` is bound to forms still (R175). -/
def WSlot.forming (w : WSlot) : Bool := w.state == .filling || w.state == .draining

/-- The element type of the generation that an `MMAC` is bound to (R175, R180). -/
def WSlot.boundTy (w : WSlot) : Nat := if w.forming then w.formTy else w.ty

/-- The registers of `MMAC` as read at issue: addresses in scratch or activations, then the addresses of scales (R181, R187). -/
def mmacSrcs (f : FmtX) (x : Iss) : List (Nat × Word) :=
  (if f.fn.getLsbD 4 then x.act.map (fun l => (l, x.w.vreg l f.a.toNat))
    else x.act.flatMap (fun l => (List.range 64).map (fun i => (64 * l + i, x.w.vreg l (f.a.toNat + i))))) ++
  (if f.c.toNat = 511 then [] else x.act.map (fun l => (4096 + l, x.w.vreg l f.c.toNat)))

/-- The entry of an `MMAC`: its registers, and scratch where it reads it, as they are at issue (R187). -/
def mmacEntry (f : FmtX) (x : Iss) (t : Team) : Entry :=
  let w := t.wslot (weightSlot f)
  { newEntry (.mmac f) x (mmacSrcs f x) [x.uval f.b 1 % 2 ^ 32] with
    slot := weightSlot f
    gen := if w.forming then w.gen + 1 else w.gen
    seen := if f.fn.getLsbD 4 || f.c.toNat != 511 then t.scratch else [] }

/-- The accesses of the active lanes at the 32-bit addresses in a register. -/
def Iss.actAccs (x : Iss) (r : RegCode) (n : Nat) : List LaneAcc := x.act.map (fun l => { lane := l, va := x.rd l r 1 % 2 ^ 32, n := n })

/-- `MMAC` that passes its checks enters the FIFO (R179 to R181). -/
theorem exec_mmac (H : Issues (.mmac f) f.h s x) (hcore : s.target x f false false = some core) (ht : s.team? x.wid.team = some t)
    (hfree : fifoFree x s) (hn : x.uval f.b 1 % 2 ^ 32 < s.tiles x.wid)
    (hstate : (t.wslot (weightSlot f)).state ≠ .empty)
    (hpairs : pairs (f.fn.toNat % 16) (t.wslot (weightSlot f)).boundTy = true)
    (hrows : f.fn.getLsbD 4 = true → ∀ l ∈ x.act, x.rd l f.a 1 % 2 ^ 32 % 64 = 0 ∧ x.rd l f.a 1 % 2 ^ 32 + 256 ≤ s.scratchSize x.wid)
    (hscales : f.c.toNat ≠ 511 → ∀ l ∈ x.act, x.rd l f.c 1 % 2 ^ 32 % 16 = 0 ∧
      x.rd l f.c 1 % 2 ^ 32 + slotK (f.fn.toNat % 16) / 32 ≤ s.scratchSize x.wid) :
    exec (.mmac f) s = .next (wentOn x s (s.pushEntry x (mmacEntry f x t)) []) := by
  refine issue_go (semMmac f) H ?_
  let y : Iss := { x with uni := false }
  let size := s.scratchSize x.wid
  let groups := slotK (f.fn.toNat % 16) / 32
  have hbound : ¬ ((t.wslot (weightSlot f)).state == .empty || !pairs (f.fn.toNat % 16) (t.wslot (weightSlot f)).boundTy) = true := by
    simp [hstate, hpairs]
  have hrowsAlign : (if f.fn.getLsbD 4 then y.misaligned 64 (x.actAccs f.a 256) else none) = none :=
    ite_eq_right_iff.mpr (fun h => aligned_none (List.forall_mem_map.mpr fun l hl => (hrows h l hl).1))
  have hrowsIn : (if f.fn.getLsbD 4 then y.beyond size (x.actAccs f.a 256) else none) = none :=
    ite_eq_right_iff.mpr (fun h => within_none (List.forall_mem_map.mpr fun l hl => (hrows h l hl).2))
  have hscalesAlign : (if f.c.toNat = 511 then none else y.misaligned 16 (x.actAccs f.c groups)) = none :=
    ite_eq_left_iff.mpr (fun h => aligned_none (List.forall_mem_map.mpr fun l hl => (hscales h l hl).1))
  have hscalesIn : (if f.c.toNat = 511 then none else y.beyond size (x.actAccs f.c groups)) = none :=
    ite_eq_left_iff.mpr (fun h => within_none (List.forall_mem_map.mpr fun l hl => (hscales h l hl).2))
  unfold weightSlot WSlot.boundTy WSlot.forming at hbound
  simp only [Iss.actAccs, y, size, groups] at hrowsAlign hrowsIn hscalesAlign hscalesIn
  simp only [semMmac, hcore, ht, tileOf_lt hn, if_neg hbound, beq_iff_eq, hrowsAlign, hrowsIn, hscalesAlign, hscalesIn, offerEntry_free hfree]
  rfl

/-- `MZERO` of a tile in range enters the FIFO (R179, R183). -/
theorem exec_mzero (H : Issues (.mzero f) f.h s x) (hcore : s.target x f false false = some core) (hfree : fifoFree x s)
    (hn : x.uval f.b 1 % 2 ^ 32 < s.tiles x.wid) :
    exec (.mzero f) s = .next (wentOn x s (s.pushEntry x (newEntry (.mzero f) x [] [x.uval f.b 1 % 2 ^ 32])) []) := by
  refine issue_go (semMzero f) H ?_
  rw [semMzero_offers hcore hn, offerEntry_free hfree]

/-! ### Rows that an engine will access -/

/-- Accesses that all translate, none missing (R227). -/
theorem xlateEach_ok {y : Iss} (hctx : s.ctx? (asidOf y.wid) = some c) {as : List (LaneAcc × Acc)} {pa : LaneAcc × Acc → List (Nat × Nat)}
    (h : ∀ a ∈ as, s.xlateAll c (s.ownBlock y.wid.team.grid) a.1.va a.1.n a.2 = .ok (pa a)) :
    s.xlateEach y as = .ok (as.map (fun a => (a.1, pa a))) [] := by
  have hr : as.map (fun a => (a.1, s.xlateAll c (s.ownBlock y.wid.team.grid) a.1.va a.1.n a.2)) =
      as.map (fun a => (a.1, XAll.ok (pa a))) :=
    List.map_congr_left (fun a ha => by rw [h a ha])
  have h0 : ∀ {β : Type}, as.filterMap (fun _ => (none : Option β)) = [] := filterMap_none (fun _ _ => rfl)
  unfold State.xlateEach
  simp only [hctx, hr, List.filterMap_map, Function.comp_def, h0, List.map_nil, List.filter_nil]
  rw [← List.filterMap_eq_map]
  rfl

/-- Without accesses nothing can stand in the way of them. -/
theorem rowsReach_nil (hctx : s.ctx? (asidOf x.wid) = some c) (acc : Acc) : RowsReach x s [] acc pas c :=
  ⟨hctx, fun _ ha => absurd ha List.not_mem_nil⟩

/-- Rows that are accessed only under a condition, in the context of the wave. -/
theorem rowsReach_ite {p : Prop} [Decidable p] {as : List LaneAcc} {acc : Acc} (hctx : s.ctx? (asidOf x.wid) = some c')
    (h : p → RowsReach x s as acc pas c) : RowsReach x s (if p then as else []) acc pas c' := by
  split
  next hp =>
    obtain rfl : c = c' := Option.some.inj ((h hp).ctx.symm.trans hctx)
    exact h hp
  next => exact rowsReach_nil hctx acc

/-- Rows that reach translate, each to its lane's PAs (R184, R227). -/
theorem RowsReach.xlate {y : Iss} {as : List LaneAcc} {acc : Acc} (h : RowsReach y s as acc pas c) :
    s.xlateLanes y as acc = .ok (as.map (fun a => (a, pas a.lane))) [] := by
  rw [State.xlateLanes, xlateEach_ok h.ctx (pa := fun a => pas a.1.lane) (List.forall_mem_map.mpr fun a ha => (h.each a ha).1),
    List.map_map]
  rfl

/-- Rows that reach meet no entry that converts (R320). -/
theorem RowsReach.unheld {as : List LaneAcc} {acc : Acc} (h : RowsReach x s as acc pas c) : ∀ a ∈ as, c.converting a.va a.n = none :=
  fun a ha => (h.each a ha).2.2.1

/-- Rows that meet no entry that converts are not held from their acceptance on (R320). -/
theorem holdRows_unheld {id : Nat} {rows : List LaneAcc} (hctx : s.ctx? (asidOf x.wid) = some c)
    (h : ∀ a ∈ rows, c.converting a.va a.n = none) : s.holdRows x id rows = s := by
  have hnone : rows.any (fun a => (c.converting a.va a.n).isSome) = false := any_false (fun a ha => by rw [h a ha]; rfl)
  simp only [State.holdRows, hctx, hnone, Bool.false_eq_true, if_false]

/-- The pieces of a row that is written, or of one that is read. -/
def accessPas (pas pas' : Nat → List (Nat × Nat)) : LaneAcc × Acc → List (Nat × Nat)
  | (a, .write) => pas a.lane
  | (a, _) => pas' a.lane

/-- Rows to be written and read that all reach go on to acceptance with their PAs (R184). -/
theorem engineRows_reach {dst res : List LaneAcc} (hd : RowsReach x s dst .write pas c) (hr : RowsReach x s res .read pas' c)
    (go : List (Nat × List (Nat × Nat)) → List (Nat × List (Nat × Nat)) → Res) :
    engineRows x dst res none s go = go (dst.map (fun a => (a.lane, pas a.lane))) (res.map (fun a => (a.lane, pas' a.lane))) := by
  let y : Iss := { x with uni := false }
  have hdy : RowsReach y s dst .write pas c := ⟨hd.ctx, hd.each⟩
  have hry : RowsReach y s res .read pas' c := ⟨hr.ctx, hr.each⟩
  have heach := xlateEach_ok (s := s) (y := y) hd.ctx (pa := accessPas pas pas')
    (as := x.act.flatMap (fun l => (dst.filter (fun a => a.lane == l)).map (fun a => (a, Acc.write)) ++
      (res.filter (fun a => a.lane == l)).map (fun a => (a, Acc.read)))) (by
    intro q hq
    obtain ⟨l, -, hq⟩ := List.mem_flatMap.mp hq
    rcases List.mem_append.mp hq with hq | hq
    · obtain ⟨a, ha, rfl⟩ := List.mem_map.mp hq
      exact (hd.each a (List.mem_filter.mp ha).1).1
    · obtain ⟨a, ha, rfl⟩ := List.mem_map.mp hq
      exact (hr.each a (List.mem_filter.mp ha).1).1)
  have hplaced : (dst.map (fun a => (a, pas a.lane))).filter (fun d => c.needsMcst d.1.va d.1.n) = [] :=
    List.filter_eq_nil_iff.mpr (List.forall_mem_map.mpr fun a ha => by simpa using (hd.each a ha).2.2.2)
  have hunowned : (dst.map (fun a => (a, pas a.lane)) ++ res.map (fun a => (a, pas' a.lane))).find?
      (fun d => s.owned c.asid d.1.va d.1.n) = none := by
    refine List.find?_eq_none.mpr (List.forall_mem_append.mpr ⟨?_, ?_⟩)
    · exact List.forall_mem_map.mpr fun a ha => by simp [(hd.each a ha).2.1]
    · exact List.forall_mem_map.mpr fun a ha => by simp [(hr.each a ha).2.1]
  simp only [engineRows, heach, hd.ctx, hdy.xlate, hry.xlate, List.append_nil, hplaced, hunowned, List.map_map, Function.comp_def, y]

/-! ### `MDRN` -/

/-- A uniform load that reads its bytes found the context of its wave. -/
theorem ctx?_of_uload {va k v : Nat} (h : s.uload x va k = .ok v) : ∃ c, s.ctx? (asidOf x.wid) = some c := by
  cases hctx : s.ctx? (asidOf x.wid) with
  | some c => exact ⟨c, rfl⟩
  | none =>
    simp only [State.uload, hctx] at h
    split at h
    case h_4 hnone => cases hnone
    all_goals cases h

/-- The rows of a drain's destination and of its residual (R184). -/
def drainDst (x : Iss) (r : Drain) : List LaneAcc := rowsAt x r.dst r.dpitch r.rowBytes
def drainRes (x : Iss) (r : Drain) : List LaneAcc := rowsAt x r.res r.rpitch r.resBytes

/-- The entry of an `MDRN` whose descriptor is `d`, with the PAs of the rows in memory (R184, R187). -/
def drainEntry (f : FmtX) (x : Iss) (d : Nat) (pas pas' : Nat → List (Nat × Nat)) : Entry :=
  let v := x.uval f.c 2
  { newEntry (.mdrn f) x [] [x.uval f.b 1 % 2 ^ 32, v % 2 ^ 32, v / 2 ^ 32 % 2 ^ 32] with
    desc := BitVec.ofNat 512 d
    dst := if (drainOf d).dk = 2 then x.act.map (fun l => (l, pas l)) else []
    res := if (drainOf d).rk = 2 then x.act.map (fun l => (l, pas' l)) else [] }

/-- What an accepted drain leaves: its destination registers empty until it ends, or its destination's blocks written (R185, R240). -/
def drainTakes (f : FmtX) (x : Iss) (r : Drain) (id : Nat) (s : State) : State :=
  if r.dk = 0 then s.updWave x.wid (fun w => x.act.foldl (fun w l => w.markEmpty l f.d.toNat r.regs id) w)
  else if r.dk = 2 then
    s.updCtx (asidOf x.wid) (fun c => (drainDst x r).foldl (fun c a => c.markWritten (s.ownBlock x.wid.team.grid) a.va a.n) c)
  else s

/-- `drainTakes` in the two steps of the model. -/
theorem drainTakes_eq (r : Drain) (id : Nat) : drainTakes f x r id s =
    let s' := if r.dk = 2 then s.drainMarks x r else s
    if r.dk = 0 then s'.updWave x.wid (fun w => x.act.foldl (fun w l => w.markEmpty l f.d.toNat r.regs id) w) else s' := by
  by_cases hreg : r.dk = 0
  · simp [drainTakes, hreg]
  · simp only [drainTakes, if_neg hreg]
    rfl

/-- The PAs by lane of rows that are accessed only under a condition. -/
theorem map_rowsAt_ite {p : Prop} [Decidable p] (base pitch k : Nat) :
    (if p then rowsAt x base pitch k else []).map (fun a => (a.lane, pas a.lane)) = if p then x.act.map (fun l => (l, pas l)) else [] := by
  split
  next => rw [rowsAt, List.map_map]; rfl
  next => rfl

/-- The checks of a drain's rows passed, it enters the FIFO (R184). -/
theorem drainChecks_enters {d : Nat} (hctx : s.ctx? (asidOf x.wid) = some c') (hfree : fifoFree x s)
    (hscratch : (drainOf d).dk = 1 → ∀ p ∈ drainDst x (drainOf d), p.va + p.n ≤ s.scratchSize x.wid)
    (hmem : (drainOf d).dk = 2 → RowsReach x s (drainDst x (drainOf d)) .write pas c)
    (hresScratch : (drainOf d).rk = 1 → ∀ p ∈ drainRes x (drainOf d), p.va + p.n ≤ s.scratchSize x.wid)
    (hresMem : (drainOf d).rk = 2 → RowsReach x s (drainRes x (drainOf d)) .read pas' c) :
    drainChecks f (drainOf d) d (x.uval f.b 1 % 2 ^ 32) x s =
      .go (drainTakes f x (drainOf d) s.nextId (s.pushEntry x (drainEntry f x d pas pas'))) [] := by
  let y : Iss := { x with uni := false }
  have hdstIn : (if (drainOf d).dk = 1 then y.beyond (s.scratchSize x.wid) (drainDst x (drainOf d)) else none) = none :=
    ite_eq_right_iff.mpr (fun h => within_none (hscratch h))
  have hresIn : (if (drainOf d).rk = 1 then y.beyond (s.scratchSize x.wid) (drainRes x (drainOf d)) else none) = none :=
    ite_eq_right_iff.mpr (fun h => within_none (hresScratch h))
  have hdst := rowsReach_ite hctx hmem
  have hres := rowsReach_ite hctx hresMem
  have hunheld := fun (e : Entry) => holdRows_unheld (id := s.nextId) ((ctx?_pushEntry (s := s) (x := x) e _).trans hctx)
    (List.forall_mem_append.mpr ⟨hdst.unheld, hres.unheld⟩)
  simp only [y, drainDst, drainRes] at hdstIn hresIn hdst hres hunheld
  simp only [drainChecks, beq_iff_eq, hdstIn, hresIn, engineRows_reach hdst hres, map_rowsAt_ite, drainAccept, offerEntry_free hfree, hunheld,
    drainTakes_eq]
  rfl

/-- `MDRN` whose descriptor, registers and rows pass their checks enters the FIFO (R184, R185). -/
theorem exec_mdrn {d : Nat} (H : Issues (.mdrn f) f.h s x) (hcore : s.target x f false false = some core) (hfree : fifoFree x s)
    (hn : x.uval f.b 1 % 2 ^ 32 < s.tiles x.wid) (huni : x.uniformFault f.a 2 = none) (hnull : x.uval f.a 2 ≠ 0)
    (halign : x.uval f.a 2 % 64 = 0) (hload : s.uload x (x.uval f.a 2) 64 = .ok d) (hgood : drainBad d f.d.toNat = false)
    (hregs : (drainOf d).dk = 0 → f.d.toNat + (drainOf d).regs ≤ x.w.nregs ∧
      ∀ l ∈ x.act, x.w.anyPending l f.d.toNat (drainOf d).regs = false)
    (hscratch : (drainOf d).dk = 1 → ∀ p ∈ drainDst x (drainOf d), p.va + p.n ≤ s.scratchSize x.wid)
    (hmem : (drainOf d).dk = 2 → (drainOf d).dst ≠ 0 ∧ RowsReach x s (drainDst x (drainOf d)) .write pas c)
    (hresScratch : (drainOf d).rk = 1 → ∀ p ∈ drainRes x (drainOf d), p.va + p.n ≤ s.scratchSize x.wid)
    (hresMem : (drainOf d).rk = 2 → (drainOf d).res ≠ 0 ∧ RowsReach x s (drainRes x (drainOf d)) .read pas' c) :
    exec (.mdrn f) s = .next (wentOn x s (drainTakes f x (drainOf d) s.nextId (s.pushEntry x (drainEntry f x d pas pas'))) []) := by
  refine issue_go (semMdrn f) H ?_
  obtain ⟨c', hctx⟩ := ctx?_of_uload hload
  have hfit : ¬ ((drainOf d).dk == 0 && decide (f.d.toNat + (drainOf d).regs > x.w.nregs)) = true := by
    simpa using fun h => (hregs h).1
  have hbases : ¬ ((drainOf d).dk == 2 && (drainOf d).dst == 0 || (drainOf d).rk == 2 && (drainOf d).res == 0) = true := by
    simpa using ⟨fun h => (hmem h).1, fun h => (hresMem h).1⟩
  have hstuck : (if (drainOf d).dk = 0 then x.act.filter (fun l => x.w.anyPending l f.d.toNat (drainOf d).regs) else []) = [] :=
    ite_eq_right_iff.mpr (fun h => List.filter_eq_nil_iff.mpr fun l hl => by simp [(hregs h).2 l hl])
  have hall : x.act.filter (fun l => !([] : List Nat).contains l) = x.act := List.filter_eq_self.mpr fun _ _ => rfl
  have hchecks := drainChecks_enters (f := f) hctx hfree hscratch (fun h => (hmem h).2) hresScratch (fun h => (hresMem h).2)
  simp only [semMdrn, huni, hcore, tileOf_lt hn, if_neg hnull, halign, hload, hgood, if_neg hfit, if_neg hbases, beq_iff_eq, hstuck, hall,
    List.isEmpty_eq_false_iff.mpr H.active, hchecks, bne_self_eq_false, Bool.false_eq_true, if_false, Res.also, List.append_nil]

/-! ### `VXM` -/

/-- The weights of a `VXM`, read by the lowest active lane (R186). -/
def vxmRow (f : FmtX) (x : Iss) : LaneAcc :=
  { lane := x.first, va := x.uval f.b 2, n := vxmBytes (f.fn.toNat / 16) (vxmK (x.uval f.c 2)) (vxmN (x.uval f.c 2)) }

/-- The entry of a `VXM`: its vector as read at issue, and the PAs of its weights (R186, R187). -/
def vxmEntry (f : FmtX) (x : Iss) (pas : Nat → List (Nat × Nat)) : Entry :=
  { newEntry (.vxm f) x ((List.range (vxmK (x.uval f.c 2))).map (fun i =>
      (i, if x.act.contains (i % 32) then x.w.vreg (i % 32) (f.a.toNat + i / 32) else 0)))
      [vxmK (x.uval f.c 2), vxmN (x.uval f.c 2), x.uval f.b 2] with
    dst := [(x.first, pas x.first)] }

/-- `VXM` that passes its checks enters the FIFO, its destination registers empty until it ends (R186). -/
theorem exec_vxm (H : Issues (.vxm f) f.h s x) (hcore : s.target x f false false = some core) (hfree : fifoFree x s)
    (huni : x.uniformFault f.b 2 = none) (hpairs : pairs (f.fn.toNat % 16) (f.fn.toNat / 16) = true) (hk : vxmDim (vxmK (x.uval f.c 2)) = true)
    (hn : vxmDim (vxmN (x.uval f.c 2)) = true) (hnull : x.uval f.b 2 ≠ 0) (halign : x.uval f.b 2 % 256 = 0)
    (hr : RowsReach x s [vxmRow f x] .read pas c) :
    exec (.vxm f) s = .next (wentOn x s ((s.pushEntry x (vxmEntry f x pas)).updWave x.wid (fun w =>
      x.act.foldl (fun w l => w.markEmpty l f.d.toNat (vxmN (x.uval f.c 2) / 32) s.nextId) w)) []) := by
  refine issue_go (semVxm f) H ?_
  have hrows := engineRows_reach (rowsReach_nil (pas := pas) hr.ctx .write) hr
  have hunheld := fun (e : Entry) => holdRows_unheld (id := s.nextId) ((ctx?_pushEntry (s := s) (x := x) e _).trans hr.ctx) hr.unheld
  unfold vxmRow at hrows hunheld
  simp only [semVxm, huni, hcore, hpairs, hk, hn, if_neg hnull, halign, hrows, offerEntry_free hfree, hunheld, beq_iff_eq, bne_self_eq_false,
    Bool.not_true, Bool.or_self, Bool.false_eq_true, if_false]
  rfl

end

/-! ### Two teams of one name -/

/-- The instruction of the counterexample: E4M3 weights from `V8` on into slot 0, their scales at the scratch address in `S6`. -/
def mwlInstr : FmtX := ⟨⟨0, false, 0⟩, 511, 8, 511, 390, 11, 0, 0, 0, 0⟩

/-- A lone wave about to issue it in lane 0, with 256 KiB of scratch, `S6` being 0, and a second team of its team's name that holds another
byte 0 of scratch. -/
def mwlState : State :=
  let s := State.reset.withSlot ((encode (.mwl mwlInstr)).getD 0)
  { s with
    grids := s.grids.map (fun g => { g with lrec := { g.lrec with scr := 1 } })
    teams := s.teams ++ s.teams.map (fun t => { t with scratch := [(0, 1)] })
    cur := some { wid := loneWid, lanes := 1, pc := 0, viaLoop := false } }

/-- Its wave, the first of the two teams and its group. -/
def mwlWave : Wave := (mwlState.wave? loneWid).get (by decide)
def mwlTeam : Team := (mwlState.team? loneWid.team).get (by decide)
def mwlIss : Iss := { wid := loneWid, w := mwlWave, group := [0], pc := 0, act := [0], uni := isUniform (.mwl mwlInstr), lanes := [0] }

theorem mwlIss_issues : Issues (.mwl mwlInstr) mwlInstr.h mwlState mwlIss where
  wave := (Option.some_get (x := mwlState.wave? loneWid) (by decide)).symm
  cur := ⟨_, rfl, rfl, rfl, by decide⟩
  act := by decide
  active := by decide
  uni := rfl
  lanes := by decide
  operands := by decide
  role := by decide
  full := by decide
  sound := by decide
  quiet := by decide

/-- Refutes O48: the clause of `MWL` takes the scales, and the image of the form from scratch, from each team of the wave's team's name, while
the model takes them from the wave's team (R174). The two agree where no other team bears the name (`updTeam_mwlQuarter_of_unique`), and part
where a second team bears it and holds other scratch. -/
theorem not_matrixIssue : ¬ Obligations.MatrixIssue := by
  unfold Obligations.MatrixIssue
  intro h
  have hcore : mwlState.target mwlIss mwlInstr false false = some 0 := by decide
  have ht : mwlState.team? mwlIss.wid.team = some mwlTeam := (Option.some_get (x := mwlState.team? loneWid.team) (by decide)).symm
  have ha : mwlInstr.fn.getLsbD 4 = true → mwlIss.uniformFault mwlInstr.a 1 = none := by decide
  have hc : mwlInstr.c.toNat ≠ 511 → mwlIss.uniformFault mwlInstr.c 1 = none := by decide
  have himage : mwlInstr.fn.getLsbD 4 = true → mwlIss.uval mwlInstr.a 1 % 2 ^ 32 % 256 = 0 ∧
      mwlIss.uval mwlInstr.a 1 % 2 ^ 32 + 8192 ≤ mwlState.scratchSize mwlIss.wid := fun hscr => absurd hscr (by decide)
  have hscales : mwlScaleBytes mwlInstr ≠ 0 → mwlIss.uval mwlInstr.c 1 % 2 ^ 32 % 64 = 0 ∧
      mwlIss.uval mwlInstr.c 1 % 2 ^ 32 + mwlScaleBytes mwlInstr ≤ mwlState.scratchSize mwlIss.wid := by decide
  have hsound : poolCheck mwlIss mwlTeam 1 (mwlReads mwlInstr mwlIss) = none := by decide +kernel
  have hfree : ∀ q ∈ mwlTeam.staged, ¬ (q.bay = mwlIss.w.bay ∧ q.slot = weightSlot mwlInstr) := by decide
  obtain ⟨hmwl, -⟩ := h mwlInstr mwlState mwlIss mwlTeam (newCtx 0 []) 0 (fun _ => []) (fun _ => []) hcore ht
  have hclaim := hmwl mwlIss_issues ha hc himage hscales hsound hfree
  have hmodel := exec_mwl mwlIss_issues hcore ht ha hc himage hscales hsound hfree
  have hnext := hclaim.symm.trans hmodel
  injection hnext with hnext
  have hstaged := congrArg (fun u => u.teams.map (fun t => t.staged.map (·.scales))) hnext
  exact absurd hstaged (by decide +kernel)

end Sys2Proof.Machine
end

section
/-!
SUPPORT. What converting entries hold of an engine's work (R320): nothing of it is held after the engine's writes, whatever causes they raise
(R202, R295, R333, R345).
-/
namespace Sys2Proof.Machine

/-! ### Bytes that a converting entry holds, in the operations of the machine -/

/-- No converting entry holds a byte of a piece of work, or has released one (R320). -/
def State.holdsNone (s : State) (work : Nat × Nat) : Prop := ∀ b ∈ s.heldBytes, b.work ≠ work

section
variable {s u : State} {work : Nat × Nat}

theorem State.holdsNone_congr (h : s.holdsNone work) (he : u.heldBytes = s.heldBytes) : u.holdsNone work := fun b hb => h b (he ▸ hb)

theorem State.holdsNone_filter (h : s.holdsNone work) {p : HeldByte → Bool} (he : u.heldBytes = s.heldBytes.filter p) :
    u.holdsNone work := fun b hb => h b (List.mem_filter.mp (he ▸ hb)).1

theorem State.holdsNone_ite {p : Prop} [Decidable p] {v : State} (hu : u.holdsNone work) (hv : v.holdsNone work) :
    (if p then u else v).holdsNone work := by
  by_cases hp : p
  · rwa [if_pos hp]
  · rwa [if_neg hp]

/-- A part of such work has nothing to drop. -/
theorem State.dropPart_none (h : s.holdsNone work) (part : Nat) : s.dropPart work part = s := by
  unfold State.dropPart
  rw [List.filter_eq_self.mpr (fun b (hb : b ∈ s.heldBytes) => by simp [h b hb])]

theorem foldl_heldBytes {α : Type} {f : State → α → State} (hf : ∀ s a, (f s a).heldBytes = s.heldBytes) (l : List α) (s : State) :
    (l.foldl f s).heldBytes = s.heldBytes :=
  List.foldlRecOn l f (motive := fun u => u.heldBytes = s.heldBytes) rfl (fun u hu a _ => (hf u a).trans hu)

theorem foldl_pushDue_heldBytes {α : Type} (g : α → Instr) (l : List α) (s : State) :
    (l.foldl (fun s a => s.pushDue (g a)) s).heldBytes = s.heldBytes :=
  foldl_heldBytes (fun u a => State.pushDue_heldBytes u (g a)) l s

theorem foldl_holdsNone {α : Type} {f : State → α → State} (hf : ∀ s a, s.holdsNone work → (f s a).holdsNone work) (l : List α)
    (h : s.holdsNone work) : (l.foldl f s).holdsNone work :=
  List.foldlRecOn l f (motive := fun u => u.holdsNone work) h (fun u hu a _ => hf u a hu)

/-! What writes memory, or a write set, holds nothing. -/

@[simp] theorem State.writePas_heldBytes (s : State) (pas : List (Nat × Nat)) (bs : List Byte) : (s.writePas pas bs).heldBytes = s.heldBytes := by
  induction pas generalizing s bs with
  | nil => rfl
  | cons p pas ih => exact (ih _ _).trans rfl

theorem State.viewWrite_heldBytes {view : Option TeamId} {va : Nat} {pas : List (Nat × Nat)} {bs : List Byte}
    (h : s.viewWrite view va pas bs = some u) : u.heldBytes = s.heldBytes := by
  unfold State.viewWrite at h
  split at h
  · cases h
    exact State.writePas_heldBytes s pas bs
  · split at h
    · dsimp only at h
      split at h
      · cases h
      · cases h
        rfl
    · cases h
      rfl

theorem State.viewPut_heldBytes {view : Option TeamId} {xs : List ((Nat × Nat) × XAll)} {bs : List Byte}
    (h : s.viewPut view xs bs = some u) : u.heldBytes = s.heldBytes := by
  induction xs generalizing s bs with
  | nil =>
    cases h
    rfl
  | cons x xs ih =>
    obtain ⟨v, hv, hu⟩ := Option.bind_eq_some_iff.mp h
    exact (ih hu).trans (State.viewWrite_heldBytes hv)

@[simp] theorem State.logVa_heldBytes (s : State) (asid va : Nat) : (s.logVa asid va).heldBytes = s.heldBytes := by
  unfold State.logVa
  split
  · rfl
  · split
    · split <;> rfl
    · split
      · cases s.walkBad _ va <;> rfl
      · rfl
    · rfl

/-! Nor do the fills that a miss asks for, or their ends (R236, R240 to R244). -/

@[simp] theorem State.requestPage_heldBytes (s : State) (asid base : Nat) (write : Bool) :
    (s.requestPage asid base write).heldBytes = s.heldBytes := by
  unfold State.requestPage
  split
  · rfl
  · split <;> rfl

@[simp] theorem State.resolve_heldBytes (s : State) (asid : Nat) (hit : MissOn → Bool) (st : MissState) :
    (s.resolve asid hit st).heldBytes = s.heldBytes :=
  foldl_pushDue_heldBytes (fun p : WaveId × Nat => .parkedThreadReexecute p.1 p.2) _ _

@[simp] theorem State.mapBlock_heldBytes (s : State) (asid r k : Nat) (frame : Option Nat) :
    (s.mapBlock asid r k frame).heldBytes = s.heldBytes := by
  unfold State.mapBlock
  split
  · rfl
  · refine foldl_heldBytes (fun v i => ?_) _ _
    split <;> rfl

@[simp] theorem State.blockEnd_heldBytes (s : State) (asid r k st : Nat) (frame : Option Nat) (miss : MissState) :
    (s.blockEnd asid r k st frame miss).heldBytes = s.heldBytes := by
  cases frame <;> simp [State.blockEnd, State.newId]

@[simp] theorem State.generate_heldBytes (s : State) (asid r k frame prio : Nat) :
    (s.generate asid r k frame prio).heldBytes = s.heldBytes := by
  unfold State.generate
  split
  · rfl
  · simp [State.newGrid]

@[simp] theorem State.takeFrame_heldBytes (s : State) (asid r k prio : Nat) : (s.takeFrame asid r k prio).heldBytes = s.heldBytes := by
  unfold State.takeFrame
  split
  · rfl
  · dsimp only
    split
    · exact State.generate_heldBytes ..
    · split
      · rfl
      · split
        · split <;> simp
        · split <;> simp

@[simp] theorem State.freeAreas_heldBytes (s : State) (g : GridId) : (s.freeAreas g).heldBytes = s.heldBytes := by
  unfold State.freeAreas
  split <;> rfl

theorem State.dropGrid_holdsNone (g : GridId) (h : s.holdsNone work) : (s.dropGrid g).holdsNone work :=
  State.holdsNone_filter (State.holdsNone_congr h (State.freeAreas_heldBytes s g)) rfl

theorem State.abandon_holdsNone (asid : Nat) (chain : List (Nat × Nat)) (h : s.holdsNone work) : (s.abandon asid chain).holdsNone work := by
  refine foldl_holdsNone (fun u b hu => ?_) chain h
  dsimp only
  refine State.holdsNone_congr ?_ (State.blockEnd_heldBytes ..)
  exact foldl_holdsNone (fun v g hv => State.dropGrid_holdsNone g.id hv) _ hu

theorem State.wantBlock_holdsNone (asid r k : Nat) (parent : Option (Nat × Nat)) (prio : Nat) (h : s.holdsNone work) :
    (s.wantBlock asid r k parent prio).holdsNone work := by
  unfold State.wantBlock
  split
  · exact h
  · refine State.holdsNone_ite (State.holdsNone_ite (State.abandon_holdsNone asid _ h) h) (State.holdsNone_ite ?_ h)
    exact State.holdsNone_ite (State.abandon_holdsNone asid _ h) (State.holdsNone_congr h (State.takeFrame_heldBytes ..))

/-- A node, or a write on a context's behalf, that asks for what it misses. -/
theorem State.engAsk_holdsNone (asid core slot : Nat) (write : Bool) (k : Nat × Nat) (ons : List (MissOn × Nat)) (h : s.holdsNone work) :
    (s.engAsk asid (.node core slot) write (some k) ons).holdsNone work := by
  refine foldl_holdsNone (fun u m hu => ?_) _ (State.holdsNone_congr h rfl)
  cases m with
  | page b => exact State.holdsNone_congr hu (State.requestPage_heldBytes ..)
  | block r b => exact State.wantBlock_holdsNone asid r b none 0 hu

/-! What is held for one piece of work is not held for another: the writes of status blocks bear a name of their own (R238, R345). -/

theorem State.holdBytes_holdsNone (c : Ctx) {k : Nat × Nat} (part : Nat) (as : List (Nat × Nat)) (hne : k ≠ work) (h : s.holdsNone work) :
    (s.holdBytes c k part as).holdsNone work := by
  unfold State.holdBytes
  dsimp only
  split
  · exact h
  · intro b hb
    obtain hb | hb := List.mem_append.mp hb
    · exact h b hb
    · obtain ⟨q, -, rfl⟩ := List.mem_map.mp hb
      exact hne

theorem State.dropPart_holdsNone (k : Nat × Nat) (part : Nat) (h : s.holdsNone work) : (s.dropPart k part).holdsNone work :=
  State.holdsNone_filter h rfl

/-- The state that a write on a context's behalf leaves, however it ended. -/
def Behalf.state : Behalf → State
  | .made s => s
  | .heldOn s _ => s
  | .failed s _ _ => s

theorem State.behalf_holdsNone (asid core slot : Nat) {k : Nat × Nat} (view : Option TeamId) (va : Nat) (add : Bool) (bs : List Byte)
    (hne : k ≠ work) (h : s.holdsNone work) : (s.behalf asid (.node core slot) k view va add bs).state.holdsNone work := by
  have hu : (s.unstall k).holdsNone work := h
  unfold State.behalf
  split
  · exact h
  · split
    · exact h
    · dsimp only
      split
      · exact State.dropPart_holdsNone k _ hu
      · refine State.dropPart_holdsNone k _ ?_
        split
        · exact State.holdsNone_congr hu (State.logVa_heldBytes ..)
        · exact hu
      · exact State.engAsk_holdsNone asid core slot true k _ hu
      · split
        · exact State.dropPart_holdsNone k _ hu
        split
        · exact hu
        split
        · exact State.holdBytes_holdsNone _ _ _ hne hu
        split
        · exact State.dropPart_holdsNone k _ hu
        split
        · exact State.dropPart_holdsNone k _ hu
        · rename_i hput
          exact State.dropPart_holdsNone k _ (State.holdsNone_congr hu (State.viewPut_heldBytes hput :))

@[simp] theorem State.abortRunning_heldBytes (s : State) (c : Ctx) : (s.abortRunning c).heldBytes = s.heldBytes := by
  simp only [State.abortRunning, State.updCtx_heldBytes]
  exact foldl_heldBytes (fun u p => State.emit_heldBytes u _) c.running s

theorem State.stopContext_holdsNone (asid : Nat) (h : s.holdsNone work) : (s.stopContext asid).holdsNone work := by
  unfold State.stopContext
  split
  · exact h
  · refine State.holdsNone_filter (State.holdsNone_congr h ?_) rfl
    exact (foldl_pushDue_heldBytes (.conversionEnd asid) _ _).trans (State.abortRunning_heldBytes s _)

/-! Causes that are told to a team or to the status block (R202, R333, R345). -/

section
variable (hne : ∀ a n, statusWork a n ≠ work)
include hne

theorem State.putStatus_holdsNone (w : HeldWrite) (h : s.holdsNone work) : (s.putStatus w).holdsNone work := by
  have hb := State.behalf_holdsNone w.asid 0 0 none w.va false w.bytes (hne w.asid w.nrec) h
  unfold State.putStatus
  split <;> rename_i hr <;> rw [hr] at hb
  · exact hb
  · exact hb
  · dsimp only
    split
    · exact hb
    · split
      · exact hb
      · exact State.stopContext_holdsNone w.asid hb

theorem State.writeStatus_holdsNone (asid : Nat) (r : StatusRec) (st kcause : Nat) (h : s.holdsNone work) :
    (s.writeStatus asid r st kcause).holdsNone work := by
  unfold State.writeStatus
  split
  · exact h
  · split
    · exact h
    · exact State.putStatus_holdsNone hne _ h

theorem State.killCtx_holdsNone (asid kcause : Nat) (r : StatusRec) (h : s.holdsNone work) : (s.killCtx asid kcause r).holdsNone work := by
  unfold State.killCtx
  split
  · exact h
  · split
    · exact h
    · exact State.stopContext_holdsNone asid (State.writeStatus_holdsNone hne asid r 2 kcause h)

theorem State.takeTrap_holdsNone (wid : WaveId) (cause : Nat) (eng : Bool) (mask : LaneMask) (addr : Nat) (h : s.holdsNone work) :
    (s.takeTrap wid cause eng mask addr).holdsNone work := by
  unfold State.takeTrap
  split
  · exact h
  · dsimp only
    split
    · exact State.killCtx_holdsNone hne _ _ _ h
    · split
      · exact State.killCtx_holdsNone hne _ _ _ h
      · split <;> exact h

theorem State.deliverPending_holdsNone (t : TeamId) (h : s.holdsNone work) : (s.deliverPending t).holdsNone work := by
  unfold State.deliverPending
  split
  · exact h
  · split
    · exact h
    · dsimp only
      split
      · exact State.takeTrap_holdsNone hne _ _ _ _ _ h
      · exact State.writeStatus_holdsNone hne _ _ _ _ h

theorem State.postCause_holdsNone (t : TeamId) (named : Option Nat) (cause addr : Nat) (mask : LaneMask) (h : s.holdsNone work) :
    (s.postCause t named cause addr mask).holdsNone work := by
  unfold State.postCause
  extract_lets stands s'
  have hs : s'.holdsNone work := by
    unfold s'
    split
    · exact State.deliverPending_holdsNone hne t h
    · exact h
  split
  · exact State.holdsNone_ite hs (State.holdsNone_ite (State.killCtx_holdsNone hne _ _ _ hs) hs)
  · exact hs

/-- An engine's writes hold nothing of work that does not write a status block, even where a full write set ends some of them (R295). -/
theorem State.engWrite_holdsNone (c : Ctx) (iss : Issuer) {runs : List (Nat × List Byte)} (h : s.holdsNone work)
    (hw : s.engWrite c iss runs = .ok u) : u.holdsNone work := by
  induction runs generalizing s with
  | nil =>
    cases hw
    exact h
  | cons r runs ih =>
    unfold State.engWrite at hw
    split at hw
    · dsimp only at hw
      split at hw
      · cases hw
      · refine ih ?_ hw
        split
        · rename_i hv
          exact State.holdsNone_congr h (State.viewWrite_heldBytes hv :)
        · split
          · exact State.postCause_holdsNone hne _ _ _ _ _ h
          · exact h
    · exact ih h hw

end

end

/-- The name of an engine's or a unit's own work is that of no status block (R345). -/
theorem statusWork_ne_zero (id a n : Nat) : statusWork a n ≠ (0, id) := by simp [statusWork]

end Sys2Proof.Machine
end

section
/-!
SUPPORT. The steps of the copy, collective, placement and graph engines (R200, R201, R276 to R278, R307, R312, R318 to R320), and of the
signals (R402).
-/
namespace Sys2Proof.Machine

/-! ### Transfers -/

section
variable {s s1 s2 u : State} {c : Ctx} {t : Xfer} {k : Nat}

/-- No block holds a piece of work that has no stall, so no cause ended a hold of it. -/
theorem State.stallCause_none {work : Nat × Nat} (h : ∀ b ∈ s.stalls, b.work ≠ work) : s.stallCause work = none :=
  List.findSome?_eq_none_iff.mpr (fun b hb => if_neg (by simpa using h b hb))

/-- A transfer whose indices are read, and which nothing holds, may write (R197). -/
theorem State.prepare_read (hstalls : ∀ h ∈ s.stalls, h.work ≠ (0, t.id)) (hread : t.idxRead = true) : s.prepare c t = .go s t := by
  simp only [State.prepare, State.stallCause_none hstalls, State.unstall_none hstalls, hread, if_true]

/-- Whether a transfer's sectors defer their additions (R198). -/
def Xfer.deferred (t : Xfer) : Bool := t.op == 3 && decide (t.level ≥ 1)

/-- What the bytes or the deferred scatter-adds of a sector do (R198, R200, R266): a wave's set out for the memory side, those of a graph
node stay with its transfer (log 41). -/
def State.putSector (s : State) (c : Ctx) (t : Xfer) (k : Nat) : Except Nat State :=
  let rd := s.engRead c t.issuer
  let z := sectorOf k
  if t.deferred then .ok (match t.issuer with
    | .wave w => (s.updCtx t.asid (fun c =>
        (t.writes z).foldl (fun c a => c.markWritten (s.ownOf t.issuer) (wrapN 64 a.1) a.2) c)).sendAll w (t.defer rd z)
    | .node _ _ => s.updXfer t.id (fun x => { x with later := x.later ++ t.defer rd z }))
  else s.engWrite c t.issuer (runsOf (t.image rd z))

theorem putSector_bytes (h : t.deferred = false) :
    s.putSector c t k = s.engWrite c t.issuer (runsOf (t.image (s.engRead c t.issuer) (sectorOf k))) := by
  simp only [State.putSector, h, Bool.false_eq_true, if_false]

theorem putSector_wave {w : WaveId} (h : t.deferred = true) (hw : t.issuer = .wave w) :
    s.putSector c t k = .ok ((s.updCtx t.asid (fun c => (t.writes (sectorOf k)).foldl (fun c a =>
      c.markWritten (s.ownOf t.issuer) (wrapN 64 a.1) a.2) c)).sendAll w (t.defer (s.engRead c t.issuer) (sectorOf k))) := by
  simp only [State.putSector, h, if_true, hw]

theorem putSector_node {q m : Nat} (h : t.deferred = true) (hq : t.issuer = .node q m) :
    s.putSector c t k = .ok (s.updXfer t.id (fun x => { x with later := x.later ++ t.defer (s.engRead c t.issuer) (sectorOf k) })) := by
  simp only [State.putSector, h, if_true, hq]

/-- The state in which a sector counts as written, after its bytes (R200, R201): the request stands at its core, the blocks that the sector
shares with others are kept (log 84), and the slabs that are whole have been counted. -/
def State.sectorDone (s : State) (t : Xfer) (rd : Int → Nat → Nat) (k : Nat) : State :=
  (((({ s with nextId := s.nextId + 1 } : State).updCore t.core (fun c => { c with sectors := c.sectors ++ [s.nextId] })).updXfer t.id
    (fun x => { x with done := x.done ++ [sectorOf k], formed := t.straddling rd (sectorOf k) ++ x.formed })).slabIncs t.id
    (t.dT.size (t.dT.rank - 1) + t.sT.size (t.sT.rank - 1))).1

/-- A sector of a transfer that can be written now (R199, R200): the transfer runs, its indices are read, nothing holds it, the sector is to
be written and no older work owns its lines, the core has room for the request, and every access can be made. -/
structure SectorReady (s : State) (c : Ctx) (t : Xfer) (k : Nat) : Prop where
  found : s.xfers.find? (fun x => x.id == t.id) = some t
  ctx : s.ctx? t.asid = some c
  runs : s.still t.asid t.issuer = false
  read : t.idxRead = true
  sound : t.failed = none
  stalls : ∀ h ∈ s.stalls, h.work ≠ (0, t.id)
  held : s.holdsNone (0, t.id)
  todo : sectorOf k ∉ t.done
  sector : sectorOf k ∈ t.sectors
  room : (s.core t.core).sectors.length < 2048
  free : t.deferred = false → s.writesBarred t.asid (0, t.id) t.order k (t.writes (sectorOf k)) = false
  reach : engJoin (s.engVia c (s.ownOf t.issuer) (s.viewIss t.issuer) .read (0, t.id) k (t.reads (sectorOf k)))
    (s.engVia c (s.ownOf t.issuer) (s.viewIss t.issuer) .write (0, t.id) k (t.writes (sectorOf k))) = .ok

theorem State.sendAll_heldBytes (s : State) (w : WaveId) (us : List Update) : (s.sendAll w us).heldBytes = s.heldBytes :=
  foldl_heldBytes (f := fun s u => { s with updates := s.updates ++ [(w.team.grid, w.team, s.nextId, u)], nextId := s.nextId + 1 })
    (fun _ _ => rfl) us s

/-- The bytes of a sector leave nothing of its transfer held. -/
theorem State.putSector_holdsNone (h : s.holdsNone (0, t.id)) (hput : s.putSector c t k = .ok u) : u.holdsNone (0, t.id) := by
  unfold State.putSector at hput
  dsimp only at hput
  split at hput
  · cases hput
    cases t.issuer with
    | wave w => exact State.holdsNone_congr h (State.sendAll_heldBytes _ w _)
    | node q m => exact State.holdsNone_congr h rfl
  · exact State.engWrite_holdsNone (statusWork_ne_zero t.id) c t.issuer h hput

/-- A deferred update whose bytes nothing has released keeps its place. -/
theorem map_placesOf_nil (us : List Update) : us.map (fun u => { u with va := (Places.of [] u.va).getD u.va }) = us :=
  List.map_id'' (fun _ => rfl) us

theorem writeSector_ready (H : SectorReady s c t k) (hput : s.putSector c t k = .ok u) :
    writeSector t.id k s = u.sectorDone t (s.engRead c t.issuer) k := by
  have hgo : ¬ (s.still t.asid t.issuer || t.failed.isSome) = true := by simp [H.runs, H.sound]
  have hwrite : ¬ (t.done.contains (sectorOf k) || !t.sectors.contains (sectorOf k) ||
      (!t.deferred && s.writesBarred t.asid (0, t.id) t.order k (t.writes (sectorOf k))) || (s.core t.core).sectors.length ≥ 2048) = true := by
    simpa [H.todo, H.sector, H.room] using H.free
  have hplaces := State.placesOf_none H.held k
  have hdrop := State.dropPart_none (State.putSector_holdsNone H.held hput) k
  unfold writeSector
  rw [H.found]
  dsimp only
  rw [H.ctx]
  dsimp only
  rw [if_neg hgo, State.prepare_read H.stalls H.read]
  dsimp only
  rw [hplaces, H.reach, map_placesOf_nil]
  refine (if_neg hwrite).trans ?_
  dsimp only
  split
  case h_1 e he => exact absurd (hput.symm.trans he) (by simp)
  case h_2 v hv =>
    obtain rfl : u = v := Except.ok.inj (hput.symm.trans hv)
    rw [hdrop]
    rfl

/-- The end of an engine's work of a wave (R201, R402): its team owes it no longer, and may retire. -/
def State.paidOff (s : State) (w : WaveId) : State := (s.owe w.team false).pushDue (.teamRetirement w.team)

/-- A transfer of a wave whose sectors are written and whose scatter-adds have arrived makes its slabs' increments and its own, and is gone
(R201). -/
theorem completeTransfer_done {w : WaveId} (hfound : s.xfers.find? (fun x => x.id == t.id) = some t) (hctx : s.ctx? t.asid = some c)
    (hruns : s.still t.asid t.issuer = false) (hread : t.idxRead = true) (hsound : t.failed = none)
    (hstalls : ∀ h ∈ s.stalls, h.work ≠ (0, t.id)) (hall : ∀ x ∈ t.sectors, x ∈ t.done) (hfly : s.flying t = []) (hlater : t.later = [])
    (hw : t.issuer = .wave w) (hslabs : s.slabIncs t.id (t.dT.size (t.dT.rank - 1) + t.sT.size (t.sT.rank - 1)) = (s1, true))
    (hinc : s1.increment t.asid t.issuer (0, t.id) (s1.viewIss t.issuer) (if t.slab then 0 else t.obj) 1 = .made s2) :
    completeTransfer t.id s =
      (({ s2 with xfers := s2.xfers.filter (fun x => x.id != t.id) } : State).dropBytes (0, t.id)).paidOff w := by
  have hwritten : ¬ (!t.sectors.all t.done.contains || !(s.flying t).isEmpty) = true := by simpa [hfly] using hall
  have hdrain : s.drainNode c t = (s, true) := by simp [State.drainNode, hlater]
  unfold completeTransfer
  rw [hfound]
  dsimp only
  rw [hctx]
  dsimp only
  rw [hruns, hsound, State.prepare_read hstalls hread]
  dsimp only
  rw [if_neg hwritten, hdrain]
  dsimp only
  rw [hslabs]
  dsimp only
  rw [hinc, hw]
  rfl

end

/-! ### Signals -/

section
variable {s s1 : State} {g : Csig}

/-- A signal whose wave's transfers and held accesses are gone (R402). -/
structure SignalReady (s : State) (g : Csig) : Prop where
  found : s.csigs.find? (fun x => x.id == g.id) = some g
  runs : s.frozen g.wave.team = false
  after : ∀ k ∈ g.after, ∀ t ∈ s.xfers, t.id ≠ k
  alone : ∀ r ∈ s.waiting, r.wave = g.wave → r.id < g.id → r.nums.length < 4

/-- Nothing that a ready signal waits for is left. -/
theorem SignalReady.goes (H : SignalReady s g) : ¬ (s.frozen g.wave.team || g.after.any (fun k => s.xfers.any (fun t => t.id == k)) ||
    s.waiting.any (fun r => r.wave == g.wave && r.nums.length ≥ 4 && r.id < g.id)) = true := by
  have hafter : g.after.any (fun k => s.xfers.any (fun t => t.id == k)) = false :=
    any_false (fun k hk => any_false (fun t ht => beq_false_of_ne (H.after k hk t ht)))
  have halone : s.waiting.any (fun r => r.wave == g.wave && r.nums.length ≥ 4 && r.id < g.id) = false := by
    refine any_false (fun r hr => Bool.eq_false_iff.mpr (fun h => ?_))
    simp only [Bool.and_eq_true, beq_iff_eq, decide_eq_true_eq] at h
    obtain ⟨⟨hwave, hnums⟩, hid⟩ := h
    exact absurd (H.alone r hr hwave hid) (Nat.not_lt.mpr hnums)
  simp only [H.runs, hafter, halone, Bool.or_self, Bool.false_eq_true, not_false_eq_true]

/-- The signal is gone, and its wave's team owes it no longer. -/
def State.csigDone (s : State) (g : Csig) : State :=
  ({ s with csigs := s.csigs.filter (fun x => x.id != g.id) } : State).paidOff g.wave

/-- A signal of an object increments it (R402). -/
theorem effectCsig_object (H : SignalReady s g) (hslot : g.slot = none)
    (hinc : s.increment (asidOf g.wave) (.wave g.wave) (0, g.id) (s.viewOf g.wave) g.obj g.value.toNat = .made s1) :
    effectCsig g.id s = s1.csigDone g := by
  unfold effectCsig
  rw [H.found]
  refine (if_neg H.goes).trans ?_
  rw [hslot]
  dsimp only
  rw [hinc]
  rfl

/-- A signal of a graph slot that takes it decrements it, and what this lets start is launched (R276, R402). -/
theorem effectCsig_slot {q : Nat} (H : SignalReady s g) (hslot : g.slot = some q)
    (hdec : s.decNode g.core q (asidOf g.wave) = (true, s1)) : effectCsig g.id s = (s1.csigDone g).launchDue g.core := by
  unfold effectCsig
  rw [H.found]
  refine (if_neg H.goes).trans ?_
  rw [hslot]
  dsimp only
  rw [hdec]
  rfl

end

/-! ### Collectives -/

section
variable {s s1 : State} {c : Ctx} {o : Coll} {k : Nat}

/-- The ranks of a collective's members (R307). -/
def Coll.ranks (o : Coll) : List Nat := (List.range (cblockOf o.block.toNat).count).map (cblockOf o.block.toNat).rank

/-- The part of a collective that another member has offered (R307; log 48). -/
def State.collPart? (s : State) (o : Coll) (r : Nat) : Option Peer :=
  s.peers.find? (fun p => p.asid == o.asid && p.kind == 0 && p.number == o.id && p.rank == r)

/-- What the members bring: this package's own elements are read where they are (R307, R308). -/
def State.collParts (s : State) (c : Ctx) (o : Coll) : Parts := fun i ix =>
  if (cblockOf o.block.toNat).rank i = field c.drank 11 0 then
    srcElem (tensorOf o.src.toNat) (s.engRead c o.issuer) (.inside ix)
  else match s.collPart? o ((cblockOf o.block.toNat).rank i) with
    | some p => peerElem (tensorOf o.src.toNat) p.data (rowIndex (tensorOf o.src.toNat).sizes ix)
    | none => (.fin false 0, 0, none)

/-- This package's position in a collective. -/
def Coll.pos (o : Coll) (c : Ctx) : Nat := ((cblockOf o.block.toNat).posOf (field c.drank 11 0)).getD 0

/-- The accesses of a chunk (R199, R308): what is written, the indices of a TOPK with it, and what is read of this package's source. -/
def Coll.chunkWrites (o : Coll) (k : Nat) : List (Int × Nat) :=
  let d := tensorOf o.dst.toNat
  elemWrites d (chunkIx d k) ++
    (if (cblockOf o.block.toNat).op = 4 then (chunkIx d k).map (fun ix => (((d.idxp + 8 * ix.headD 0 : Nat) : Int), 8)) else [])
def Coll.chunkReads (o : Coll) (c : Ctx) (k : Nat) : List (Int × Nat) :=
  let b := cblockOf o.block.toNat
  let d := tensorOf o.dst.toNat
  let sT := tensorOf o.src.toNat
  elemReads sT (b.op != 1 && b.op != 2 && b.op != 4 && sT.fmt == d.fmt && d.layout == 3)
    ((chunkIx d k).flatMap (collNeeds b sT d (o.pos c)))

/-- The bytes of a chunk, as runs (R308, R312). -/
def State.chunkRuns (s : State) (c : Ctx) (o : Coll) (k : Nat) : List (Nat × List Byte) :=
  runsOf (collImage o s.fresh (s.engRead c o.issuer) (s.collParts c o) (o.pos c) k)

/-- A chunk that can be written now (R307, R312): the collective runs, nothing holds it, every other member is reached and its part is
there, no older work owns the lines, and every access can be made. -/
structure ChunkReady (s : State) (c : Ctx) (o : Coll) (k : Nat) : Prop where
  found : s.colls.find? (fun x => x.id == o.id) = some o
  ctx : s.ctx? o.asid = some c
  runs : s.still o.asid o.issuer = false
  stalls : ∀ h ∈ s.stalls, h.work ≠ (0, o.id)
  held : s.holdsNone (0, o.id)
  todo : k ∉ o.done
  chunk : k < chunkCount (tensorOf o.dst.toNat)
  parts : ∀ i < (cblockOf o.block.toNat).count, (cblockOf o.block.toNat).rank i ≠ field c.drank 11 0 →
    s.reachesFrom c o.die ((cblockOf o.block.toNat).rank i) = true ∧
    ∃ p, s.collPart? o ((cblockOf o.block.toNat).rank i) = some p ∧ p.words.headD 0 = o.block.toNat / 2 ^ 128
  free : s.writesBarred o.asid (0, o.id) o.order k (o.chunkWrites k) = false
  reach : engJoin (s.engVia c (s.ownOf o.issuer) (s.viewIss o.issuer) .read (0, o.id) k (o.chunkReads c k))
    (s.engVia c (s.ownOf o.issuer) (s.viewIss o.issuer) .write (0, o.id) k (o.chunkWrites k)) = .ok

theorem ChunkReady.members (H : ChunkReady s c o k) {r : Nat} (hr : r ∈ o.ranks) : r = field c.drank 11 0 ∨
    s.reachesFrom c o.die r = true ∧ ∃ p, s.collPart? o r = some p ∧ p.words.headD 0 = o.block.toNat / 2 ^ 128 := by
  obtain ⟨i, hi, rfl⟩ := List.mem_map.mp hr
  by_cases hme : (cblockOf o.block.toNat).rank i = field c.drank 11 0
  · exact .inl hme
  · exact .inr (H.parts i (List.mem_range.mp hi) hme)

/-- No other member is out of reach (R306). -/
theorem ChunkReady.reached (H : ChunkReady s c o k) :
    o.ranks.find? (fun r => r != field c.drank 11 0 && !s.reachesFrom c o.die r) = none := by
  refine List.find?_eq_none.mpr (fun r hr => ?_)
  obtain rfl | ⟨hreach, -⟩ := H.members hr
  · simp
  · simp [hreach]

/-- No other member's part is missing (R307). -/
theorem ChunkReady.offered (H : ChunkReady s c o k) : o.ranks.any (fun r => r != field c.drank 11 0 && (s.collPart? o r).isNone) = false := by
  refine any_false (fun r hr => ?_)
  obtain rfl | ⟨-, p, hp, -⟩ := H.members hr
  · simp
  · simp [hp]

/-- No other member's block differs (R307). -/
theorem ChunkReady.agreed (H : ChunkReady s c o k) : o.ranks.any (fun r => r != field c.drank 11 0 &&
    (s.collPart? o r).any (fun p => p.words.headD 0 != o.block.toNat / 2 ^ 128)) = false := by
  refine any_false (fun r hr => ?_)
  obtain rfl | ⟨-, p, hp, hwords⟩ := H.members hr
  · simp
  · simp only [hp, Option.any_some, hwords, bne_self_eq_false, Bool.and_false]

/-- What is left when a chunk's bytes are written, in both copies of a redundant team: the chunk is done, and the increments that are due are
made (R312, R313). -/
def State.chunkDone (s : State) (o : Coll) (k : Nat) (runs : List (Nat × List Byte)) : State :=
  let s := runs.foldl (fun s r => s.mirror o.issuer r.1 r.2.length) s
  (({ s.dropPart (0, o.id) k with fresh := s.fresh + 2 ^ 64 } : State).updColl o.id
    (fun o => { o with done := o.done ++ [k] })).collIncs o.id (chunkCount (tensorOf o.dst.toNat) + 1)

theorem chunkColl_ready (H : ChunkReady s c o k) (hput : s.engWrite c o.issuer (s.chunkRuns c o k) = .ok s1) :
    chunkColl o.id k s = s1.chunkDone o k (s.chunkRuns c o k) := by
  have hchunk : ¬ (o.done.contains k || k ≥ chunkCount (tensorOf o.dst.toNat)) = true := by simp [H.todo, H.chunk]
  have hreached := H.reached
  have hreach := H.reach
  unfold Coll.ranks at hreached
  unfold Coll.chunkReads Coll.chunkWrites Coll.pos at hreach
  unfold chunkColl
  rw [H.found]
  dsimp only
  rw [H.ctx]
  dsimp only
  rw [H.runs, State.stallCause_none H.stalls, State.unstall_none H.stalls]
  refine (if_neg hchunk).trans ?_
  rw [hreached]
  refine (if_neg (ne_true_of_eq_false H.offered)).trans ?_
  refine (if_neg (ne_true_of_eq_false H.agreed)).trans ?_
  simp only [beq_iff_eq, State.placesOf_none H.held k]
  refine (if_neg (ne_true_of_eq_false H.free)).trans ?_
  rw [hreach]
  dsimp only
  split
  case h_1 e he => exact absurd (hput.symm.trans he) (by simp)
  case h_2 v hv =>
    obtain rfl : s1 = v := Except.ok.inj (hput.symm.trans hv)
    rfl

end

/-! ### Conversions -/

section
variable {s s1 : State} {c : Ctx} {m : Demand} {asid k : Nat} {sd : BitVec 512}

/-- A conversion starts when every member demands the same and every axis changes as R318 lists (R319). -/
theorem startConversion_agreed (hctx : s.ctx? asid = some c) (hdemand : c.demands.find? (fun m => m.idx == k && !m.ended) = some m)
    (hstart : m.started = false) (hstop : c.stopped = false)
    (hothers : ∀ r ∈ (pentryOf (c.entry k)).ranks, r ≠ field c.drank 11 0 →
      s.reaches c r = true ∧ ∃ p, s.offer asid m r = some p ∧ p.words.drop 1 = m.target)
    (hlisted : ∀ a < 3, convListed ((pentryOf (c.entry k)).st.getD a 0) (m.target.getD a 0) = true) :
    startConversion asid k s = s.updCtx asid (fun c => { c with demands := c.demands.map (fun q =>
      if q.idx = m.idx ∧ q.number = m.number then { q with started := true } else q) }) := by
  let others := (pentryOf (c.entry k)).ranks.filter (· != field c.drank 11 0)
  have hagree : ∀ r ∈ others, s.reaches c r = true ∧ ∃ p, s.offer asid m r = some p ∧ p.words.drop 1 = m.target := by
    intro r hr
    obtain ⟨hrank, hme⟩ := List.mem_filter.mp hr
    exact hothers r hrank (by simpa using hme)
  have hreached : others.find? (fun r => !s.reaches c r) = none :=
    List.find?_eq_none.mpr (fun r hr => by simp [(hagree r hr).1])
  have hthere : others.any (fun r => (s.offer asid m r).isNone) = false := by
    refine any_false (fun r hr => ?_)
    obtain ⟨-, p, hp, -⟩ := hagree r hr
    simp [hp]
  have hsame : others.any (fun r => (s.offer asid m r).any (fun p => p.words.drop 1 != m.target)) = false := by
    refine any_false (fun r hr => ?_)
    obtain ⟨-, p, hp, hwords⟩ := hagree r hr
    simp only [hp, Option.any_some, hwords, bne_self_eq_false]
  have hpairs : (List.range 3).any (fun a => !convListed ((pentryOf (c.entry k)).st.getD a 0) (m.target.getD a 0)) = false :=
    any_false (fun a ha => by rw [hlisted a (List.mem_range.mp ha)]; rfl)
  unfold startConversion
  rw [hctx]
  dsimp only
  rw [hdemand]
  dsimp only
  rw [hstart, hstop]
  refine (if_neg (by simp)).trans ?_
  rw [hreached]
  refine (if_neg (ne_true_of_eq_false hthere)).trans ?_
  rw [hsame, hpairs]
  rfl

/-- The issuer whose access a conversion is: that of the first object it increments (R320). -/
def Demand.issuer (m : Demand) : Issuer := match m.objs with | o :: _ => o.1 | [] => .node 0 0

/-- A context without an entry, as the conversion of that entry accesses its shards (R320). -/
def Ctx.withoutEntry (c : Ctx) (k : Nat) : Ctx :=
  { c with place := cellErase c.place k, shards := c.shards.filter (fun p => p.1 != k) }

/-- What a conversion reads of the old shard. -/
def State.convRead (s : State) (c : Ctx) (m : Demand) (k : Nat) (a : Int) (n : Nat) : Nat :=
  s.viewNum (c.withoutEntry k) (s.ownOf m.issuer) (s.viewIss m.issuer) (wrapN 64 a) n

/-- The bytes of the new shard, as runs (R318; log 51). -/
def State.convRuns (s : State) (c : Ctx) (m : Demand) (k : Nat) (sd : BitVec 512) : List (Nat × List Byte) :=
  let eo := pentryOf (c.entry k)
  let old := tensorOf sd.toNat
  let new := tensorOf m.dst.toNat
  runsOf (imageOf new old (s.convRead c m k) (tailCode old (s.convRead c m k) (· == field c.drank 11 0) s.fresh) (fun _ _ => true)
    ((rowOrder new.sizes).map (convElem s c m eo (eo.withStates m.target) old (s.convRead c m k) (Config.freeNat s.fresh))))

/-- A conversion that can end now (R318, R320): it has started, nothing holds it, no released access is still to be made, no older work owns
the lines of the new shard, and every access can be made. -/
structure ConversionReady (s : State) (c : Ctx) (m : Demand) (asid k : Nat) (sd : BitVec 512) : Prop where
  ctx : s.ctx? asid = some c
  demand : c.demands.find? (fun m => m.idx == k && (m.started || m.ended)) = some m
  shard : c.shards.find? (fun p => p.1 == k) = some (k, sd)
  runs : c.stopped = false
  going : m.ended = false
  stalls : ∀ h ∈ s.stalls, h.work ≠ (asid + 1, k)
  reach : engJoin (s.engAll (c.withoutEntry k) (s.ownOf m.issuer) (s.viewIss m.issuer) .read
      (elemReads (tensorOf sd.toNat) ((tensorOf m.dst.toNat).layout == 3) (rowOrder (tensorOf sd.toNat).sizes)))
    (s.engAll (c.withoutEntry k) (s.ownOf m.issuer) (s.viewIss m.issuer) .write
      (elemWrites (tensorOf m.dst.toNat) (rowOrder (tensorOf m.dst.toNat).sizes))) = .ok
  free : ∀ a ∈ elemWrites (tensorOf m.dst.toNat) (rowOrder (tensorOf m.dst.toNat).sizes),
    s.ownedBefore (asid + 1, k) m.order asid (wrapN 64 a.1) a.2 = false
  noneFreed : ∀ r ∈ s.waiting, r.freed = true → asidOf r.wave ≠ asid
  noneReleased : s.releases.any (fun o => o.asid == asid && overlap (tensorOf sd.toNat).range (o.lo, o.hi)) = false

/-- The state in which the new shard is in place (R318 to R320): both copies of a redundant team have its bytes, and the entry has its
handle and states, and converts on if a further demand waits. -/
def State.reshard (s : State) (c : Ctx) (m : Demand) (asid k : Nat) (image : List (Nat × List Byte)) : State :=
  let s := image.foldl (fun s r => s.mirror m.issuer r.1 r.2.length) s
  ({ s with fresh := s.fresh + 2 ^ 64 } : State).updCtx asid (fun c' =>
    { (c'.setEntry k (newEntryWord (c'.entry k) m (c.demands.any (fun q => q.idx == k && q.number != m.number && !q.ended))) m.dst) with
      demands := c'.demands.map (fun q => if q.idx = m.idx ∧ q.number = m.number then { q with ended := true } else q) })

/-- What an entry has held is released to the places of the new shard, and made (R320; log 111). -/
def State.releaseShard (s : State) (e : BitVec 512) (m : Demand) (asid k : Nat) (sd : BitVec 512) : State :=
  let eo := pentryOf e
  let en := eo.withStates m.target
  (match s.ctx? asid with
    | some c => s.releaseAll c k (tensorOf sd.toNat) en (newPlace eo en (tensorOf sd.toNat) (tensorOf m.dst.toNat) (field c.drank 11 0))
    | none => s).runHeld asid

theorem endConversion_ready (H : ConversionReady s c m asid k sd)
    (hput : s.engWrite (c.withoutEntry k) m.issuer (s.convRuns c m k sd) = .ok s1) :
    endConversion asid k s =
      (((s1.reshard c m asid k (s.convRuns c m k sd)).releaseShard (c.entry k) m asid k sd).convIncs asid m m.objs) := by
  have hstop : ¬ (s.ctx? asid).any (·.stopped) = true := by simp [H.ctx, H.runs]
  have hwait : ¬ (s.releases.any (fun o => o.asid == asid && overlap (tensorOf sd.toNat).range (o.lo, o.hi)) ||
      (elemWrites (tensorOf m.dst.toNat) (rowOrder (tensorOf m.dst.toNat).sizes)).any
        (fun a => s.ownedBefore (asid + 1, k) m.order asid (wrapN 64 a.1) a.2)) = true := by
    rw [H.noneReleased, any_false H.free]
    simp
  unfold endConversion
  rw [if_neg hstop, State.runHeld_none H.noneFreed]
  dsimp only
  rw [H.ctx]
  dsimp only
  rw [H.demand, H.shard]
  dsimp only
  rw [H.going, State.stallCause_none H.stalls, State.unstall_none H.stalls]
  refine (if_neg Bool.false_ne_true).trans ?_
  refine (if_neg hwait).trans ?_
  split
  case h_1 on hon => exact absurd (H.reach.symm.trans hon) (by simp)
  case h_2 cause va hfault => exact absurd (H.reach.symm.trans hfault) (by simp)
  case h_3 _ =>
    split
    case h_1 va he => exact absurd (hput.symm.trans he) (by simp)
    case h_2 v hv =>
      obtain rfl : s1 = v := Except.ok.inj (hput.symm.trans hv)
      rfl

end

/-! ### Graph nodes -/

section
variable {s s1 : State} {c : Ctx} {core slot : Nat}

@[simp] theorem State.node_setNode (s : State) (core slot : Nat) (n : NodeSlot) : (s.setNode core slot n).node core slot = n := by
  simp [State.node, State.setNode, State.core_updCore, cellGet_cellSet]

@[simp] theorem State.node_pushDue (s : State) (i : Instr) (core slot : Nat) : (s.pushDue i).node core slot = s.node core slot := rfl

/-- A node without work runs at its launch, and its completion is due at once (R275, R278). -/
theorem launchNode_noWork (hkind : nodeKind (s.node core slot).desc = 4) (hstalls : ∀ h ∈ s.stalls, h.work ≠ nodeWorkName core slot) :
    s.launchNode c core slot =
      (s.setNode core slot { s.node core slot with state := 2, slab := false }).pushDue (.graphWorkCompletion core slot) := by
  simp only [State.launchNode, State.stallCause_none hstalls, State.unstall_none hstalls, hkind]

theorem completeNode_noWork (hctx : (s.node core slot).asid.bind s.ctx? = some c) (hlive : c.killed = false)
    (hstate : (s.node core slot).state = 4) (hkind : nodeKind (s.node core slot).desc = 4)
    (hstalls : ∀ h ∈ s.stalls, h.work ≠ nodeWorkName core slot) (hheld : s.holdsNone (nodeWorkName core slot)) :
    completeNode core slot s =
      (s.setNode core slot { s.node core slot with state := 2, slab := false }).pushDue (.graphWorkCompletion core slot) := by
  unfold completeNode
  dsimp only
  rw [hctx]
  dsimp only
  rw [hlive, hstate, launchNode_noWork hkind hstalls]
  refine (if_neg Bool.false_ne_true).trans ?_
  refine (if_pos rfl).trans ?_
  refine (if_neg (by simp)).trans ?_
  exact State.dropBytes_none hheld hstalls

/-- A node whose work is done makes its decrements and its increment (R276, R277). -/
theorem completeNode_done (hctx : (s.node core slot).asid.bind s.ctx? = some c) (hlive : c.killed = false)
    (hstate : (s.node core slot).state = 2) (hidle : s.nodeBusy core slot = false) :
    completeNode core slot s = ((s.setNode core slot { s.node core slot with state := 3 }).decNodes core c.asid
      (succSlots (s.node core slot).desc (fun slab => !(slab && (s.node core slot).slab)))).finishNode core slot c.asid := by
  unfold completeNode
  dsimp only
  rw [hctx]
  dsimp only
  rw [hlive, hstate, hidle]
  refine (if_neg Bool.false_ne_true).trans ?_
  refine (if_neg (by decide)).trans ?_
  exact if_pos rfl

/-- A node that has made its decrements is freed after its increment of `COMP` (R276; log 42). -/
theorem completeNode_freed (hctx : (s.node core slot).asid.bind s.ctx? = some c) (hlive : c.killed = false)
    (hstate : (s.node core slot).state = 3)
    (hinc : s.increment c.asid (.node core slot) (nodeCompName core slot) none
      (if (s.node core slot).slab then 0 else nodeComp (s.node core slot).desc) 1 = .made s1) :
    completeNode core slot s = s1.setNode core slot NodeSlot.free := by
  unfold completeNode
  dsimp only
  rw [hctx]
  dsimp only
  rw [hlive, hstate]
  refine (if_neg Bool.false_ne_true).trans ?_
  refine (if_neg (by decide)).trans ?_
  refine (if_neg (by simp)).trans ?_
  refine (if_pos rfl).trans ?_
  simp only [State.finishNode, hinc]

end

/-! ### The engines -/

/-- Settles O55: each engine's step by its own equation, in the order of the clauses. -/
theorem engineSteps : Obligations.EngineSteps := by
  unfold Obligations.EngineSteps
  intro s s1 c id k
  refine ⟨?transfer, ?signal, ?chunk, ?start, ?ends, ?node⟩
  case transfer =>
    intro t hfound hctx hruns hread hsound hstalls hheld own view z later rd wrote
    obtain rfl : t.id = id := by simpa using List.find?_some hfound
    refine ⟨fun hroom htodo hsector hfree hreach => ?sector, ?completion⟩
    case sector =>
      have hready : SectorReady s c t k :=
        ⟨hfound, hctx, hruns, hread, hsound, hstalls, hheld, htodo, hsector, hroom, hfree, hreach⟩
      refine ⟨fun hnow hput => ?bytes, fun w hlater hw => ?deferred, fun q m hlater hq => ?kept⟩
      case bytes => exact commit_eq (writeSector_ready hready (by rw [putSector_bytes hnow, hput]))
      case deferred => exact commit_eq (writeSector_ready hready (putSector_wave hlater hw))
      case kept => exact commit_eq (writeSector_ready hready (putSector_node hlater hq))
    case completion =>
      exact fun w s2 hall hfly hlater hw hslabs hinc =>
        commit_eq (completeTransfer_done hfound hctx hruns hread hsound hstalls hall hfly hlater hw hslabs hinc)
  case signal =>
    intro g hfound hruns hafter halone ended
    obtain rfl : g.id = id := by simpa using List.find?_some hfound
    have hready : SignalReady s g := ⟨hfound, hruns, hafter, halone⟩
    exact ⟨fun hslot hinc => commit_eq (effectCsig_object hready hslot hinc),
      fun q hslot hdec => commit_eq (effectCsig_slot hready hslot hdec)⟩
  case chunk =>
    intro o part hfound hctx hruns hstalls hheld b d sT me pos ixs own view wr htodo hchunk hparts hfree hreach runs hput s2
    obtain rfl : o.id = id := by simpa using List.find?_some hfound
    have hready : ChunkReady s c o k :=
      ⟨hfound, hctx, hruns, hstalls, hheld, htodo, hchunk,
        fun i hi hme => ⟨(hparts i hi hme).1, part (b.rank i), (hparts i hi hme).2⟩, hfree, hreach⟩
    exact commit_eq (chunkColl_ready hready hput)
  case start =>
    exact fun m hctx hdemand hstart hstop hothers hlisted =>
      commit_eq (startConversion_agreed hctx hdemand hstart hstop hothers hlisted)
  case ends =>
    intro m sd hctx hasid hdemand hshard hruns hgoing hstalls eo en old new iss own view free rd hreach hfree hfreed hreleased image hput
      s2 more s3
    have hready : ConversionReady s c m id k sd :=
      ⟨hctx, hdemand, hshard, hruns, hgoing, hstalls, hreach, hfree, hfreed, hreleased⟩
    exact commit_eq (endConversion_ready hready hput)
  case node =>
    intro n hasid hctx hlive
    have hnode : (s.node id k).asid.bind s.ctx? = some c := by rw [hasid]; exact hctx
    exact ⟨fun hstate hkind hstalls hheld => commit_eq (completeNode_noWork hnode hlive hstate hkind hstalls hheld),
      fun hstate hidle => commit_eq (completeNode_done hnode hlive hstate hidle),
      fun hstate hinc => commit_eq (completeNode_freed hnode hlive hstate hinc)⟩

end Sys2Proof.Machine
end

section
/-!
SUPPORT. The commands of memory: the entries that `MAP` and `UNMAP` reach (R235, R236, R360), and the copy that `RETENTION` makes of a
layer (R219, R220, R365).
-/
namespace Sys2Proof.Machine

section
variable {h : CmdHeader} {b : List DWord} {s : State} {c : Ctx} {o : PteOp} {table : Nat}

/-- A command that starts ends its step in what its effect comes to (R271, R355). -/
theorem queued_effect {t : State} (H : Starts h b s c) {go : Ctx → Cmd → State → State}
    (hgo : go c { h := h, body := b, step := 0 } (started h b s c) = t) : queued h b go s = .next (drained s t) := by
  rw [queued_starts H, hgo]

/-! ### The entries that a page command names -/

/-- The entries that the body of a page command names in a table (R360). -/
def pteOpOf (b : List DWord) (table : Nat) : PteOp :=
  { level := bodyWord b 3 % 4, va := bodyWord b 0, count := bodyWord b 2, table := table }

/-- The walk of a page command reaches its table, which holds all its entries, each readable and writable (R231, R360). -/
structure EntriesFound (s : State) (c : Ctx) (o : PteOp) : Prop where
  aligned : o.va % 2 ^ pageBits o.level = 0
  nonempty : 1 ≤ o.count
  within : o.va / 2 ^ pageBits o.level % 1024 + o.count ≤ 1024
  table : s.tableFor o.va o.level 0 c.ptroot.toNat = .at o.table
  backed : ∀ a ∈ o.addrs, s.backed a = true
  readable : ∀ a ∈ o.addrs, s.badByte a 8 = none
  whole : ∀ a ∈ o.addrs, s.partialRetired a 8 = none

/-- No entry found has part of a retired block (R224). -/
theorem EntriesFound.noPartial (H : EntriesFound s c o) : o.addrs.any (fun a => (s.partialRetired a 8).isSome) = false :=
  any_false (fun a ha => by rw [H.whole a ha]; rfl)

/-- A page command whose entries are found acts on them (R360). -/
theorem State.pteOp_found (H : EntriesFound s c (pteOpOf b table)) (go : PteOp → State) : s.pteOp c h b go = go (pteOpOf b table) := by
  obtain ⟨haligned, hcount, hwithin, htable, hthere, hreadable, -⟩ := H
  have hbacked : (pteOpOf b table).addrs.any (fun a => !s.backed a) = false :=
    any_false (fun a ha => by rw [hthere a ha]; rfl)
  have hread : (pteOpOf b table).addrs.findSome? (fun a => s.badByte a 8) = none :=
    List.findSome?_eq_none_iff.mpr hreadable
  have hfields : ¬ (bodyWord b 0 % 2 ^ pageBits (bodyWord b 3 % 4) != 0 || bodyWord b 2 == 0 || bodyWord b 2 > 1024 ||
      bodyWord b 0 / 2 ^ pageBits (bodyWord b 3 % 4) % 1024 + bodyWord b 2 > 1024) = true := by
    simp only [pteOpOf] at haligned hcount hwithin
    simp only [Bool.or_eq_true, bne_iff_ne, beq_iff_eq, decide_eq_true_eq]
    omega
  unfold State.pteOp
  refine (if_neg hfields).trans ?_
  simp only [pteOpOf] at htable hbacked hread ⊢
  simp only [show nfield (bodyWord b 3) 1 0 = bodyWord b 3 % 4 from rfl, htable, hbacked, hread, Bool.false_eq_true, if_false]

/-! ### `MAP` and `UNMAP` -/

/-- The bytes that each entry of a `MAP` names: a page of its level, or a table (R230, R360). -/
def PteOp.unit (o : PteOp) (b : List DWord) : Nat := if (bodyWord b 3).testBit 2 then 2 ^ pageBits o.level else 8192

/-- What R360 asks of a `MAP` whose entries are found: pages below the root and tables above the leaves, invalid entries, physical memory
that is there, and a range apart from the context's heap, spill area and procedural ranges. -/
structure MapAccepted (s : State) (c : Ctx) (b : List DWord) (o : PteOp) : Prop where
  body : strayBody b [[(55, 16)], [(51, 13)], [(31, 0)], [(4, 0)]] = false
  page : (bodyWord b 3).testBit 2 = true → o.level ≠ 0 ∧ bodyWord b 1 % o.unit b = 0
  table : (bodyWord b 3).testBit 2 = false → o.level ≠ 3
  invalid : ∀ a ∈ o.addrs, ∃ r, s.pteAt o.level a = .invalid r
  memory : inDevice (bodyWord b 1) (o.count * o.unit b) = true ∨
    (bodyWord b 3).testBit 2 = true ∧ 2 ^ 50 ≤ bodyWord b 1 ∧ bodyWord b 1 + o.count * o.unit b ≤ 2 ^ 51
  present : s.touchesRemoved (bodyWord b 1) (o.count * o.unit b) = false
  heap : overlaps o.va o.size c.heapBase.toNat c.heapLimit.toNat = false
  spill : overlaps o.va o.size c.spillVa (c.spillSz * 2 ^ 16) = false
  procs : ∀ p ∈ c.procs, overlaps o.va o.size p.2.vaRange.1 p.2.vaRange.2 = false

/-- The entries of a `MAP` written, on tables filled with zeros where it maps tables (R229, R360). -/
def State.mapEntries (s : State) (b : List DWord) (o : PteOp) : State :=
  (List.range o.count).foldl (fun s i => s.storeBytes (o.addr i) (toBytes 8 (bodyWord b 1 + i * o.unit b + bodyWord b 3 / 8 % 4 * 4 +
      (if (bodyWord b 3).testBit 2 then 3 else 1))))
    (if (bodyWord b 3).testBit 2 then s else s.zeroRange (bodyWord b 1) (o.count * o.unit b))

/-- An accepted `MAP` writes its entries, and lets the requesters held on the range go on (R236, R360; log 60). -/
theorem semMap_accepted (H : EntriesFound s c (pteOpOf b table)) (A : MapAccepted s c b (pteOpOf b table)) (k : Cmd) :
    semMap h b c k s = ((s.mapEntries b (pteOpOf b table)).endCmd h 0 (bodyWord b 2)).pagesEnd c.asid (bodyWord b 0)
      (pteOpOf b table).size .resolved := by
  obtain ⟨hbody, hpage, htable, hinvalid, hmemory, hpresent, hheap, hspill, hprocs⟩ := A
  unfold semMap
  dsimp only
  rw [hbody, State.pteOp_found H]
  refine (if_neg Bool.false_ne_true).trans ((if_neg ?accepted).trans ((if_neg ?whole).trans rfl))
  case accepted =>
    simp only [Bool.or_eq_true, not_or, Bool.not_eq_true]
    refine ⟨⟨⟨⟨⟨⟨⟨⟨?root, ?leaf⟩, ?unit⟩, ?entries⟩, ?memory⟩, ?present⟩, hheap⟩, hspill⟩, any_false hprocs⟩
    case root => simpa using fun hleaf => (hpage hleaf).1
    case leaf => simpa using htable
    case unit => simpa [PteOp.unit] using fun hleaf => (hpage hleaf).2
    case entries => exact any_false (fun a ha => by obtain ⟨r, hr⟩ := hinvalid a ha; rw [hr])
    case memory =>
      simp only [Bool.not_eq_false', Bool.or_eq_true, Bool.and_eq_true, decide_eq_true_eq, and_assoc]
      exact hmemory
    case present => exact hpresent
  case whole => rw [H.noPartial]; exact Bool.false_ne_true

/-- What R360 asks of an `UNMAP` whose entries are found: valid entries or replayable ones, and no access to their pages under way (R235;
log 13). -/
structure UnmapAccepted (s : State) (c : Ctx) (b : List DWord) (o : PteOp) : Prop where
  body : strayBody b [[(55, 16)], [], [(31, 0)], [(1, 0), (5, 5)]] = false
  valid : ∀ a ∈ o.addrs, s.pteAt o.level a ≠ .invalid false
  quiet : s.inFlight c.asid o.va o.size
    ((List.range o.count).flatMap (fun i => s.leavesOf o.level (o.addr i) (o.va + i * 2 ^ pageBits o.level))) = false

/-- The entries of an `UNMAP` written, replayable or not, and the range in no TLB of the context (R235, R360). -/
def State.unmapEntries (s : State) (c : Ctx) (b : List DWord) (o : PteOp) : State :=
  let out := o.addrs.foldl (fun s a => s.storeBytes a (toBytes 8 (if (bodyWord b 3).testBit 5 then 16 else 0))) s
  { out with tlb := out.tlb.filter (fun e => !(e.asid == c.asid && e.level ≥ o.level &&
    overlaps o.va o.size (e.va / 2 ^ pageBits e.level * 2 ^ pageBits e.level) (2 ^ pageBits e.level))) }

/-- An accepted `UNMAP` writes its entries; what is held on the range goes on with a cause where it is not replayable (R235, R236, R360). -/
theorem semUnmap_accepted (H : EntriesFound s c (pteOpOf b table)) (A : UnmapAccepted s c b (pteOpOf b table)) (k : Cmd) :
    semUnmap h b c k s = if (bodyWord b 3).testBit 5 then (s.unmapEntries c b (pteOpOf b table)).endCmd h 0 0
      else ((s.unmapEntries c b (pteOpOf b table)).endCmd h 0 0).pagesEnd c.asid (bodyWord b 0) (pteOpOf b table).size
        (.failed cTranslation) := by
  obtain ⟨hbody, hvalid, hquiet⟩ := A
  unfold semUnmap
  dsimp only
  rw [hbody, State.pteOp_found H]
  refine (if_neg Bool.false_ne_true).trans ((if_neg ?valid).trans ((if_neg ?whole).trans ((if_neg ?quiet).trans rfl)))
  case valid =>
    refine Bool.eq_false_iff.mp (any_false (fun a ha => ?_))
    have hentry := hvalid a ha
    split
    · next r hr =>
      cases r
      · exact absurd hr hentry
      · rfl
    · rfl
  case whole => rw [H.noPartial]; exact Bool.false_ne_true
  case quiet => rw [hquiet]; exact Bool.false_ne_true

/-! ### `RETENTION` -/

/-- `RETENTION` removes a layer that is there, that no context uses and all of which can be read: its bytes go to the tier (R219, R220). -/
theorem semRetentionRemove_accepted (hbody : retBad b = false) (hthere : ∀ l ∈ s.layers, l.layer ≠ retLayer b)
    (hfree : s.rangeUsed (retLayer b * layerBytes) layerBytes = false) (hread : s.anyBad (retLayer b * layerBytes) layerBytes = false)
    (k : Cmd) :
    semRetentionRemove h b c k s = ({ s.copyRange (retLayer b * layerBytes) (retTier b) layerBytes with
      layers := s.layers ++ [{ layer := retLayer b, tier := retTier b }]
      capSeq := s.capSeq + 1
      records := s.records ++ [capacityRecord c.asid (retTier b) (retLayer b * layerBytes) (retLayer b) 1 (s.capSeq + 1)] } : State).endCmd
        h 0 0 := by
  have hlayers : s.layers.any (fun l => l.layer == retLayer b) = false := any_false (fun l hl => by simpa using hthere l hl)
  simp only [semRetentionRemove, hbody, hlayers, hfree, hread, Bool.or_self, Bool.false_eq_true, if_false]
  rfl

/-- `RETENTION` restores a layer from the tier address that it was removed to (R219, R220). -/
theorem semRetentionRestore_accepted (hbody : retBad b = false) (hgone : { layer := retLayer b, tier := retTier b } ∈ s.layers)
    (hread : s.anyBad (retTier b) layerBytes = false) (k : Cmd) :
    semRetentionRestore h b c k s = ({ s.copyRange (retTier b) (retLayer b * layerBytes) layerBytes with
      layers := s.layers.filter (fun l => l.layer != retLayer b)
      capSeq := s.capSeq + 1
      records := s.records ++ [capacityRecord c.asid (retTier b) (retLayer b * layerBytes) (retLayer b) 2 (s.capSeq + 1)] } : State).endCmd
        h 0 0 := by
  have hlayers : s.layers.contains { layer := retLayer b, tier := retTier b } = true := List.contains_iff_mem.mpr hgone
  simp only [semRetentionRestore, hbody, hlayers, hread, Bool.not_true, Bool.or_self, Bool.false_eq_true, if_false]
  rfl

end

/-! ### The commands -/

/-- Settles O59: each command starts, and its body is accepted. -/
theorem memoryCommands : Obligations.MemoryCommands := by
  unfold Obligations.MemoryCommands
  intro h b s c table H s0 w o found leaf size apart k pa
  have hfound : found → EntriesFound s0 c (pteOpOf b table) := fun ⟨haligned, hcount, hwithin, htable, hentries⟩ =>
    ⟨haligned, hcount, hwithin, htable, fun a ha => (hentries a ha).1, fun a ha => (hentries a ha).2.1, fun a ha => (hentries a ha).2.2⟩
  refine ⟨?map, ?unmap, ?remove, ?restore⟩
  case map =>
    intro hbody hreach hpage htable hinvalid hmemory hpresent hheap hspill hprocs
    have haccepted : MapAccepted s0 c b (pteOpOf b table) :=
      ⟨hbody, hpage, htable, hinvalid, hmemory, hpresent, hheap, hspill, hprocs⟩
    exact queued_effect H (semMap_accepted (hfound hreach) haccepted _)
  case unmap =>
    intro rpl out gone hbody hreach hvalid hquiet
    exact queued_effect H (semUnmap_accepted (hfound hreach) ⟨hbody, hvalid, hquiet⟩ _)
  case remove =>
    intro hbody hthere hfree hread out
    exact queued_effect H (semRetentionRemove_accepted (s := s0) hbody hthere hfree hread _)
  case restore =>
    intro hbody hgone hread out
    exact queued_effect H (semRetentionRestore_accepted (s := s0) hbody hgone hread _)

end Sys2Proof.Machine
end

section
/-!
SUPPORT. The events of the package (10_memory_hierarchy.md R216 to R223; 15 R304, R306; 18 R370, R374), the acknowledgement of a unit that
has stopped (R349), and the acquire read of a `WAIT` (R271, R513).
-/
namespace Sys2Proof.Machine

section
variable {s : State} {k n : Nat} {c : Ctx}

/-! ### Pseudo-channels, lanes and rows -/

/-- The pass counts of a channel after a grant to class `cls` that leaves `rest` waiting: a class that waits on counts one more (R216). -/
def Chan.nextPass (h : Chan) (cls : Nat) (rest : List ChanReq) (d : Nat) : Nat :=
  if d = cls then 0 else if rest.any (fun x => x.cls == d) then h.passOf d + 1 else 0

/-- The request `r` of class `cls` is granted at pseudo-channel `k` (R216). -/
def State.granted (s : State) (k cls : Nat) (r : ChanReq) : State :=
  let rest := (s.chan k).waiting.erase r
  let next := (s.chan k).nextPass cls rest
  s.updChan k (fun h => { h with waiting := rest, pass := [next 1, next 2, next 3] })

/-- A grant serves the request of least deadline of its class, and charges a deadline that has passed (R216, R217). -/
theorem grant_serves {cls : Nat} {r : ChanReq} (hlent : (s.chan k).lent = false) (hcls : (s.chan k).grantClass = some cls)
    (hr : leastDeadline ((eligibleFrom [] (s.chan k).waiting).filter (fun r => r.cls == cls)) = some r) :
    grant k s = if r.slack ≠ 0 ∧ (s.chan k).clock > r.arrival + r.slack then (s.granted k cls r).chargeMiss r else s.granted k cls r := by
  simp only [grant, hlent, hcls, hr, Bool.false_eq_true, if_false, Bool.and_eq_true, bne_iff_ne, beq_iff_eq, decide_eq_true_eq]
  rfl

/-- Lanes that are called back return (R218). -/
theorem reclaim_called (h : (s.chan (2 * k)).reclaiming = true) :
    reclaim k s = s.updPair k (fun h => { h with lent := false, reclaiming := false, shake := 0 }) := if_pos h

/-- A channel with no waiting request lends its lanes to a neighbour that has its own (R218). -/
theorem lend_idle (hk : 2 * k < chanCount) (hown : (s.chan (2 * (k ^^^ 1))).lent = false) (heven : (s.chan (2 * k)).waiting = [])
    (hodd : (s.chan (2 * k + 1)).waiting = []) : lend k s = s.updPair k (fun h => { h with lent := true }) := by
  simp only [lend, hk, hown, heven, hodd, decide_true, Bool.not_false, List.isEmpty_nil, Bool.and_self, if_true]

/-- A row whose counter fails its check is refreshed, with both entries in the error log (R221). -/
theorem refreshRow_checkFailed {row : RowId} (hrow : rowThere row = true) :
    refreshRow row true s = { s with
      rowCtr := s.rowCtr.filter (fun p => p.1 != row)
      errLog := s.errLog ++ [⟨4, 3, row.stack, row.channel, 0, 1⟩, ⟨5, 3, row.stack, row.channel, 0, 1⟩] } := by
  simp [refreshRow, hrow]

/-- A row whose counter has reached the threshold is refreshed, and that is logged (R221). -/
theorem refreshRow_threshold {row : RowId} (hrow : rowThere row = true) (hcount : s.rowCount row ≥ s.record.threshold) :
    refreshRow row false s = { s with
      rowCtr := s.rowCtr.filter (fun p => p.1 != row)
      errLog := s.errLog ++ [⟨5, 3, row.stack, row.channel, 0, 1⟩] } := by
  simp [refreshRow, hrow, Nat.not_lt.mpr hcount]

/-- A line written back with an uncorrectable error kills its context, and its block is retired (R223, R224). -/
theorem writeBack_bad (pa asid : Nat) (s : State) :
    let x := (s.killFor asid cMachineCheck).logBad pa
    writeBack pa asid true s = { x with
      retired := if pa / 64 ∈ x.retired then x.retired else x.retired ++ [pa / 64]
      errLog := x.errLog ++ [⟨3, 3, (homeOf pa).stack, (homeOf pa).channel, pa / 64 * 64, 1⟩] } := by
  simp only [writeBack, Bool.not_true, Bool.false_eq_true, if_false, List.contains_iff_mem]

/-! ### Ports and UALink -/

/-- A port of the package that loses its link (R306). -/
theorem losePort_there (hk : k < 6) :
    losePort k s = s.ctxs.foldl (fun s c => s.endUnreached c.asid)
      { s with ports := cellSet Port.start s.ports k { cellGet Port.start s.ports k with
        up := false, losses := (cellGet Port.start s.ports k).losses + 1 } } := if_neg (Nat.not_le.mpr hk)

/-- A request that reaches a port whose link is up waits where it is late, and is carried out otherwise (R258, R304; log 110). -/
theorem ualPerform_up {r : UalRequest} (hport : r.port < 6) (hup : (cellGet Port.start s.ports r.port).up = true) :
    ualPerform r s = if s.ualLate s.ualIn r then { s with ualIn := s.ualIn ++ [r] } else s.ualDo r := by
  have hreach : ¬ (decide (r.port ≥ 6) || !(cellGet Port.start s.ports r.port).up) = true := by
    simp [hup, hport]
  exact if_neg hreach

/-- A request outside the subset of R304 has an error completion. -/
theorem State.ualDo_refused {r : UalRequest} (hok : ualOk r s = false) : s.ualDo r = s.ualError r := by
  simp only [State.ualDo, hok, Bool.not_false, if_true]

/-- A read of memory that can be read (R304). -/
theorem State.ualDo_read {r : UalRequest} (hok : ualOk r s = true) (hkind : r.kind = .read) (hread : s.badByte r.addr r.len = none) :
    s.ualDo r = s.ualAnswer r (s.bytesAt r.addr r.len) := by
  simp only [State.ualDo, hok, hkind, hread, Bool.not_true, Bool.false_eq_true, if_false, Option.isSome_none]

/-- A write that covers no part of a retired block (R224, R304). -/
theorem State.ualDo_write {r : UalRequest} (hok : ualOk r s = true) (hkind : r.kind = .write)
    (hwhole : s.partialRetired r.addr r.len = none) : s.ualDo r = (s.storeBytes r.addr r.data).ualAnswer r [] := by
  simp only [State.ualDo, hok, hkind, hwhole, Bool.not_true, Bool.false_eq_true, if_false, Option.isSome_none]

/-- An atomic on memory that can be read stores its new value and answers the old one (R304; log 71). -/
theorem State.ualDo_atomic {r : UalRequest} {op : Nat} {signed : Bool} (hok : ualOk r s = true) (hkind : r.kind = .atomic op signed)
    (hread : s.badByte r.addr r.len = none) :
    let old := s.numAt r.addr r.len
    let v := ofBytes (r.data.take r.len)
    s.ualDo r = (s.storeBytes r.addr (toBytes r.len (if op = 9 then (if old = ofBytes (r.data.drop r.len) then v else old)
      else atomNew op signed (8 * r.len) old v))).ualAnswer r (toBytes r.len old) := by
  simp only [State.ualDo, hok, hkind, hread, Bool.not_true, Bool.false_eq_true, if_false, Option.isSome_none, beq_iff_eq]

/-! ### Boot and heat -/

/-- Boot with a record that verifies (R370). -/
theorem bootPart_verified (hoff : s.booted = false) (h : Config.recordVerifies = true) :
    bootPart s = { s with booted := true, record := bootRecord, assignment := assignCores (Config.recordCores Config.record) } := by
  simp only [bootPart, hoff, h, Bool.false_eq_true, if_false, if_true]

/-- Boot with a record that does not verify enters recovery (R370). -/
theorem bootPart_recovery (hoff : s.booted = false) (h : Config.recordVerifies = false) :
    bootPart s = { s with booted := true, recovery := true, record := { BootRecord.none with digest := Config.recordDigest } } := by
  simp only [bootPart, hoff, h, Bool.false_eq_true, if_false]

/-- The temperature of a shutdown is reached (R374). -/
theorem shutDown_hot (h : n ≥ 115) :
    shutDown n s = { s.ctxs.foldl (fun s c => s.killFor c.asid cMachineCheck) s with shutdown := true } := if_neg (Nat.not_lt.mpr h)

/-! ### Units that stop, and `WAIT` -/

/-- A unit of a stopped context that has stopped is acknowledged; with the last one the context's `PREEMPT` completes (R349). -/
theorem acknowledge_stopped {u : UnitId} (hc : s.ctx? n = some c) (hstop : c.stopped = true) (hu : u ∈ c.acks)
    (hdone : s.hasStopped n u = true) :
    let rest := c.acks.filter (· != u)
    let s1 := s.updCtx n (fun c => { c with acks := rest })
    acknowledge n u s = if rest = [] then s1.stopDone n else s1 := by
  simp only [acknowledge, hc, hstop, List.contains_iff_mem.mpr hu, hdone, Bool.not_true, Bool.or_self, Bool.false_eq_true, if_false,
    List.isEmpty_iff]

/-- A read of a command that nothing holds, and that is made (R513). -/
theorem State.cmdRead_ok {h : CmdHeader} {va v : Nat} (hstalls : ∀ b ∈ s.stalls, b.work ≠ cmdWork c.asid (hq h))
    (hread : s.workRead c (cmdWork c.asid (hq h)) va n = (.ok, v)) (go : State → Nat → State) : s.cmdRead c h va n go = go s v := by
  simp only [State.cmdRead, State.stallCause_none hstalls, State.unstall_none hstalls, hread]

/-- A running `WAIT` whose object has reached its value ends (R271). -/
theorem completeWait_met {q v : Nat} {cmd : Cmd} (hc : s.ctx? n = some c) (hruns : c.runs q = some cmd) (hcmd : cmd.h.cmd = 0x08)
    (hgo : c.stopped = false) (hstalls : ∀ b ∈ s.stalls, b.work ≠ cmdWork c.asid (hq cmd.h))
    (hread : s.workRead c (cmdWork c.asid (hq cmd.h)) (bodyWord cmd.body 0) 8 = (.ok, v)) (hv : v ≥ bodyWord cmd.body 1) :
    completeWait n q s = s.endCmd cmd.h 0 0 := by
  have hwait : (cmd.h.cmd.toNat != 0x08 || c.stopped) = false := by rw [hcmd, hgo]; rfl
  simp only [completeWait, hc, hruns, hwait, Bool.false_eq_true, if_false]
  rw [State.cmdRead_ok hstalls hread, if_pos hv]

end

/-! ### The events -/

/-- Settles O57: each event by its own equation, in the order of the clauses. -/
theorem packageEvents : Obligations.PackageEvents := by
  unfold Obligations.PackageEvents
  intro s k n c h
  refine ⟨?grant, ?reclaim, ?lend, ?refresh, ?writeBack, ?port, ?late, ?ualink, ?boot, rfl, fun _ => rfl, ?stepDown, ?shutdown, ?acknowledge,
    ?wait⟩
  case grant => exact fun cls r hlent hcls hr => commit_eq (grant_serves hlent hcls hr)
  case reclaim => exact fun hcalled => commit_eq (reclaim_called hcalled)
  case lend => exact fun hk hown heven hodd => commit_eq (lend_idle hk hown heven hodd)
  case refresh =>
    exact fun row hrow => ⟨commit_eq (refreshRow_checkFailed hrow), fun hcount => commit_eq (refreshRow_threshold hrow hcount)⟩
  case writeBack => exact ⟨commit_eq rfl, commit_eq (writeBack_bad k n s)⟩
  case port => exact fun hk => commit_eq (losePort_there hk)
  case late => exact fun r hport hup hlate => commit_eq ((ualPerform_up hport hup).trans (if_pos hlate))
  case ualink =>
    intro r hport hup hlate
    have hdo : ualPerform r s = s.ualDo r := (ualPerform_up hport hup).trans (if_neg (Bool.eq_false_iff.mp hlate))
    exact ⟨fun hok => commit_eq (hdo.trans (State.ualDo_refused hok)),
      fun hok hkind hread => commit_eq (hdo.trans (State.ualDo_read hok hkind hread)),
      fun hok hkind hwhole => commit_eq (hdo.trans (State.ualDo_write hok hkind hwhole)),
      fun op signed hok hkind hread => commit_eq (hdo.trans (State.ualDo_atomic hok hkind hread))⟩
  case boot =>
    exact fun hoff => ⟨fun hrecord => commit_eq (bootPart_verified hoff hrecord), fun hrecord => commit_eq (bootPart_recovery hoff hrecord)⟩
  case stepDown => exact fun hhot => commit_eq (if_pos hhot)
  case shutdown => exact fun hhot => commit_eq (shutDown_hot hhot)
  case acknowledge => exact fun u hc hstop hu hdone => commit_eq (acknowledge_stopped hc hstop hu hdone)
  case wait =>
    intro q cmd v hc hruns hcmd hgo hstalls hasid hread hv
    subst hasid
    exact commit_eq (completeWait_met hc hruns hcmd hgo hstalls hread hv)

end Sys2Proof.Machine
end

section
/-!
SUPPORT. Atomics, film accumulation and multicast stores whose accesses nothing stands in the way of: performed lane by lane (R249, R262,
R263, R417), deferred (R265, R267), or written and sent on (R453).
-/
namespace Sys2Proof.Machine

section
variable {x : Iss} {s : State} {c : Ctx} {as : List LaneAcc} {pas : Nat → List (Nat × Nat)} {va : Nat → Nat} {n m e core : Nat}

/-! ### Accesses that all go on -/

/-- The accesses of `n` bytes by lane, as the instructions list them. -/
theorem map_lanes_accs : x.lanes.map (fun l => ({ lane := l, va := va l, n := n } : LaneAcc)) = x.accs va n := rfl

/-- What is made of each access, lane by lane. -/
theorem map_accs {β : Type} (u : LaneAcc → β) : (x.accs va n).map u = x.lanes.map (fun l => u { lane := l, va := va l, n := n }) := by
  rw [Iss.accs, List.map_map]
  rfl

/-- The deferred update of a lane, with the key of R267. -/
def Iss.deferred (x : Iss) (l va op width value : Nat) (signed : Bool) : Update :=
  { src := x.w.core, t := keyT x.w l, q := (x.w.thread l).q, e := 0, va := va, op := op, signed := signed, width := width, value := value,
    sat := false }

/-- Aligned accesses of `n` bytes by lane. -/
theorem misaligned_accs (h : ∀ l ∈ x.lanes, va l % m = 0) : x.misaligned m (x.accs va n) = none :=
  aligned_none (List.forall_mem_map.mpr h)

/-- Accesses of `n` bytes by lane, within an extent. -/
theorem beyond_accs (h : ∀ l ∈ x.lanes, va l + n ≤ e) : x.beyond e (x.accs va n) = none :=
  within_none (List.forall_mem_map.mpr h)

@[simp] theorem allGo_s : (allGo s as pas).s = s := rfl
@[simp] theorem allGo_stay : (allGo s as pas).stay = [] := rfl
@[simp] theorem allGo_go : (allGo s as pas).go = as.map (fun a => (a, pas a.lane)) := rfl
@[simp] theorem allGo_held : (allGo s as pas).held = [] := rfl

/-- No access is held, and none is kept (R320). -/
@[simp] theorem holdAll_allGo (t : State) (i : Instr) (kind : ReqKind) (code k : Nat) (operands : Nat → List Nat) :
    (allGo s as pas).holdAll t x i kind code k operands = t := rfl
@[simp] theorem holdPlain_allGo (t : State) (i : Instr) (data : LaneAcc → List Nat) : (allGo s as pas).holdPlain t x i data = t := rfl
@[simp] theorem awaits_nil (code : Nat) : x.awaits code [] = [] := rfl

/-- The request slots of accesses that are all performed (R207). -/
@[simp] theorem slots_allGo : (allGo s as pas).slots core = s.toks core as := by
  simp only [Phase.slots, allGo_s, allGo_go, List.map_map, Function.comp_def, List.map_id']

/-- Nothing is written in part of a retired block (R224). -/
theorem partialFault_none (h : Writable s as pas) : partialFault x s (as.map (fun a => (a, pas a.lane))) = none := by
  have hnone : (as.map (fun a => (a, pas a.lane))).filterMap (fun d => (s.partVa d.1.va d.2).map (fun v => (d.1.lane, v))) = [] :=
    filterMap_none (List.forall_mem_map.mpr fun a ha => by rw [h a ha, Option.map_none])
  simp only [partialFault, hnone, ite_self]

/-- The updates of accesses that are all deferred: each is sent, and the accesses keep their request slots until they are acknowledged
(R207, R265). -/
theorem deferAll_allGo (i : Instr) (u : LaneAcc → Update) :
    s.deferAll x i (allGo s as pas) u = (s.defer x (as.map u)).keepSlots x.w.core x.wid (s.toks x.w.core as) := by
  have hlanes : x.lanes.filter (fun l => !([] : List Nat).contains l) = x.lanes := List.filter_eq_self.mpr fun _ _ => rfl
  simp only [State.deferAll, slots_allGo, holdPlain_allGo, allGo_stay, allGo_go, hlanes, List.map_map, Function.comp_def]

/-- The first part of accesses that nothing stands in the way of (R226). -/
theorem Reaches.phase_allGo {acc : Acc} {place : Ctx → LaneAcc → Bool} (hr : Reaches x s as acc place pas c) :
    s.phase x as acc place = .ok (allGo s as pas) := hr.phase

/-- The global half of a store of which no access is stopped writes lane by lane (R453, R487). -/
theorem storeGlobal_reaches {place : Ctx → LaneAcc → Bool} (hr : Reaches x s as .write place pas c) (hw : Writable s as pas) (i : Instr)
    (code : RegCode) (k : Nat) (after : State → LaneAcc → List Byte → State) :
    storeGlobal i code k place after x as s = .go ((as.foldl (fun s a =>
      after (s.laneWrite x.wid a.va (pas a.lane) (storeData x a.lane code k)) a (storeData x a.lane code k)) s).noteStores x
        (allGo s as pas)) [] := by
  simp only [storeGlobal, hr.phase_allGo, allGo_s, allGo_stay, allGo_go, partialFault_none hw, holdPlain_allGo, List.foldl_map]

end

/-! ### `ATOM` and `CAS` -/

section
variable {f : FmtM} {x : Iss} {s : State} {c : Ctx} {pas : Nat → List (Nat × Nat)} {i : Instr} {imm : Bool}
  {new : Nat → Nat → Option Nat} {deferred : Option (Nat → Update)} {operands : Nat → List Nat}

/-- The accesses of an atomic of format M (R382). -/
def atomicAccs (f : FmtM) (imm : Bool) (x : Iss) : List LaneAcc := x.accs (fun l => baseAddr x l f (!imm)) (2 ^ f.wd.toNat)

/-- They are aligned (R61). -/
def atomicAligned (f : FmtM) (imm : Bool) (x : Iss) : Prop := ∀ l ∈ x.lanes, baseAddr x l f (!imm) % 2 ^ f.wd.toNat = 0

/-- Every space but the team's scratch is global memory to an atomic (R382). -/
theorem not_scratch (hsp : f.sp ≠ 1) : ¬ (f.sp.toNat == 1) = true := by simpa [← BitVec.toNat_inj] using hsp

/-- An atomic of global memory at D0 is performed lane by lane, and delivers the old values (R263, R383). -/
theorem semAtomic_global (hat : AtOnce x s f.ds.toNat) (hsp : f.sp ≠ 1) (halign : atomicAligned f imm x)
    (hr : Reaches x s (atomicAccs f imm x) .write (fun c a => c.needsMcst a.va a.n) pas c) (hread : Readable s (atomicAccs f imm x) pas)
    (hlevel : s.levelOf x.wid.team.grid = 0) :
    let r := s.rmwLanes x.wid new ((atomicAccs f imm x).map (fun a => (a, pas a.lane)))
    semAtomic i f imm new deferred operands x s =
      .go (r.2.deliver x.wid .atomic f.ds.toNat r.1 (s.toks x.w.core (atomicAccs f imm x))) [] := by
  intro r
  have hd0 : ¬ s.levelOf x.wid.team.grid ≥ 1 := by omega
  have hphase := hr.phase_allGo
  have hsound := readable_none (x := x) hread
  unfold atomicAccs at hphase hsound
  rw [semAtomic, orAnswer_atOnce hat]
  simp only [map_lanes_accs, misaligned_accs halign, if_neg (not_scratch hsp), hphase, if_neg hd0, allGo_s, allGo_go, allGo_stay, allGo_held, hsound,
    dataCheckTo, slots_allGo, holdAll_allGo, awaits_nil, List.append_nil]
  rfl

/-- An atomic of scratch at D0, within it and over no uncorrectable error, is performed lane by lane (R206, R223, R263, R383). -/
theorem semAtomic_scratch {t : Team} (hat : AtOnce x s f.ds.toNat) (hsp : f.sp = 1) (halign : atomicAligned f imm x)
    (hin : ∀ l ∈ x.lanes, baseAddr x l f (!imm) + 2 ^ f.wd.toNat ≤ s.scratchSize x.wid) (hlevel : s.levelOf x.wid.team.grid = 0)
    (ht : s.team? x.wid.team = some t) (hpool : poolCheck x t 1 (atomicAccs f imm x) = none) :
    let r := t.rmwLanes new (atomicAccs f imm x)
    semAtomic i f imm new deferred operands x s =
      .go ((s.updTeam x.wid.team (fun _ => r.2)).deliver x.wid .atomic f.ds.toNat r.1) [] := by
  intro r
  have hspace : (f.sp.toNat == 1) = true := by rw [hsp]; rfl
  have hd0 : ¬ s.levelOf x.wid.team.grid ≥ 1 := by omega
  unfold atomicAccs at hpool
  rw [semAtomic, orAnswer_atOnce hat]
  simp only [map_lanes_accs, misaligned_accs halign, if_pos hspace, beyond_accs hin, if_neg hd0, ht, hpool]
  rfl

/-- An atomic of global memory at D1 and above that has a deferred form is deferred (R265, R384). -/
theorem semAtomic_deferred {u : Nat → Update} (hat : AtOnce x s f.ds.toNat) (hsp : f.sp ≠ 1) (halign : atomicAligned f imm x)
    (hr : Reaches x s (atomicAccs f imm x) .write (fun c a => c.needsMcst a.va a.n) pas c) (hlevel : s.levelOf x.wid.team.grid ≥ 1) :
    semAtomic i f imm new (some u) operands x s = .go ((s.defer x (x.lanes.map (fun l =>
      { u l with va := baseAddr x l f (!imm) }))).keepSlots x.w.core x.wid (s.toks x.w.core (atomicAccs f imm x))) [] := by
  have hphase := hr.phase_allGo
  unfold atomicAccs at hphase
  rw [semAtomic, orAnswer_atOnce hat]
  simp only [map_lanes_accs, misaligned_accs halign, if_neg (not_scratch hsp), hphase, if_pos hlevel, allGo_s, allGo_stay, deferAll_allGo, map_accs]
  rfl

/-- `ATOM` without a destination is deferred at D1 and above where its operation has a deferred form (R265, R384). -/
theorem semAtom_deferred (hds : f.ds.toNat = 511) (hop : f.rd.toNat ≤ 6) (hsp : f.sp ≠ 1) (hnone : noneHeld x)
    (halign : atomicAligned f (f.ai.toNat == 511) x)
    (hr : Reaches x s (atomicAccs f (f.ai.toNat == 511) x) .write (fun c a => c.needsMcst a.va a.n) pas c)
    (hlevel : s.levelOf x.wid.team.grid ≥ 1) :
    let w := 8 * 2 ^ f.wd.toNat
    semAtom f x s = .go ((s.defer x (x.lanes.map (fun l =>
      x.deferred l (baseAddr x l f (!(f.ai.toNat == 511))) f.rd.toNat w (atomVal x l f w) f.rep))).keepSlots
        x.w.core x.wid (s.toks x.w.core (atomicAccs f (f.ai.toNat == 511) x))) [] := by
  intro w
  have hat : AtOnce x s f.ds.toNat := ⟨hnone, fun _ hlt => by omega⟩
  have hform : (f.ds.toNat == 511 && decide (f.rd.toNat ≤ 6)) = true := by simp [hds, hop]
  simp only [semAtom, if_pos hform]
  exact semAtomic_deferred hat hsp halign hr hlevel

/-- What `CAS` writes over an old value in a lane: nothing where that is not the value compared with (R382). -/
def casNew (f : FmtM) (x : Iss) (l old : Nat) : Option Nat :=
  let w := 8 * 2 ^ f.wd.toNat
  if old = x.rd l f.ds (w / 32) % 2 ^ w then some (atomVal x l f w) else none

/-- `CAS` is an atomic that no level defers (R382, R384). -/
theorem semCas_eq : semCas f x s = semAtomic (.cas f) f false (casNew f x) none (fun l =>
    [atomVal x l f (8 * 2 ^ f.wd.toNat), x.rd l f.ds (8 * 2 ^ f.wd.toNat / 32) % 2 ^ (8 * 2 ^ f.wd.toNat)]) x s := rfl

end

/-! ### `FACC` -/

section
variable {f : FmtX} {x : Iss} {s : State} {c : Ctx} {pas : Nat → List (Nat × Nat)} {core : Nat}

/-- The records that a `FACC` names (R417). -/
def faccAccs (f : FmtX) (x : Iss) : List LaneAcc := x.accs (fun l => x.rd l f.a 2) 8

/-- They are there, aligned, and nothing stands in the way of their accesses (R61, R417). -/
structure FaccReady (f : FmtX) (x : Iss) (s : State) (core : Nat) (pas : Nat → List (Nat × Nat)) (c : Ctx) : Prop where
  place : s.target x f true true = some core
  align : ∀ l ∈ x.lanes, x.rd l f.a 2 % 8 = 0
  null : ∀ l ∈ x.lanes, x.rd l f.a 2 ≠ 0
  reach : Reaches x s (faccAccs f x) .write (fun c a => c.needsMcst a.va a.n) pas c

/-- No record of a ready `FACC` is at VA 0. -/
theorem FaccReady.nonNull (H : FaccReady f x s core pas c) : (faccAccs f x).any (fun a => a.va == 0) = false :=
  any_false (List.forall_mem_map.mpr fun l hl => beq_false_of_ne (H.null l hl))

/-- A ready `FACC` at D0 accumulates lane by lane (R160, R263, R418). -/
theorem semFacc_performed (H : FaccReady f x s core pas c) (hread : Readable s (faccAccs f x) pas) (hlevel : s.levelOf x.wid.team.grid = 0) :
    semFacc f x s = .go ((s.rmwLanes x.wid (fun l old => some (faccNew old (x.rd l f.b 1 % 2 ^ 32)))
      ((faccAccs f x).map (fun a => (a, pas a.lane)))).2.keepSlots x.w.core x.wid (s.toks x.w.core (faccAccs f x))) [] := by
  have hd0 : ¬ s.levelOf x.wid.team.grid ≥ 1 := by omega
  have hphase := H.reach.phase_allGo
  have hnull := H.nonNull
  have hsound := readable_none (x := x) hread
  unfold faccAccs at hphase hnull hsound
  simp only [semFacc, H.place, map_lanes_accs, hnull, misaligned_accs H.align, hphase, if_neg hd0, allGo_s, allGo_go, allGo_stay, hsound,
    dataCheck, dataCheckTo, slots_allGo, holdPlain_allGo, Bool.false_eq_true, if_false]
  rfl

/-- A ready `FACC` at D1 and above is deferred (R265, R418). -/
theorem semFacc_deferred (H : FaccReady f x s core pas c) (hlevel : s.levelOf x.wid.team.grid ≥ 1) :
    semFacc f x s = .go ((s.defer x (x.lanes.map (fun l => x.deferred l (x.rd l f.a 2) 16 64 (x.rd l f.b 1 % 2 ^ 32) false))).keepSlots
      x.w.core x.wid (s.toks x.w.core (faccAccs f x))) [] := by
  have hphase := H.reach.phase_allGo
  have hnull := H.nonNull
  unfold faccAccs at hphase hnull
  simp only [semFacc, H.place, map_lanes_accs, hnull, misaligned_accs H.align, hphase, if_pos hlevel, allGo_s, allGo_stay, deferAll_allGo,
    map_accs, Bool.false_eq_true, if_false]
  rfl

end

/-! ### `MCST` -/

/-- `MCST` of aligned accesses with nothing in their way writes as `ST` does, and each lane sends its bytes on (R452, R453). -/
theorem semMcst_writes {f : FmtM} {x : Iss} {s : State} {c : Ctx} {pas : Nat → List (Nat × Nat)}
    (halign : ∀ l ∈ x.lanes, effAddr x l f % 2 ^ f.wd.toNat = 0)
    (hr : Reaches x s (x.accs (effAddr x · f) (2 ^ f.wd.toNat)) .write
      (fun c a => !c.needsMcst a.va a.n && (c.converting a.va a.n).isNone) pas c)
    (hw : Writable s (x.accs (effAddr x · f) (2 ^ f.wd.toNat)) pas) :
    semMcst f x s = .go ((x.lanes.foldl (fun s l =>
      (s.laneWrite x.wid (effAddr x l f) (pas l) (storeData x l f.ds (2 ^ f.wd.toNat))).mcstBy x.wid
        { lane := l, va := effAddr x l f, n := 2 ^ f.wd.toNat } (storeData x l f.ds (2 ^ f.wd.toNat))) s).noteStores x
      (allGo s (x.accs (effAddr x · f) (2 ^ f.wd.toNat)) pas)) [] := by
  simp only [semMcst, map_lanes_accs, misaligned_accs halign, storeGlobal_reaches hr hw]
  rw [Iss.accs, List.foldl_map]

/-! ### The obligation -/

/-- Settles O42: the atomics by space and level, `FACC` by level, and `MCST`. -/
theorem atomicsPerform : Obligations.AtomicsPerform := by
  unfold Obligations.AtomicsPerform
  intro f g s x c pas core n w op immForm va vb vc ve new swap level lands free done inScratch key
  refine ⟨?atom, ?cas, ?atomScratch, ?casScratch, ?atomDeferred, ?facc, ?mcst⟩
  case atom =>
    rintro ⟨H, hat⟩ hsp ⟨hr, -, halign⟩ hread hlevel
    exact issue_go (semAtom f) H (semAtomic_global hat hsp halign hr hread hlevel)
  case cas =>
    rintro ⟨H, hat⟩ hsp ⟨hr, -, halign⟩ hread hlevel
    exact issue_go (semCas f) H (semCas_eq.trans (semAtomic_global hat hsp halign hr hread hlevel))
  case atomScratch =>
    rintro ⟨H, hat⟩ hsp hlevel hin t ht hpool
    exact issue_go (semAtom f) H
      (semAtomic_scratch hat hsp (fun l hl => (hin l hl).1) (fun l hl => (hin l hl).2) hlevel ht hpool)
  case casScratch =>
    rintro ⟨H, hat⟩ hsp hlevel hin t ht hpool
    exact issue_go (semCas f) H
      (semCas_eq.trans (semAtomic_scratch hat hsp (fun l hl => (hin l hl).1) (fun l hl => (hin l hl).2) hlevel ht hpool))
  case atomDeferred =>
    rintro H hsp ⟨hr, hnone, halign⟩ hlevel hds hop
    exact issue_go (semAtom f) H (semAtom_deferred hds hop hsp hnone halign hr hlevel)
  case facc =>
    rintro H hplace ⟨hr, -, halign⟩ hnull
    have hready : FaccReady g x s core pas c := ⟨hplace, halign, hnull, hr⟩
    exact ⟨fun hlevel hread => issue_go (semFacc g) H (semFacc_performed hready hread hlevel),
      fun hlevel => issue_go (semFacc g) H (semFacc_deferred hready hlevel)⟩
  case mcst =>
    exact fun H hr hw halign => issue_go (semMcst f) H (semMcst_writes halign hr hw)

end Sys2Proof.Machine
end

section
/-!
SUPPORT. Transfers that pass the checks of R399: they wait at issue, and the copy engine accepts the first that waits (R257, R398, R399,
R430, R475).
-/
namespace Sys2Proof.Machine

/-- The operands of a transfer and which of the four it is, as the copy engine holds it. -/
def transferOfInstr : Instr → Option (FmtX × Nat)
  | .copy f => some (f, 0)
  | .gath f => some (f, 1)
  | .scat f => some (f, 2)
  | .scatAdd f => some (f, 3)
  | _ => none

section
variable {i : Instr} {h : Hdr} {f : FmtX} {op : Nat} {x : Iss} {s : State} {r : Waiting} {core d e : Nat}

/-- A transfer issues its hand-over to the copy engine (R398, R430, R475). -/
theorem exec_transfer (hi : transferOfInstr i = some (f, op)) : exec i s = issue i f.h (semTransfer i f op) s := by
  unfold transferOfInstr at hi
  split at hi <;> cases hi <;> rfl

/-- The first transfer that waits for a core's copy engine takes its issue up again (R399). -/
theorem acceptTransfer_first (hi : transferOfInstr r.instr = some (f, op))
    (hfirst : s.waiting.find? (fun q => q.core == core && isTransfer q.instr && s.waitsAtIssue q) = some r) :
    acceptTransfer core s = s.reissue r f.h (semTransfer r.instr f op) := by
  unfold acceptTransfer
  dsimp only
  split
  next hnone => exact absurd (hfirst.symm.trans hnone) (by simp)
  next r' hsome =>
    obtain rfl : r = r' := Option.some.inj (hfirst.symm.trans hsome)
    unfold transferOfInstr at hi
    split at hi <;> cases hi
    all_goals next hinstr => simp only [hinstr]

/-- An instruction that is to wait at issue for work of its own is offered to the unit of a core (R399). -/
theorem issue_offers (body : Iss → State → Res) (H : Issues i h s x) (hold : x.w.hold = none) (hb : body x s = holdAt x i core s) :
    issue i h body s = .next (offered x s i core) := by
  rw [issue_clear body H, hb, holdAt, hold]
  rfl

/-- A transfer that passes the checks waits at issue, and is accepted once its wave is held on it (R30, R257, R399). -/
theorem semTransfer_ready (T : TransferReady f op x s core d e) (i : Instr) :
    semTransfer i f op x s = if x.w.hold.isNone then holdAt x i core s else .go (accepted f op x core d e (dropHeld x.w s)) [] := by
  obtain ⟨hsame, hplace, ⟨dnull, dalign, dload⟩, ⟨enull, ealign, eload⟩, ⟨onull, oalign⟩, hok⟩ := T
  have hnull : ¬ (x.uval f.a 2 == 0 || x.uval f.b 2 == 0 || x.uval f.d 2 == 0) = true := by simp [dnull, enull, onull]
  simp only [semTransfer, hsame, hplace, if_neg hnull, dalign, ealign, oalign, dload, eload, beq_iff_eq, hok, bne_self_eq_false,
    Bool.false_eq_true, if_false]
  cases hold : x.w.hold with
  | none => rfl
  | some q =>
    simp only [accepted, dropHeld, hold, Bool.and_eq_true, beq_iff_eq, decide_eq_true_eq, Option.isNone_some, Bool.false_eq_true, if_false]
    rfl

/-- A transfer that passes the checks and that its wave waits for is accepted (R399). -/
theorem semTransfer_accepted (T : TransferReady f op x s core d e) {q : Hold} (hold : x.w.hold = some q) (i : Instr) :
    semTransfer i f op x s = .go (accepted f op x core d e (dropHeld x.w s)) [] := by
  rw [semTransfer_ready T, hold]
  rfl

/-- The wave of an offer that is taken up waits for that offer. -/
theorem Resumes.dropHeld_eq (R : Resumes i h s r x) : dropHeld x.w s = s.dropWork r.id := by
  obtain ⟨k, hold, hwork⟩ := R.hold
  simp only [dropHeld, hold, hwork]

/-- A transfer that passes the checks is offered to the copy engine of its target (R257, R399). -/
theorem exec_transfer_offered (hi : transferOfInstr i = some (f, op)) (T : TransferReady f op x s core d e) (H : Issues i f.h s x)
    (hold : x.w.hold = none) : exec i s = .next (offered x s i core) := by
  have hready : semTransfer i f op x s = holdAt x i core s := by
    rw [semTransfer_ready T, hold]
    rfl
  rw [exec_transfer hi, issue_offers (semTransfer i f op) H hold hready]

/-- A transfer whose wave is held at issue already is accepted (R399). -/
theorem exec_transfer_accepted (hi : transferOfInstr i = some (f, op)) (T : TransferReady f op x s core d e) (q : Hold) (H : Issues i f.h s x)
    (hold : x.w.hold = some q) : exec i s = .next (wentOn x s (accepted f op x core d e (dropHeld x.w s)) []) := by
  rw [exec_transfer hi, issue_go (semTransfer i f op) H (semTransfer_accepted T hold i)]

/-- `TRANSFER_ACCEPTANCE` accepts the first transfer that waits for the engine (R257, R399). -/
theorem exec_transferAcceptance (hi : transferOfInstr i = some (f, op)) (T : TransferReady f op x s core d e) (R : Resumes i f.h s r x)
    (hfirst : s.waiting.find? (fun q => q.core == core && isTransfer q.instr && s.waitsAtIssue q) = some r) :
    exec (.transferAcceptance core) s = .next (wentOn x s (accepted f op x core d e (s.dropWork r.id)) []) := by
  obtain ⟨k, hold, -⟩ := R.hold
  have haccept : acceptTransfer core s = finish x s (.go (accepted f op x core d e (s.dropWork r.id)) []) := by
    rw [acceptTransfer_first (R.instr.symm ▸ hi) hfirst, R.instr, reissue_resumes R, semTransfer_accepted T hold, R.dropHeld_eq]
  exact commit_eq haccept

end

/-- Settles O45: the same three clauses for each of the four transfers. -/
theorem transfersAccepted : Obligations.TransfersAccepted := by
  unfold Obligations.TransfersAccepted
  intro f s x r core d e does
  have each : ∀ i op, transferOfInstr i = some (f, op) → does i op := fun i op hi T =>
    ⟨exec_transfer_offered hi T, exec_transfer_accepted hi T, exec_transferAcceptance hi T⟩
  exact ⟨each _ _ rfl, each _ _ rfl, each _ _ rfl, each _ _ rfl⟩

end Sys2Proof.Machine
end

section
/-!
SUPPORT. Work that a team hands over and does not wait for: collectives, signals and graph nodes of a team that is not redundant, offered
to a core that their place fields reach (R276, R307, R396, R397, R401, R402, R458, R459).
-/
namespace Sys2Proof.Machine

section
variable {f : FmtX} {x : Iss} {s s' : State} {t : Team} {c : Ctx} {core w d e : Nat}

/-- A team that is not redundant performs a shared effect with the group that issues it (R301). -/
theorem performer_alone (h : alone x s t) : s.performer x = x := by
  obtain ⟨ht, hr⟩ := h
  unfold State.performer
  rw [ht]
  cases s.wave? (twinOf x.wid) with
  | none => rfl
  | some wb => simp only [hr, Bool.not_false, Bool.true_or, if_true]

/-! ### `COLL` -/

/-- The block of a `COLL`, its descriptors and its completion object pass the checks of R307, R396 and R397. -/
structure CollReady (f : FmtX) (x : Iss) (s : State) (c : Ctx) (w d e : Nat) : Prop where
  same : x.uniformFaults [(f.a, 2), (f.b, 2)] = none
  block : x.uval f.a 2 ≠ 0 ∧ x.uval f.a 2 % 32 = 0 ∧ s.uload x (x.uval f.a 2) 32 = .ok w
  obj : x.uval f.b 2 ≠ 0 ∧ x.uval f.b 2 % 8 = 0
  fields : cblockBad c w = false
  dst : (cblockOf w).dst ≠ 0 ∧ s.uload x (cblockOf w).dst 64 = .ok d
  src : (cblockOf w).src ≠ 0 ∧ s.uload x (cblockOf w).src 64 = .ok e
  ok : collFault c (x.uval f.a 2) (cblockOf w) (BitVec.ofNat 512 d) (BitVec.ofNat 512 e) = none

/-- A ready `COLL` is accepted by the collective engine of the die that serves its target core, and its team owes its end (R307, R397). -/
theorem semColl_accepted (hctx : s.ctx? (asidOf x.wid) = some c) (hplace : s.target x f true false = some core) (hal : alone x s t)
    (C : CollReady f x s c w d e) :
    semColl f x s = .go ((s.startColl c (dieOfCore core) (.wave x.wid) w (x.uval f.a 2) (BitVec.ofNat 512 d) (BitVec.ofNat 512 e)
      (x.uval f.b 2)).owe x.wid.team true) [] := by
  obtain ⟨hsame, ⟨anull, aalign, aload⟩, ⟨onull, oalign⟩, hfields, ⟨dnull, dload⟩, ⟨snull, sload⟩, hok⟩ := C
  have hnull : ¬ (x.uval f.a 2 == 0 || x.uval f.b 2 == 0) = true := by simp [anull, onull]
  have hhandles : ¬ ((cblockOf w).src == 0 || (cblockOf w).dst == 0) = true := by simp [snull, dnull]
  simp only [semColl, hsame, performer_alone hal, hplace, if_neg hnull, aalign, oalign, hctx, aload, hfields, if_neg hhandles, dload, sload,
    hok, together_alone hal, bne_self_eq_false, Bool.false_eq_true, if_false]

/-! ### `CSIG` and `CSIG.NODE` -/

/-- `CSIG` of an object that is there and aligned leaves its signal with the copy engine (R401, R402). -/
theorem semCsig_pends (hplace : s.target x f true false = some core) (hnull : x.uval f.d 2 ≠ 0) (halign : x.uval f.d 2 % 8 = 0) :
    semCsig f x s = pendCsig x core (x.uval f.d 2) (if f.a.toNat = 511 then 1 else BitVec.ofNat 64 (x.uval f.a 2)) none s := by
  simp only [semCsig, hplace, beq_iff_eq, if_neg hnull, halign, bne_self_eq_false, Bool.false_eq_true, if_false]

/-- `CSIG.NODE` leaves its decrement with the copy engine (R401, R402). -/
theorem semCsigNode_pends (hplace : s.target x f true false = some core) :
    semCsigNode f x s = pendCsig x core 0 0 (some f.imm8.toNat) s := by
  simp only [semCsigNode, hplace]

/-! ### `NODE` -/

/-- `NODE` of a descriptor that is read enters it in its slot, where the table of its target core takes it (R276, R458, R459). -/
theorem semNode_enters (hplace : s.target x f true false = some core) (hal : alone x s t) (hsame : x.uniformFault f.a 2 = none)
    (hnull : x.uval f.a 2 ≠ 0) (halign : x.uval f.a 2 % 64 = 0) (hload : s.uload x (x.uval f.a 2) 64 = .ok w)
    (henter : s.enterNode core f.imm8.toNat (asidOf x.wid) (BitVec.ofNat 512 w) = some s') : semNode f x s = .go s' [] := by
  simp only [semNode, hsame, performer_alone hal, hplace, beq_iff_eq, if_neg hnull, halign, hload, together_alone hal, henter,
    bne_self_eq_false, Bool.false_eq_true, if_false]

end

/-- Settles O46: each instruction hands its work over once its checks have passed. -/
theorem workHandedOver : Obligations.WorkHandedOver := by
  unfold Obligations.WorkHandedOver
  intro f s s' x t c core w d e a b obj k signal hctx hplace hal
  refine ⟨?coll, ?csig, ?csigNode, ?node⟩
  case coll =>
    intro H hsame anull aalign onull oalign aload hfields snull dnull dload sload hok
    exact issue_go (semColl f) H (semColl_accepted hctx hplace hal
      ⟨hsame, ⟨anull, aalign, aload⟩, ⟨onull, oalign⟩, hfields, ⟨dnull, dload⟩, ⟨snull, sload⟩, hok⟩)
  case csig =>
    exact fun H hnull halign => issue_go (semCsig f) H (semCsig_pends hplace hnull halign)
  case csigNode =>
    exact fun H => issue_go (semCsigNode f) H (semCsigNode_pends hplace)
  case node =>
    exact fun H hsame hnull halign hload henter => issue_go (semNode f) H (semNode_enters hplace hal hsame hnull halign hload henter)

end Sys2Proof.Machine
end

section
/-!
SUPPORT. The decision queue (R301, R409 to R413), and the system instructions that raise a cause, return from a handler, merge, or tell how
a generator's block ends (R296, R343, R391, R415, R432, R455, R473, R494).
-/
namespace Sys2Proof.Machine

section
variable {f : FmtR} {x : Iss} {s s' : State} {t u : Team} {wb : Wave} {e : Decision} {r : Req} {g : Fill} {d k : Nat} {v : DWord}

/-! ### `DECP` -/

/-- One wave's turn at a published value: its oldest claim takes the value, and the mask then names the wave no longer (R411). -/
def offerTo (tid : TeamId) (v : DWord) (p : LaneMask × State) (k : Nat) : LaneMask × State :=
  let r := p.2.giveDecision { team := tid, wave := k } v
  (if r.1 then p.1 &&& ~~~(1#32 <<< k) else p.1, r.2)

/-- A published value before all waves that it is for: the waves that have still to claim it, and the state (R410, R411). -/
def State.publish (s : State) (tid : TeamId) (v : DWord) (live : LaneMask) : LaneMask × State :=
  (wavesIn live.toNat).foldl (offerTo tid v) (live, s)

/-- The queue with one more entry, for the waves in `left` (R410). -/
def State.appendDecision (s : State) (tid : TeamId) (v : DWord) (left : LaneMask) : State :=
  s.updTeam tid (fun t => { t with
    decisions := t.decisions ++ [{ seq := t.decNext, value := v, mask := left }]
    decNext := t.decNext + 1 })

/-- The waves that a `DECP` names. -/
def decpMask (f : FmtR) (x : Iss) (t : Team) : Nat := x.optS f.b (2 ^ t.nwaves - 1) % 2 ^ 32

/-- The named waves that have not retired. -/
def decpLive (f : FmtR) (x : Iss) (t : Team) : LaneMask := BitVec.ofNat 32 (decpMask f x t) &&& ~~~t.gone

/-- The published value. -/
def decpValue (f : FmtR) (x : Iss) : DWord := BitVec.ofNat 64 (x.rd x.first f.a 2)

/-- `DECP` with room in the queue and a mask that names waves of the team (R409, R410). -/
theorem semDecp_completes (hl : x.w.tlevel = 0) (ht : s.team? x.wid.team = some t) (hroom : t.decisions.length < 64)
    (hnone : decpMask f x t ≠ 0) (hmask : decpMask f x t < 2 ^ t.nwaves) :
    semDecp f x s = .go (if s.secondCopy t then s
      else
        let p := s.publish t.id (decpValue f x) (decpLive f x t)
        if p.1 = 0 then p.2 else p.2.appendDecision t.id (decpValue f x) p.1) [] := by
  have hfull : ¬ t.decisions.length ≥ 64 := by omega
  have hnamed : ¬ (decpMask f x t == 0 || decide (decpMask f x t ≥ 2 ^ t.nwaves)) = true := by simp [hnone, hmask]
  rw [semDecp, outsideHandler_zero hl]
  simp only [ht, if_neg hfull]
  refine (if_neg hnamed).trans ?_
  cases s.secondCopy t with
  | true => rfl
  | false =>
    simp only [Bool.false_eq_true, if_false, beq_iff_eq]
    rfl

/-- Where no wave of the team waits for a value, all that it is for have still to claim it. -/
theorem publish_unclaimed {tid : TeamId} (hclaims : ∀ k, s.oldestClaim { team := tid, wave := k } = none) (v : DWord) (live : LaneMask) :
    s.publish tid v live = (live, s) := by
  have hturn : ∀ k, offerTo tid v (live, s) k = (live, s) := fun k => by
    simp only [offerTo, State.giveDecision, hclaims, Bool.false_eq_true, if_false]
  unfold State.publish
  induction wavesIn live.toNat with
  | nil => rfl
  | cons k ks ih => rw [List.foldl_cons, hturn, ih]

/-! ### V registers that a request will fill -/

/-- The keys of the empty registers after some more have been marked: the old ones, and those marked. -/
theorem Wave.key_mem_markEmpty (w : Wave) (l r n req key : Nat) : (∃ p ∈ (w.markEmpty l r n req).empties, p.1 = key) ↔
    (∃ p ∈ w.empties, p.1 = key) ∨ key ∈ (List.range n).map (fun i => vkey l (r + i)) := by
  constructor
  case mp =>
    rintro ⟨p, hp, rfl⟩
    obtain hold | hnew := List.mem_append.mp hp
    · exact .inl ⟨p, (List.mem_filter.mp hold).1, rfl⟩
    · obtain ⟨key, hkey, rfl⟩ := List.mem_map.mp hnew
      exact .inr hkey
  case mpr =>
    have marked : ∀ key ∈ (List.range n).map (fun i => vkey l (r + i)), ∃ p ∈ (w.markEmpty l r n req).empties, p.1 = key :=
      fun key hkey => ⟨(key, req), List.mem_append_right _ (List.mem_map_of_mem hkey), rfl⟩
    rintro (⟨p, hp, rfl⟩ | hkey)
    · by_cases hkey : p.1 ∈ (List.range n).map (fun i => vkey l (r + i))
      · exact marked _ hkey
      · exact ⟨p, List.mem_append_left _ (List.mem_filter.mpr ⟨hp, by simp [hkey]⟩), rfl⟩
    · exact marked _ hkey

/-- Some of `n` registers is empty where the key of one of them is among the empty ones. -/
theorem Wave.anyEmpty_iff (w : Wave) (l r n : Nat) : w.anyEmpty l r n = true ↔ ∃ i < n, ∃ p ∈ w.empties, p.1 = vkey l (r + i) := by
  simp [Wave.anyEmpty]

/-- Registers just marked are empty. -/
theorem Wave.anyEmpty_markEmpty_self (w : Wave) (l r req : Nat) {n : Nat} (hn : 0 < n) : (w.markEmpty l r n req).anyEmpty l r n = true :=
  (Wave.anyEmpty_iff _ _ _ _).mpr ⟨0, hn, (Wave.key_mem_markEmpty _ _ _ _ _ _).mpr
    (.inr (List.mem_map_of_mem (List.mem_range.mpr hn)))⟩

/-- Marking registers fills none. -/
theorem Wave.anyEmpty_markEmpty_of {w : Wave} {l r n : Nat} (h : w.anyEmpty l r n = true) (l' r' n' req : Nat) :
    (w.markEmpty l' r' n' req).anyEmpty l r n = true := by
  obtain ⟨i, hi, hkey⟩ := (Wave.anyEmpty_iff _ _ _ _).mp h
  exact (Wave.anyEmpty_iff _ _ _ _).mpr ⟨i, hi, (Wave.key_mem_markEmpty _ _ _ _ _ _).mpr (.inl hkey)⟩

/-- Marking registers in several lanes leaves them empty in each. -/
theorem Wave.anyEmpty_markAll (ls : List Nat) {r n req : Nat} (hn : 0 < n) {l : Nat} (w : Wave) (h : l ∈ ls ∨ w.anyEmpty l r n = true) :
    (ls.foldl (fun w l => w.markEmpty l r n req) w).anyEmpty l r n = true := by
  induction ls generalizing w with
  | nil => simpa using h
  | cons a as ih =>
    refine ih _ ?_
    obtain hmem | hempty := h
    · obtain rfl | has := List.mem_cons.mp hmem
      · exact .inr (Wave.anyEmpty_markEmpty_self w l r req hn)
      · exact .inl has
    · exact .inr (Wave.anyEmpty_markEmpty_of hempty a r n req)

/-- Marking registers changes nothing else in a wave. -/
theorem Wave.markAll_eq (ls : List Nat) (r n req : Nat) (w : Wave) : ls.foldl (fun w l => w.markEmpty l r n req) w =
    { w with empties := (ls.foldl (fun w l => w.markEmpty l r n req) w).empties
             failed := (ls.foldl (fun w l => w.markEmpty l r n req) w).failed } := by
  induction ls generalizing w with
  | nil => rfl
  | cons a as ih => rw [List.foldl_cons, ih]; rfl

/-- A wave that goes on is the same but for its threads and for what it holds at issue. -/
theorem Wave.goOn_eq (w : Wave) (ls : List Nat) (pc : DWord) :
    w.goOn ls pc = { w with threads := (w.goOn ls pc).threads, hold := none } := by
  unfold Wave.goOn
  rw [Wave.updThreads_eq]

/-! ### Claims -/

/-- The state with entry `e` claimed: it names the wave no longer, entries that name no wave are gone, and the lanes have its value
(R411, R55). -/
def tookEntry (d : Nat) (x : Iss) (t : Team) (e : Decision) (s : State) : State :=
  (s.updTeam t.id (fun t => ({ t with decisions := t.decisions.map (fun (g : Decision) =>
    if g.seq = e.seq then { g with mask := g.mask &&& ~~~(1#32 <<< x.wid.wave) } else g) } : Team).sweep)).putAll x d e.value.toNat

/-- The request of a claim on a pair of V registers that has no entry yet (R412). -/
def claimReq (d : Nat) (x : Iss) (s : State) : Req :=
  { id := s.nextId, wave := x.wid, core := x.w.core, bay := x.w.bay, slots := [], carry := Carry.none, kind := .decision x.w.decPos,
    fills := x.lanes.flatMap (fun l => [{ lane := l, code := d, val := 0 }, { lane := l, code := d + 1, val := 0 : Fill }]) }

/-- The issuing wave after such a claim: one more claim made, its pairs empty (R412). -/
def claimWave (d : Nat) (x : Iss) (s : State) (w : Wave) : Wave :=
  x.lanes.foldl (fun w l => w.markEmpty l d 2 s.nextId) { w with decPos := x.w.decPos + 1 }

/-- The state after such a claim (R412). -/
def claimWaits (d : Nat) (x : Iss) (s : State) : State :=
  ({ ({ s with nextId := s.nextId + 1 } : State).updWave x.wid (fun w => { w with decPos := x.w.decPos + 1 }) with
    reqs := s.reqs ++ [claimReq d x s] } : State).updWave x.wid (fun w => x.lanes.foldl (fun w l => w.markEmpty l d 2 s.nextId) w)

/-- A claim takes the oldest entry that names its wave, where no claim of the wave waits before it (R411). -/
theorem claimEntry_takes (ht : s.team? x.wid.team = some t) (hfirst : s.oldestClaim x.wid = none)
    (hmine : t.decisions.find? (fun d => d.mask.getLsbD x.wid.wave) = some e) : claimEntry d x s = .go (tookEntry d x t e s) [] := by
  simp only [claimEntry, ht, hfirst, Option.isSome_none, Bool.false_eq_true, if_false, hmine]
  rfl

/-- A claim on V registers waits where there is no entry for it or earlier claims of its wave wait (R412). -/
theorem claimEntry_waits (ht : s.team? x.wid.team = some t)
    (hwait : s.oldestClaim x.wid ≠ none ∨ t.decisions.find? (fun d => d.mask.getLsbD x.wid.wave) = none)
    (hlead : t.leadEnded = false) (hv : d < 320) : claimEntry d x s = .go (claimWaits d x s) [] := by
  have hentry : (if (s.oldestClaim x.wid).isSome then none else t.decisions.find? (fun d => d.mask.getLsbD x.wid.wave)) = none := by
    obtain hclaim | hmine := hwait
    · rw [if_pos (Option.isSome_iff_ne_none.mpr hclaim)]
    · exact ite_eq_left_iff.mpr (fun _ => hmine)
  simp only [claimEntry, ht, hentry, hlead, hv, Bool.false_eq_true, if_false, if_true]
  rfl

/-- The issuing wave after a claim that waits, the group having gone on. -/
theorem wave?_claimWaits (hw : s.wave? x.wid = some x.w) : (wentOn x s (claimWaits d x s) []).wave? x.wid =
    some ((claimWave d x s x.w).goOn x.group x.pc) := by
  have hmark : ∀ w : Wave, (x.lanes.foldl (fun w l => w.markEmpty l d 2 s.nextId) w).id = w.id := fun w => by rw [Wave.markAll_eq]
  have hgo : ∀ w : Wave, (w.goOn x.group x.pc).id = w.id := fun w => by rw [Wave.goOn_eq]
  rw [wentOn_all]
  exact State.wave?_updWave_self _ hgo (State.wave?_updWave_self _ hmark (State.wave?_updWave_self _ (fun _ => rfl) hw))

/-- The wave after a claim that waits has made one claim more. -/
theorem claimWave_decPos (w : Wave) : ((claimWave d x s w).goOn x.group x.pc).decPos = x.w.decPos + 1 := by
  rw [Wave.goOn_eq, claimWave, Wave.markAll_eq]

/-- The pairs of a claim that waits are empty. -/
theorem claimWave_empty (w : Wave) {l : Nat} (hl : l ∈ x.lanes) : ((claimWave d x s w).goOn x.group x.pc).anyEmpty l d 2 = true := by
  rw [Wave.goOn_eq]
  exact Wave.anyEmpty_markAll x.lanes (by decide) _ (.inl hl)

/-! ### `DECT` -/

/-- The group does not wait for a decision. -/
def claimsAnew (x : Iss) : Prop := ∀ k, (x.w.thread x.first).run ≠ .blocked (.decision k)

/-- A group that does not wait for a decision repeats no claim. -/
theorem claim_none (h : claimsAnew x) : x.claim s = none := by
  unfold Iss.claim
  split
  next k hrun => exact absurd hrun (h k)
  next => rfl

/-- A `DECT` that repeats no claim, in a team with a lead thread, claims, once for both copies of a redundant team (R301, R413). -/
theorem semDect_claims (hl : x.w.tlevel = 0) (ht : s.team? x.wid.team = some t) (hfirst : claimsAnew x) (hlead : t.hasLead = true) :
    semDect f x s = together (.dect f) [] (claimEntry f.d.toNat) x s := by
  rw [semDect, outsideHandler_zero hl]
  simp only [ht, claim_none hfirst, hlead, Bool.not_true, Bool.false_eq_true, if_false]
  split
  next k hrun => exact absurd hrun (hfirst k)
  next => rfl

/-- A `DECT` that repeats no claim, in a team that has a lead thread and is not redundant (R411). -/
theorem semDect_alone (hl : x.w.tlevel = 0) (hal : alone x s t) (hfirst : claimsAnew x) (hlead : t.hasLead = true) :
    semDect f x s = claimEntry f.d.toNat x s :=
  (semDect_claims hl hal.1 hfirst hlead).trans (together_alone hal (.dect f) [] (claimEntry f.d.toNat))

/-- A team that is not redundant has no twin to go on. -/
theorem State.twinGo_alone (ht : s.team? x.wid.team = some t) (hred : t.red = false) (i : Instr) (before : Nat) :
    s.twinGo x i before = s := by
  simp only [State.twinGo, ht, hred, Bool.not_false, if_true]

/-- A `DECT` whose claim has been given its entry takes it, in a team that is not redundant (R412). -/
theorem semDect_given (hl : x.w.tlevel = 0) (hal : alone x s t) (hrun : (x.w.thread x.first).run = .blocked (.decision k))
    (hclaim : s.reqs.find? (fun r => r.wave == x.wid && r.kind == .decision k) = some r) (hgiven : r.fills.head? = some g) :
    semDect f x s = .go { s.putAll x f.d.toNat g.val.toNat with reqs := s.reqs.filter (fun q => q.id != r.id) } [] := by
  obtain ⟨ht, hred⟩ := hal
  have hmine : x.claim s = some r := by simp only [Iss.claim, hrun, hclaim]
  have hsame : ({ s.putAll x f.d.toNat g.val.toNat with reqs := s.reqs.filter (fun q => q.id != r.id) } : State).team?
      x.wid.team = some t := ht
  rw [semDect, outsideHandler_zero hl]
  simp only [ht, hmine, hgiven, State.twinGo_alone hsame hred]

/-- A redundant team's copy that reaches its twin and is on the lower core performs the effect, for both (R301). -/
theorem together_performs {i : Instr} {operands : List Nat} {act : Iss → State → Res} (ht : s.team? x.wid.team = some t)
    (hred : t.red = true) (htwin : s.wave? (twinOf x.wid) = some wb) (hu : s.team? wb.id.team = some u) (hlower : t.core ≤ wb.core)
    (hmet : u.meet.find? x.meets = some (x.meeting operands)) (hact : act x s = .go s' []) :
    together i operands act x s = .go (s'.twinGo x i s.nextId) [] := by
  have hperformer : s.performer x = x := by
    simp only [State.performer, ht, htwin, hlower, decide_true, Bool.or_true, if_true]
  simp only [together, ht, htwin, hred, hu, Option.bind_some, hmet, bne_self_eq_false, hperformer, hact, Bool.not_true, Bool.false_eq_true,
    if_false, List.isEmpty_nil, if_true]

end

/-- Settles O33: what `DECP` publishes, then the claims of `DECT` by whether an entry is there, comes later or has been given. -/
theorem decisionQueue : Obligations.DecisionQueue := by
  unfold Obligations.DecisionQueue
  intro f s x t m v live give given append put mine took first hl ht hid
  refine ⟨?publishes, ?unclaimed, ?takes, ?waits, ?given, ?both⟩
  case publishes =>
    exact fun H hroom hnone hmask => issue_go (semDecp f) H (semDecp_completes hl ht hroom hnone hmask)
  case unclaimed =>
    intro H hroom hnone hmask hcopy hlive hclaims
    refine issue_go (semDecp f) H ((semDecp_completes hl ht hroom hnone hmask).trans ?_)
    simp only [hcopy, publish_unclaimed hclaims, Bool.false_eq_true, if_false]
    exact congrArg (fun s => Res.go s []) (if_neg hlive)
  case takes =>
    intro e H hfirst hred hlead hclaim hmine
    exact issue_go (semDect f) H ((semDect_alone hl ⟨ht, hred⟩ hfirst hlead).trans (claimEntry_takes ht hclaim hmine))
  case waits =>
    intro H hfirst hred hlead hwait hended hv
    have hgo := issue_go (semDect f) H ((semDect_alone hl ⟨ht, hred⟩ hfirst hlead).trans (claimEntry_waits ht hwait hended hv))
    have hreq : claimReq f.d.toNat x s ∈ (wentOn x s (claimWaits f.d.toNat x s) []).reqs :=
      List.mem_append_right _ (List.mem_singleton_self _)
    exact ⟨_, hgo, ⟨_, hreq, rfl, rfl⟩, _, wave?_claimWaits H.wave, claimWave_decPos _, fun l hlane => claimWave_empty _ hlane⟩
  case given =>
    exact fun k r g H hrun hred hclaim hgiven => issue_go (semDect f) H (semDect_given hl ⟨ht, hred⟩ hrun hclaim hgiven)
  case both =>
    intro e u wb H hfirst hred hlead htwin hu hlower hmet hclaim hmine
    exact issue_go (semDect f) H ((semDect_claims hl ht hfirst hlead).trans
      (together_performs ht hred htwin hu hlower hmet (claimEntry_takes ht hclaim hmine)))

/-! ### System instructions -/

section
variable {f : FmtR} {x : Iss} {s : State}

/-- A precise cause in a wave that has not halted is taken as a trap (R334, R338). -/
theorem raisePrecise_running (hw : s.wave? x.wid = some x.w) (hrun : x.w.halt = .running) (cause : Nat) (mask : LaneMask) (addr : Nat) :
    s.raisePrecise x.wid cause mask addr = s.takeTrap x.wid cause false mask addr := by
  simp only [State.raisePrecise, hw, hrun]

/-- An instruction whose effect is a cause, in a wave that has not halted, is the entry of that trap. -/
theorem issue_traps {i : Instr} {h : Hdr} {cause : Nat} {mask : LaneMask} {addr : Nat} (body : Iss → State → Res) (H : Issues i h s x)
    (hrun : x.w.halt = .running) (hb : body x s = .trap cause mask addr) :
    issue i h body s = .next (drained s (s.takeTrap x.wid cause false mask addr)) := by
  rw [issue_trap body H hb, raisePrecise_running H.wave hrun]

/-- The lanes whose threads a return from the handler brings back parked at a miss that has resolved as a fault (R46, R343). -/
def backParked (w : Wave) : List Nat := w.lanes.filter (fun l =>
  match (if w.tlevel == 2 then (w.thread l).saved2 else (w.thread l).saved1) with
  | .parked _ _ (.failed _) => true
  | _ => false)

/-- `RTT` in a handler returns its wave; the threads of `backParked` are then due to re-execute (R343, R473). -/
theorem semRtt_returns (hl : x.w.tlevel ≠ 0) : semRtt x s = .jump
    ((({ s with due := s.due ++ (backParked x.w).map (fun l => Instr.parkedThreadReexecute x.wid l) } : State).returnTrap x.wid).afterEnd
      x.wid) := by
  rw [semRtt, if_neg (by simpa using hl)]
  rfl

/-- `MERGE` outside a handler, in a co-resident grid, waits at the merge point (R296, R455). -/
theorem semMerge_waits (hl : x.w.tlevel = 0) (hcor : (s.recOf x.wid).cor = true) : semMerge x s =
    .jump (((advance s x.wid (x.group.filter (fun l => !x.act.contains l)) x.pc).block x.wid x.act .merge).settle x.wid) := by
  rw [semMerge, outsideHandler_zero hl]
  simp only [hcor, Bool.not_true, Bool.false_eq_true, if_false]

/-- A record for a generator grid (R432). -/
theorem generatorRecord_noted {o : Nat × Nat} (ho : s.ownBlock x.wid.team.grid = some o) (note : Grid → Grid) :
    generatorRecord note x s = .go (s.updGrid x.wid.team.grid note) [] := by
  simp only [generatorRecord, ho]

end

/-- Settles O37: each instruction's own effect, then how an issue with that effect ends. -/
theorem systemInstructions : Obligations.SystemInstructions := by
  unfold Obligations.SystemInstructions
  refine ⟨?causes, ?returns, ?records⟩
  case causes =>
    exact fun f k s x hrun => ⟨fun H => issue_traps _ H hrun rfl, fun H => issue_traps _ H hrun rfl⟩
  case returns =>
    intro f s x back
    exact ⟨fun H hl => issue_jump semRtt H (semRtt_returns hl),
      fun H hl hcor => issue_jump semMerge H (semMerge_waits hl hcor)⟩
  case records =>
    exact fun f s x o ho => ⟨fun H => issue_go (generatorRecord _) H (generatorRecord_noted ho _),
      fun H => issue_go (generatorRecord _) H (generatorRecord_noted ho _)⟩

end Sys2Proof.Machine
end

section
/-!
SUPPORT. Reset, memory and the step: every turn answers a next state, and keeps memory in its canonical form.
-/
namespace Sys2Proof.Machine

/-! ### Reset -/

/-- Settles O4: reset's own fields. -/
theorem resetLeaves : Obligations.ResetLeaves := by
  unfold Obligations.ResetLeaves
  decide

/-- Settles O5: reset holds no byte and no store. -/
theorem resetMemoryCanonical : Obligations.ResetMemoryCanonical := ⟨rfl, rfl⟩

/-! ### Every step answers a next state and keeps memory canonical -/

/-- Draining a step's stores into a canonical memory leaves it canonical, with no store over. -/
theorem drained_memOk {s : State} (h : Memory.wf s.mem = true) (s' : State) : (drained s s').memOk :=
  ⟨cellSets_wf memDefault h _, rfl⟩

/-- What a turn of a state answers: a next state, with memory in its canonical form where it was so before. -/
def Answers (s : State) (r : Host.Outcome State Fault Refusal) : Prop := ∃ t, r = .next t ∧ (s.memOk → t.memOk)

theorem answers_commit (s s' : State) : Answers s (commit s s') := ⟨_, rfl, fun h => drained_memOk h.1 s'⟩

theorem answers_same (s : State) : Answers s (.next s) := ⟨s, rfl, id⟩

/-- A state with another's memory and stores answers as that one does. -/
theorem Answers.of_mem {s s' : State} {r : Host.Outcome State Fault Refusal} (h : Answers s' r) (hm : s'.mem = s.mem)
    (hs : s'.stores = s.stores) : Answers s r := by
  obtain ⟨t, ht, hok⟩ := h
  exact ⟨t, ht, fun ⟨a, b⟩ => hok ⟨hm ▸ a, hs.trans b⟩⟩

/-- An operation that does not stop answers. -/
theorem Commits.answers {s : State} {r : Host.Outcome State Fault Refusal} (h : Commits s r) (hf : r ≠ .fault .noIssuingGroup) :
    Answers s r := by
  rcases h with ⟨s', rfl⟩ | ⟨rfl, -⟩
  · exact answers_commit s s'
  · exact absurd rfl hf

/-- Any operation answers in a state that names an issuing group whose wave is there. -/
theorem exec_answers {i : Instr} {s : State} (h : s.issuing) : Answers s (exec i s) := by
  rcases exec_commits i s with ⟨s', hs'⟩ | ⟨-, hn⟩
  · exact hs' ▸ answers_commit s s'
  · exact absurd h hn

theorem answers_packageQuery (h : CmdHeader) (b : List DWord) (bad : Bool) (bytes : State → List Byte) (s : State) :
    Answers s (packageQuery h b bad bytes s) := by
  unfold packageQuery
  split
  · exact answers_commit _ _
  · exact answers_commit _ _

theorem answers_contextQuery (h : CmdHeader) (b : List DWord) (bad : Ctx → Bool) (go : Ctx → State → State) (s : State) :
    Answers s (contextQuery h b bad go s) := by
  unfold contextQuery
  split
  · exact answers_commit _ _
  · exact answers_commit _ _

/-- Whether no slot holds an operation and it is no fetch: a command, or an event of the machine. -/
def OwnTurn (i : Instr) : Prop := encode i = none ∧ i ≠ .lineFetch

/-- Commands and events need no issuing group. -/
theorem exec_answers_ownTurn {i : Instr} (hi : OwnTurn i) (s : State) : Answers s (exec i s) := by
  obtain ⟨he, hl⟩ := hi
  cases i with
  | lineFetch => exact absurd rfl hl
  | queryIdentity | queryErrorLog | queryCoreAssignment | queryLinkLog => exact answers_packageQuery _ _ _ _ _
  | queryBlockStates | queryGraphLog | queryContextSummary => exact answers_contextQuery _ _ _ _ _
  | _ => cases he <;> exact answers_commit _ _

theorem ownTurn_of_isEvent {i : Instr} (h : isEvent i = true) : OwnTurn i := by
  cases i with
  | lineFetch | unassignedCodePoint | ctxCreate | ctxDestroy | map | unmap | launchCommand | graphNode | signal | wait | setDlevel
  | procRangeRegister | procRangeReset | procRangeDeregister | expertSetCreate | expertSetDelete | placementSet | trigger
  | preemptStop | preemptResume | retentionRemove | retentionRestore | queryIdentity | queryErrorLog | queryCoreAssignment
  | queryBlockStates | queryGraphLog | queryLinkLog | queryContextSummary | attest | unknownCmdMessage => cases h
  | _ => exact ⟨Option.isNone_iff_eq_none.mp h, nofun⟩

theorem ownTurn_decodeCommand (h : CmdHeader) (b : List DWord) : OwnTurn (decodeCommand h b) := by
  unfold decodeCommand
  dsimp only
  repeat' split
  all_goals exact ⟨rfl, nofun⟩

/-! ### The turns -/

/-- What follows an operation leaves memory and its stores alone. -/
theorem Answers.after {s : State} {r : Host.Outcome State Fault Refusal} (h : Answers s r) {f : State → State}
    (hm : ∀ t, (f t).mem = t.mem) (hs : ∀ t, (f t).stores = t.stores) :
    Answers s (match (generalizing := false) r with | .next t => .next (f t) | r => r) := by
  obtain ⟨t, rfl, hok⟩ := h
  exact ⟨f t, rfl, fun hs0 => ⟨(hm t).symm ▸ (hok hs0).1, (hs t).trans (hok hs0).2⟩⟩

/-- The end of an issue leaves memory and its stores alone. -/
theorem State.afterIssue_frame (s : State) (c : Cur) (w : Wave) : (s.afterIssue c w).mem = s.mem ∧ (s.afterIssue c w).stores = s.stores := by
  have hcount : ∀ (u : State) (k : Option Nat), let v := match k with
      | some n => if n ≥ 8 then u.pushDue (.skidStop c.wid) else u
      | none => u
      v.mem = u.mem ∧ v.stores = u.stores := by
    intro u k
    cases k with
    | none => exact ⟨rfl, rfl⟩
    | some n => dsimp only; split <;> exact ⟨rfl, rfl⟩
  unfold State.afterIssue
  dsimp only
  cases ({ s with cur := none } : State).wave? c.wid with
  | none => exact ⟨rfl, rfl⟩
  | some v => exact hcount _ _

/-- An issue answers where its wave is there. -/
theorem answers_issueCur {c : Cur} {w : Wave} {s : State} (hw : ∃ v, s.wave? c.wid = some v) : Answers s (issueCur exec c w s) := by
  obtain ⟨v, hv⟩ := hw
  have hissuing : ({ s with cur := some c } : State).issuing := ⟨c, v, rfl, hv⟩
  have hrun (i : Instr) : Answers s (exec i { s with cur := some c }) := (exec_answers hissuing).of_mem rfl rfl
  have hafter {r : Host.Outcome State Fault Refusal} (h : Answers s r) :=
    h.after (fun t => (State.afterIssue_frame t c w).1) (fun t => (State.afterIssue_frame t c w).2)
  unfold issueCur
  dsimp only
  split
  · exact (hrun .lineFetch).after (fun _ => rfl) (fun _ => rfl)
  · cases s.slotAt w c.pc with
    | none => exact answers_same s
    | some k =>
      dsimp only
      refine hafter ?_
      cases decodeSlot k with
      | ok i => exact hrun i
      | error _ => exact hrun (.unassignedCodePoint k)

/-- A wave that is replaced by another of its name is still there. -/
theorem State.wave?_replaced {s : State} {wid : WaveId} {w u : Wave} (hw : s.wave? wid = some w) (hu : u.id = wid) :
    ∃ v, (s.updWave wid (fun _ => u)).wave? wid = some v := by
  have hmem : w ∈ s.waves := List.mem_of_find?_eq_some hw
  have hid : w.id = wid := by simpa using List.find?_some hw
  refine Option.isSome_iff_exists.mp (List.find?_isSome.mpr ⟨u, ?_, by simpa using hu⟩)
  exact List.mem_map.mpr ⟨w, hmem, by simp [hid]⟩

@[simp] theorem State.aimBpc_id (s : State) (w : Wave) : (s.aimBpc w).id = w.id := by
  unfold State.aimBpc
  dsimp only
  split <;> rfl

theorem answers_slotOf (wid : WaveId) (s : State) : Answers s (slotOf exec wid s) := by
  unfold slotOf
  cases hw : s.wave? wid with
  | none => exact answers_same s
  | some w =>
    have hid : (s.aimBpc w).id = wid := (State.aimBpc_id s w).trans (by simpa using List.find?_some hw)
    dsimp only
    split
    · exact answers_same s
    · split
      · exact ⟨_, rfl, id⟩
      · exact (answers_issueCur (State.wave?_replaced hw hid)).of_mem rfl rfl

theorem answers_loopTurn (wid : WaveId) (l : Nat) (s : State) : Answers s (loopTurn exec wid l s) := by
  unfold loopTurn
  split
  · exact answers_same s
  · rename_i w hw
    dsimp only
    split
    · exact answers_same s
    · exact answers_issueCur ⟨w, hw⟩

theorem answers_clockTurn (core : Nat) (s : State) : Answers s (clockTurn exec core s) := by
  unfold clockTurn
  split
  · exact answers_slotOf _ s
  · exact answers_commit _ _

theorem Answers.ite {s : State} {p : Prop} [Decidable p] {a b : Host.Outcome State Fault Refusal} (ha : Answers s a)
    (hb : Answers s b) : Answers s (if p then a else b) := by
  split
  · exact ha
  · exact hb

theorem answers_hostTurn (msg : List Byte) (s : State) : Answers s (hostTurn exec msg s) := by
  have hrun := exec_answers_ownTurn (ownTurn_decodeCommand (decodeHeader msg) (bodyWords (msg.drop 32))) s
  unfold hostTurn
  refine Answers.ite hrun ?_
  cases s.ctx? (ha (decodeHeader msg)) with
  | none => exact hrun
  | some c => exact Answers.ite hrun ⟨_, rfl, id⟩

theorem answers_serveTurn (s : State) : Answers s (serveTurn exec s) := by
  unfold serveTurn
  split
  · exact answers_same s
  · split
    · exact answers_same s
    · split
      · exact (exec_answers_ownTurn (ownTurn_decodeCommand _ _) _).of_mem rfl rfl
      · exact answers_same s

theorem answers_turn (t : Turn) (s : State) : Answers s (turn exec t s) := by
  cases t with
  | slot w => exact answers_slotOf _ s
  | loop w l => exact answers_loopTurn w l s
  | clock c => exact answers_clockTurn c s
  | event i =>
    show Answers s (if isEvent i = true then exec i s else .next s)
    split
    · exact exec_answers_ownTurn (ownTurn_of_isEvent ‹_›) s
    · exact answers_same s
  | host m => exact answers_hostTurn m s
  | serve => exact answers_serveTurn s
  | _ => exact answers_commit s _

/-- A step with nothing due is a turn. -/
theorem answers_step {s : State} (h : s.due = []) : Answers s (step s) := by
  unfold step
  rw [h]
  dsimp only
  split
  · exact (answers_turn _ _).of_mem rfl rfl
  · exact (answers_turn _ _).of_mem rfl rfl

/-- Settles O6: an operation that is due drains its stores, and a turn answers. -/
theorem stepKeepsMemoryCanonical : Obligations.StepKeepsMemoryCanonical := by
  unfold Obligations.StepKeepsMemoryCanonical
  intro s t hok hstep
  cases hdue : s.due with
  | nil =>
    obtain ⟨u, hu, hkeep⟩ := answers_step hdue
    cases hu.symm.trans hstep
    exact hkeep hok
  | cons i rest =>
    simp only [step, hdue] at hstep
    rcases exec_commits i { s with due := rest } with ⟨s', hs'⟩ | ⟨hf, -⟩
    · cases hs'.symm.trans hstep
      exact drained_memOk hok.1 s'
    · cases hf.symm.trans hstep

/-- Settles O7: an operation stops only where no group issues, and every turn answers. -/
theorem nothingRefused : Obligations.NothingRefused := by
  unfold Obligations.NothingRefused
  refine ⟨fun i s h => ?_, fun s hdue => ?_⟩
  · obtain ⟨t, ht, -⟩ := exec_answers (i := i) h
    exact ⟨t, ht⟩
  · cases hd : s.due with
    | nil =>
      obtain ⟨t, ht, -⟩ := answers_step hd
      exact ⟨t, ht⟩
    | cons i rest =>
      obtain ⟨t, ht, -⟩ := exec_answers_ownTurn (ownTurn_of_isEvent (hdue i rest hd)) { s with due := rest }
      exact ⟨t, by simpa only [step, hd] using ht⟩

/-! ### Memory -/

/-- The cell of a key after several writes, the newest first: what the newest write to it put there, else what it held. -/
theorem cellGet_cellSets_reverse {α : Type} [DecidableEq α] (d : α) (l ws : List (Nat × α)) (a : Nat) :
    cellGet d (cellSets d l ws.reverse) a = match ws.find? (fun c => c.1 == a) with | some c => c.2 | none => cellGet d l a := by
  induction ws with
  | nil => rfl
  | cons w ws ih =>
    have hlast : cellSets d l (w :: ws).reverse = cellSet d (cellSets d l ws.reverse) w.1 w.2 := by
      simp only [cellSets, List.reverse_cons, List.foldl_append, List.foldl_cons, List.foldl_nil]
    rw [hlast, cellGet_cellSet]
    by_cases h : w.1 = a
    · simp [h]
    · simp [h, ih]

/-- The end of a step changes no byte that the step saw (log 7). -/
theorem State.byteAt_drained {s u : State} (hm : u.mem = s.mem) (a : Nat) : (drained s u).byteAt a = u.byteAt a := by
  show cellGet memDefault (cellSets memDefault s.mem u.stores.reverse) a = _
  rw [cellGet_cellSets_reverse, State.byteAt, hm]
  cases u.stores.find? (fun c => c.1 == a) <;> rfl

/-- The cell of a key among `n` cells at successive keys. -/
theorem find?_cells {α : Type} (v : Nat → α) (pa n a : Nat) :
    ((List.range n).map (fun i => (pa + i, v i))).reverse.find? (fun c => c.1 == a) =
      if pa ≤ a ∧ a < pa + n then some (a, v (a - pa)) else none := by
  induction n with
  | zero => simp
  | succ n ih =>
    rw [List.range_succ, List.map_append, List.reverse_append]
    by_cases h : pa + n = a
    · subst h; simp
    · have hne : ¬ (pa + n == a) = true := by simpa using h
      have hiff : (pa ≤ a ∧ a < pa + (n + 1)) ↔ (pa ≤ a ∧ a < pa + n) := by omega
      simp [hne, ih, hiff]

/-- A byte after a store: the byte stored there, else the byte as it was. -/
theorem State.byteAt_storeBytes (s : State) (pa : Nat) (bs : List Byte) (a : Nat) :
    (s.storeBytes pa bs).byteAt a = if pa ≤ a ∧ a < pa + bs.length then bs.getD (a - pa) 0 else s.byteAt a := by
  unfold State.byteAt State.storeBytes
  simp only [List.find?_append, find?_cells (fun i => bs.getD i 0)]
  by_cases h : pa ≤ a ∧ a < pa + bs.length
  · simp [h]
  · simp [h]

/-- Settles O8: a read within the step finds the newest store, and the end of the step changes no byte. -/
theorem storeThenRead : Obligations.StoreThenRead := by
  unfold Obligations.StoreThenRead
  exact fun s pa bs _ => ⟨s.byteAt_storeBytes pa bs, fun _ => State.byteAt_drained rfl⟩

end Sys2Proof.Machine
end

section
/-!
SUPPORT. `ST` with nothing in its way, in the three spaces (R486, R487), and the bytes that a global `ST` leaves in memory (R488).
-/
namespace Sys2Proof.Machine

/-! ### Pieces of memory written in turn -/

/-- Byte `k` of an access lies in its first piece. -/
theorem paOf_head {pa m k : Nat} (ps : List (Nat × Nat)) (h : k < m) : paOf ((pa, m) :: ps) k = some (pa + k) := if_pos h

/-- Bytes beyond the first piece lie in the pieces after it. -/
theorem paOf_tail (pa m : Nat) (ps : List (Nat × Nat)) (k : Nat) : paOf ((pa, m) :: ps) (k + m) = paOf ps k := by
  rw [paOf, if_neg (by omega), Nat.add_sub_cancel]

/-- A byte to which no byte of the data goes is as it was. -/
theorem State.byteAt_writePas_other {a : Nat} (ps : List (Nat × Nat)) (s : State) (bs : List Byte)
    (h : ∀ k < bs.length, paOf ps k ≠ some a) : (s.writePas ps bs).byteAt a = s.byteAt a := by
  induction ps generalizing s bs with
  | nil => rfl
  | cons p ps ih =>
    obtain ⟨pa, m⟩ := p
    have htail : ∀ k < (bs.drop m).length, paOf ps k ≠ some a := fun k hk => by
      rw [List.length_drop] at hk
      rw [← paOf_tail pa m]
      exact h (k + m) (by omega)
    have hhead : ¬ (pa ≤ a ∧ a < pa + (bs.take m).length) := by
      rintro ⟨hle, hlt⟩
      rw [List.length_take] at hlt
      refine h (a - pa) (by omega) ?_
      rw [paOf_head ps (by omega), Nat.add_sub_cancel' hle]
    rw [State.writePas, ih _ _ htail, State.byteAt_storeBytes, if_neg hhead]

/-- The byte to which one byte of the data goes, and no other, holds it. -/
theorem State.byteAt_writePas {a : Nat} (ps : List (Nat × Nat)) (s : State) (bs : List Byte) {k : Nat} (hk : k < bs.length)
    (ha : paOf ps k = some a) (honly : ∀ j < bs.length, paOf ps j = some a → j = k) :
    (s.writePas ps bs).byteAt a = bs.getD k 0 := by
  induction ps generalizing s bs k with
  | nil => cases ha
  | cons p ps ih =>
    obtain ⟨pa, m⟩ := p
    have hshift : ∀ j < (bs.drop m).length, paOf ps j = some a → j + m = k := fun j hj he => by
      rw [List.length_drop] at hj
      exact honly (j + m) (by omega) (by rw [paOf_tail, he])
    rw [State.writePas]
    by_cases hm : k < m
    · obtain rfl : pa + k = a := Option.some.inj ((paOf_head ps hm).symm.trans ha)
      have hin : pa ≤ pa + k ∧ pa + k < pa + (bs.take m).length := by rw [List.length_take]; omega
      rw [State.byteAt_writePas_other ps _ _ (fun j hj he => by have := hshift j hj he; omega), State.byteAt_storeBytes, if_pos hin,
        Nat.add_sub_cancel_left]
      simp [List.getD, hm]
    · obtain ⟨j, rfl⟩ : ∃ j, k = j + m := ⟨k - m, by omega⟩
      rw [paOf_tail] at ha
      rw [ih _ _ (by rw [List.length_drop]; omega) ha (fun i hi he => by have := hshift i hi he; omega)]
      simp [List.getD, Nat.add_comm]

/-! ### The stored bytes of a lane -/

theorem length_toBytes (n v : Nat) : (toBytes n v).length = n := by
  induction n generalizing v with
  | zero => rfl
  | succ n ih => rw [toBytes, List.length_cons, ih]

/-- A lane stores as many bytes as the instruction names (R487). -/
theorem length_storeData (x : Iss) (l : Nat) (code : RegCode) (w : Nat) : (storeData x l code (2 ^ w)).length = 2 ^ w := by
  have hwords : max 1 (2 ^ w / 4) * min (2 ^ w) 4 = 2 ^ w := by
    match w with
    | 0 => rfl
    | 1 => rfl
    | w + 2 =>
      have hpow : 2 ^ (w + 2) = 2 ^ w * 4 := by rw [Nat.pow_add]
      have hpos : 0 < 2 ^ w := Nat.two_pow_pos w
      rw [hpow, Nat.mul_div_cancel _ (by omega), Nat.max_eq_right hpos, Nat.min_eq_right (by omega)]
  unfold storeData
  split
  · simp only [List.length_flatMap, length_toBytes, List.map_const', List.sum_replicate_nat, List.length_range, hwords]
  · exact length_toBytes _ _

/-! ### Lanes that write memory in turn -/

/-- A wave's view is a matter of its grid alone (R295). -/
theorem State.viewOf_congr {s u : State} (h : u.grids = s.grids) (w : WaveId) : u.viewOf w = s.viewOf w := by
  unfold State.viewOf State.levelOf State.grid?
  rw [h]

/-- A lane's write outside a view goes to memory, and changes neither that view nor memory before the step's end. -/
theorem laneWrite_noView {s : State} {wid : WaveId} (hv : s.viewOf wid = none) (va : Nat) (pas : List (Nat × Nat)) (bs : List Byte) :
    (∀ a, (s.laneWrite wid va pas bs).byteAt a = (s.writePas pas bs).byteAt a) ∧
    (s.laneWrite wid va pas bs).viewOf wid = none ∧ (s.laneWrite wid va pas bs).mem = s.mem := by
  have hframe : ∀ (ps : List (Nat × Nat)) (u : State) (bs : List Byte), (u.writePas ps bs).grids = u.grids ∧
      (u.writePas ps bs).mem = u.mem := by
    intro ps
    induction ps with
    | nil => exact fun _ _ => ⟨rfl, rfl⟩
    | cons p ps ih =>
      exact fun u bs => ⟨(ih (u.storeBytes p.1 (bs.take p.2)) _).1, (ih (u.storeBytes p.1 (bs.take p.2)) _).2⟩
  obtain ⟨hgrids, hmem⟩ := hframe pas s bs
  have hwrite : s.viewWrite (s.viewOf wid) va pas bs = some (s.writePas pas bs) := by rw [hv]; rfl
  unfold State.laneWrite
  rw [hwrite]
  refine ⟨fun _ => rfl, ?_, hmem⟩
  rw [← hv]
  exact State.viewOf_congr hgrids wid

section
variable {wid : WaveId} {va : Nat → Nat} {pas : Nat → List (Nat × Nat)} {data : Nat → List Byte} {a : Nat}

/-- The writes of several lanes, in order. -/
def State.laneWrites (s : State) (wid : WaveId) (va : Nat → Nat) (pas : Nat → List (Nat × Nat)) (data : Nat → List Byte)
    (ls : List Nat) : State :=
  ls.foldl (fun s l => s.laneWrite wid (va l) (pas l) (data l)) s

theorem laneWrites_noView {s : State} (hv : s.viewOf wid = none) (ls : List Nat) :
    (s.laneWrites wid va pas data ls).viewOf wid = none ∧ (s.laneWrites wid va pas data ls).mem = s.mem := by
  induction ls generalizing s with
  | nil => exact ⟨hv, rfl⟩
  | cons l ls ih =>
    obtain ⟨-, hv', hm'⟩ := laneWrite_noView hv (va l) (pas l) (data l)
    exact ⟨(ih hv').1, (ih hv').2.trans hm'⟩

/-- A byte that no lane reaches is as it was. -/
theorem byteAt_laneWrites_other {s : State} (hv : s.viewOf wid = none) {ls : List Nat}
    (h : ∀ l ∈ ls, ∀ k < (data l).length, paOf (pas l) k ≠ some a) : (s.laneWrites wid va pas data ls).byteAt a = s.byteAt a := by
  induction ls generalizing s with
  | nil => rfl
  | cons l ls ih =>
    obtain ⟨hbyte, hv', -⟩ := laneWrite_noView hv (va l) (pas l) (data l)
    calc (s.laneWrites wid va pas data (l :: ls)).byteAt a
        = (s.laneWrite wid (va l) (pas l) (data l)).byteAt a := ih hv' (fun m hm => h m (List.mem_cons_of_mem l hm))
      _ = s.byteAt a := by rw [hbyte, State.byteAt_writePas_other _ _ _ (h l List.mem_cons_self)]

/-- The byte that one byte of one lane reaches, and no other, holds it. -/
theorem byteAt_laneWrites {s : State} (hv : s.viewOf wid = none) {ls : List Nat} (hnd : ls.Nodup) {l k : Nat} (hl : l ∈ ls)
    (hk : k < (data l).length) (ha : paOf (pas l) k = some a)
    (honly : ∀ m ∈ ls, ∀ j < (data m).length, paOf (pas m) j = some a → m = l ∧ j = k) :
    (s.laneWrites wid va pas data ls).byteAt a = (data l).getD k 0 := by
  obtain ⟨before, after, rfl⟩ := List.append_of_mem hl
  have hafter : l ∉ after := (List.nodup_cons.mp (List.nodup_append.mp hnd).2.1).1
  have hv0 := (laneWrites_noView (va := va) (pas := pas) (data := data) hv before).1
  obtain ⟨hbyte, hv1, -⟩ := laneWrite_noView hv0 (va l) (pas l) (data l)
  have hsplit : s.laneWrites wid va pas data (before ++ l :: after) =
      ((s.laneWrites wid va pas data before).laneWrite wid (va l) (pas l) (data l)).laneWrites wid va pas data after := by
    simp only [State.laneWrites, List.foldl_append, List.foldl_cons]
  have hrest : ∀ m ∈ after, ∀ j < (data m).length, paOf (pas m) j ≠ some a := fun m hm j hj he =>
    hafter ((honly m (by simp [hm]) j hj he).1 ▸ hm)
  rw [hsplit, byteAt_laneWrites_other hv1 hrest, hbyte]
  exact State.byteAt_writePas _ _ _ hk ha (fun j hj he => (honly l (by simp) j hj he).2)

end

/-! ### `ST` -/

/-- No tile is waited for. -/
theorem tileWaits_none {x : Iss} {s : State} {va : Nat → Nat} {n : Nat}
    (h : ∀ l ∈ x.lanes, s.tileBusy x.wid.team x.w.core x.w.bay (va l / 16384) (tileBefore s x.w l (va l / 16384)) = false) :
    tileWaits x s (x.accs va n) = [] :=
  filterMap_none (List.forall_mem_map.mpr fun l hl => by simp only [h l hl, Bool.false_eq_true, if_false])

/-- Nothing blocks where no tile is waited for. -/
theorem blockTiles_nil (x : Iss) (s : State) : blockTiles x s [] = (s, []) := by
  simp [blockTiles]

section
variable {f : FmtM} {x : Iss} {s : State} (halign : ∀ l ∈ x.lanes, effAddr x l f % 2 ^ f.wd.toNat = 0)
include halign

/-- `ST` to global memory (R487). -/
theorem semSt_global {c : Ctx} {pas : Nat → List (Nat × Nat)} (hsp : f.sp = 0)
    (hr : Reaches x s (x.accs (effAddr x · f) (2 ^ f.wd.toNat)) .write (fun c a => c.needsMcst a.va a.n) pas c)
    (hw : Writable s (x.accs (effAddr x · f) (2 ^ f.wd.toNat)) pas) :
    semSt f x s = .go ((s.laneWrites x.wid (effAddr x · f) pas (storeData x · f.ds (2 ^ f.wd.toNat)) x.lanes).noteStores x
      (allGo s (x.accs (effAddr x · f) (2 ^ f.wd.toNat)) pas)) [] := by
  have hspace : f.sp.toNat = 0 := by rw [hsp]; rfl
  simp only [semSt, map_lanes_accs, misaligned_accs halign, hspace, storeGlobal_reaches hr hw]
  rw [Iss.accs, List.foldl_map]
  rfl

/-- `ST` to scratch (R486). -/
theorem semSt_scratch (hsp : f.sp = 1) (hin : ∀ l ∈ x.lanes, effAddr x l f + 2 ^ f.wd.toNat ≤ s.scratchSize x.wid) :
    semSt f x s = .go (s.updTeam x.wid.team (fun t =>
      x.lanes.foldl (fun t l => t.setScratch (effAddr x l f) (storeData x l f.ds (2 ^ f.wd.toNat))) t)) [] := by
  have hspace : f.sp.toNat = 1 := by rw [hsp]; rfl
  simp only [semSt, map_lanes_accs, misaligned_accs halign, hspace, beyond_accs hin]
  simp only [Iss.accs, List.foldl_map]

/-- `ST` to the bay's tiles (R178, R486). -/
theorem semSt_tiles (hsp : f.sp = 2) (hin : ∀ l ∈ x.lanes, effAddr x l f + 2 ^ f.wd.toNat ≤ s.tiles x.wid * 16384)
    (hfree : ∀ l ∈ x.lanes, s.tileBusy x.wid.team x.w.core x.w.bay (effAddr x l f / 16384)
      (tileBefore s x.w l (effAddr x l f / 16384)) = false) :
    semSt f x s = .go (s.updTeam x.wid.team (fun t =>
      x.lanes.foldl (fun t l => t.setAcc (s.tiles x.wid) x.w.bay (effAddr x l f) (storeData x l f.ds (2 ^ f.wd.toNat))) t)) [] := by
  have hspace : f.sp.toNat = 2 := by rw [hsp]; rfl
  have hall : (x.accs (effAddr x · f) (2 ^ f.wd.toNat)).filter (fun a => !([] : List (Nat × Nat)).any (fun p => p.1 == a.lane)) =
      x.accs (effAddr x · f) (2 ^ f.wd.toNat) := List.filter_eq_self.mpr fun _ _ => rfl
  simp only [semSt, map_lanes_accs, misaligned_accs halign, hspace, beyond_accs hin, tileWaits_none hfree, blockTiles_nil, hall]
  simp only [Iss.accs, List.foldl_map]

end

/-- What a store leaves behind changes no byte and nothing in memory (R207, R232). -/
theorem noteStores_memory (s : State) (x : Iss) (p : Phase) :
    (s.noteStores x p).mem = s.mem ∧ (s.noteStores x p).stores = s.stores := by
  unfold State.noteStores State.keepSlots
  repeat' split
  all_goals exact ⟨rfl, rfl⟩

/-- A byte after a store that went on: as the writes of its lanes left it. -/
theorem byteAt_wentOn_noteStores {s u : State} (x : Iss) (p : Phase) (hm : u.mem = s.mem) (a : Nat) :
    (wentOn x s (u.noteStores x p) []).byteAt a = u.byteAt a := by
  obtain ⟨hmem, hstores⟩ := noteStores_memory u x p
  have hend : (wentOn x s (u.noteStores x p) []).byteAt a = (u.noteStores x p).byteAt a :=
    State.byteAt_drained (u := advance (u.noteStores x p) x.wid _ x.pc) (hmem.trans hm) a
  rw [hend]
  simp only [State.byteAt, hmem, hstores]

/-- Settles O41: `ST` in each space, then the bytes of a global `ST` by its lanes' writes. -/
theorem storesWrite : Obligations.StoresWrite := by
  unfold Obligations.StoresWrite
  refine ⟨?spaces, ?bytes⟩
  case spaces =>
    intro f s x c pas n va data tiles H halign
    exact ⟨fun hsp hr hw => issue_go (semSt f) H (semSt_global halign hsp hr hw),
      fun hsp hin => issue_go (semSt f) H (semSt_scratch halign hsp hin),
      fun hsp hin hfree => issue_go (semSt f) H (semSt_tiles halign hsp hin hfree)⟩
  case bytes =>
    intro f s t x c pas n va H hsp hview _ halign hr hw ht
    have hlen : ∀ l, (storeData x l f.ds n).length = n := fun l => length_storeData x l f.ds f.wd.toNat
    obtain rfl := Host.Outcome.next.inj ((issue_go (semSt f) H (semSt_global halign hsp hr hw)).symm.trans ht)
    have hmem := (laneWrites_noView (va := va) (pas := pas) (data := (storeData x · f.ds n)) hview x.lanes).2
    refine ⟨fun l hl k hk pa hpa honly => ?_, fun pa hother => ?_⟩
    · rw [byteAt_wentOn_noteStores x _ hmem]
      exact byteAt_laneWrites hview H.lanes_nodup hl (by rwa [hlen]) hpa (fun m hm j hj he => honly m hm j (by rwa [← hlen m]) he)
    · rw [byteAt_wentOn_noteStores x _ hmem]
      exact byteAt_laneWrites_other hview (fun l hl k hk => hother l hl k (by rwa [← hlen l]))

end Sys2Proof.Machine
end

section
/-!
SUPPORT. The integer operations and comparisons, and the float operations of two and three operands, each by the shape of its operands.
-/
namespace Sys2Proof.Machine

/-! ### Shapes of operands -/

section
variable {i : Instr} {f : FmtR} {k : FmtI}

/-- Results that are equal in every lane are one yield. -/
theorem Yields.congr {h : Hdr} {g g' : Iss → Nat → LaneOut} (Y : Yields i h g) (hg : ∀ x l, g x l = g' x l) : Yields i h g' :=
  (funext fun x => funext (hg x) : g = g') ▸ Y

/-- An integer and an immediate (R103, R434). -/
theorem yields_int2i {g : Nat → Int → Int → Int × BitVec 6} (hx : ∀ s, exec i s = issue i k.h (int2i k g) s) :
    Yields i k.h (fun x l =>
      let r := g (tyS k.ty) (x.int l k.a (tyS k.ty)) (intVal (tyS k.ty) (immVal (tyS k.ty) k.imm))
      LaneOut.int k.d (tyS k.ty) r.1 r.2) :=
  yields_one hx (fun _ _ => rfl)

/-- Three integers (R434). -/
theorem yields_int3 {g : Nat → Int → Int → Int → Int × BitVec 6} (hx : ∀ s, exec i s = issue i f.h (int3 f g) s) :
    Yields i f.h (fun x l =>
      let r := g (tyS f.ty) (x.int l f.a (tyS f.ty)) (x.int l f.b (tyS f.ty)) (x.int l f.c (tyS f.ty))
      LaneOut.int f.d (tyS f.ty) r.1 r.2) :=
  yields_one hx (fun _ _ => rfl)

/-- Two floats (R421). -/
theorem yields_float2 {g : Nat → Rnd → Val → Val → Nat × BitVec 6} (hx : ∀ s, exec i s = issue i f.h (float2 f g) s) :
    Yields i f.h (fun x l => LaneOut.flt f.d (g (tyS f.ty) (rndOf f.mode.toNat) (x.flt l f.a (tyS f.ty)) (x.flt l f.b (tyS f.ty)))) :=
  yields_one hx (fun _ _ => rfl)

/-- A float and an immediate (R103, R421). -/
theorem yields_float2i {g : Nat → Rnd → Val → Val → Nat × BitVec 6} (hx : ∀ s, exec i s = issue i k.h (float2i k g) s) :
    Yields i k.h (fun x l => LaneOut.flt k.d (g (tyS k.ty) (rndOf k.mode.toNat) (x.flt l k.a (tyS k.ty))
      (decVal (tyS k.ty) (k.imm.toNat % 2 ^ tyWidth (tyS k.ty))))) :=
  yields_one hx (fun _ _ => rfl)

/-- A comparison has one register result and one predicate result (R422, R435). -/
theorem LaneOut.tidy_cmp (d : RegCode) (p : Nat) (b : Bool) (e : BitVec 6) : (LaneOut.cmp d p b e).tidy :=
  ⟨List.pairwise_singleton _ _, .inl (Nat.le_refl _), Nat.le_refl _⟩

/-- A comparison whose lanes each produce a truth value with exceptions. -/
theorem yields_cmp {h : Hdr} {body : Iss → State → Res} {d : RegCode} {p : Nat} {r : Iss → Nat → Bool × BitVec 6}
    (hx : ∀ s, exec i s = issue i h body s) (hb : ∀ x s, body x s = arith x s (fun l => LaneOut.cmp d p (r x l).1 (r x l).2)) :
    Yields i h (fun x l => LaneOut.cmp d p (r x l).1 (r x l).2) :=
  yields_of_arith hx hb (fun _ _ => LaneOut.tidy_cmp _ _ _ _)

end

/-! ### Integers -/

/-- The integer that a 64-bit pattern of fewer bits stands for. -/
theorem wrapN_cast (n : Nat) (x : Int) : ((wrapN n x : Nat) : Int) = x % (2 ^ n : Nat) :=
  Int.toNat_of_nonneg (Int.emod_nonneg x (by exact_mod_cast Nat.ne_of_gt (Nat.two_pow_pos n)))

/-- A sign-extended pattern stands for what its low bits do (R115). -/
theorem sext_emod (n w : Nat) : sext n w % (2 ^ n : Nat) = (w : Int) % (2 ^ n : Nat) := by
  unfold sext
  dsimp only
  split
  · push_cast; exact Int.emod_emod _ _
  · push_cast
    rw [Int.sub_emod_right, Int.emod_emod]

/-- A result extended to 64 bits is the exact result modulo the width of its type (R115, R116). -/
theorem extendTo_emod {t : Nat} (ht : tyWidth t ≤ 64) (n : Int) :
    (extendTo 64 t n : Int) % (2 ^ tyWidth t : Nat) = n % (2 ^ tyWidth t : Nat) := by
  have hdvd : ((2 ^ tyWidth t : Nat) : Int) ∣ (2 ^ 64 : Nat) := by exact_mod_cast Nat.pow_dvd_pow 2 ht
  unfold extendTo
  dsimp only
  rw [wrapN_cast, Int.emod_emod_of_dvd _ hdvd]
  split
  · rw [sext_emod, wrapN_cast, Int.emod_emod]
  · rw [wrapN_cast, Int.emod_emod]

/-- The types of integers are 64 bits wide at most. -/
theorem tyWidth_int {t : Nat} (h : t < 8) : tyWidth t ≤ 64 :=
  (by decide : ∀ u < 8, tyWidth u ≤ 64) t h

/-- The result of an exact value: wrapped, or with `.SAT` held at the bound that it passes, with an overflow (R116). -/
theorem laneOut_sum_cases (d : RegCode) (t : Nat) (sat : Bool) (n : Int) : LaneOut.sum d t sat n =
    if sat = false then LaneOut.int d t n 0
    else if n < intMin t then LaneOut.int d t (intMin t) 4
    else if intMax t < n then LaneOut.int d t (intMax t) 4
    else LaneOut.int d t n 0 := by
  cases sat with
  | false => rfl
  | true =>
    simp only [LaneOut.sum, clampInt, if_true, Bool.true_eq_false, if_false]
    by_cases hmin : n < intMin t
    · simp only [hmin, if_true, if_neg (Int.ne_of_gt hmin)]; rfl
    · by_cases hmax : intMax t < n
      · simp only [hmin, hmax, if_true, if_false, if_neg (Int.ne_of_lt hmax)]; rfl
      · simp only [hmin, hmax, if_true, if_false]

/-- The quotient and the remainder, with those of a zero divisor (R116). -/
theorem intDiv_quo (a b : Int) : (intDiv a b).1 = if b = 0 then -1 else a.tdiv b := by
  unfold intDiv; split <;> rfl
theorem intDiv_rem (a b : Int) : (intDiv a b).2.1 = if b = 0 then a else a.tmod b := by
  unfold intDiv; split <;> rfl
theorem intDiv_exc (a b : Int) : (intDiv a b).2.2 = if b = 0 then 32 else 0 := by
  unfold intDiv; split <;> rfl

theorem max_eq_larger (a b : Int) : (if a < b then b else a) = max a b := by
  split <;> omega
theorem min_eq_smaller (a b : Int) : (if a < b then a else b) = min a b := by
  split <;> omega
theorem natAbs_eq_abs (a : Int) : (if a < 0 then -a else a) = (a.natAbs : Int) := by
  split <;> omega

/-- The six comparisons by number (R435). -/
theorem iCmp_cases {n : Nat} (hn : n < 6) (a b : Int) : iCmp n a b =
    decide (n = 0 ∧ a = b ∨ n = 1 ∧ a ≠ b ∨ n = 2 ∧ a < b ∨ n = 3 ∧ a ≤ b ∨ n = 4 ∧ a > b ∨ n = 5 ∧ a ≥ b) := by
  match n, hn with
  | 0, _ => exact decide_eq_decide.mpr (by omega)
  | 1, _ => exact decide_eq_decide.mpr (by omega)
  | 2, _ => exact decide_eq_decide.mpr (by omega)
  | 3, _ => exact decide_eq_decide.mpr (by omega)
  | 4, _ => exact decide_eq_decide.mpr (by omega)
  | 5, _ => exact decide_eq_decide.mpr (by omega)

/-- Settles O15: each instruction by the shape of its operands, its result by what the operation's exact value becomes. -/
theorem integerOperations : Obligations.IntegerOperations := by
  unfold Obligations.IntegerOperations
  intro f k t u a b c p q res sums out outI high quo rem exc test
  have hsum : ∀ (d : RegCode) (t : Nat) (m : BitVec 4) (n : Int),
      LaneOut.int d t (intResult t (satOf m) n).1 (intResult t (satOf m) n).2 = sums d t (m.getLsbD 2) n := fun d t m n =>
    (laneOut_intResult d t _ n).trans (laneOut_sum_cases d t _ n)
  have hval : ∀ (d : RegCode) (t : Nat) {v w : Int} {e e' : BitVec 6}, v = w → e = e' → LaneOut.int d t v e = res d t w e' :=
    fun d t v w e e' hv he => by subst hv he; rfl
  refine ⟨fun n ht => extendTo_emod (tyWidth_int ht) n, ?iadd, ?isub, ?imul, ?imad, ?iaddImm, ?isubImm, ?imulImm, ?imulh, ?imax, ?imin,
    ?idiv, ?irem, ?iabs, ?imulhImm, ?imaxImm, ?iminImm, ?idivImm, ?iremImm, ?icmp, ?icmpImm⟩
  case iadd | isub | imul => exact Yields.congr (yields_int2 (fun _ => rfl)) (fun _ _ => hsum _ _ _ _)
  case imad => exact Yields.congr (yields_int3 (fun _ => rfl)) (fun _ _ => hsum _ _ _ _)
  case iaddImm | isubImm | imulImm => exact Yields.congr (yields_int2i (fun _ => rfl)) (fun _ _ => hsum _ _ _ _)
  case imulh => exact Yields.congr (yields_int2 (fun _ => rfl)) (fun _ _ => rfl)
  case imulhImm => exact Yields.congr (yields_int2i (fun _ => rfl)) (fun _ _ => rfl)
  case imax => exact Yields.congr (yields_int2 (fun _ => rfl)) (fun _ _ => hval _ _ (max_eq_larger _ _) rfl)
  case imin => exact Yields.congr (yields_int2 (fun _ => rfl)) (fun _ _ => hval _ _ (min_eq_smaller _ _) rfl)
  case imaxImm => exact Yields.congr (yields_int2i (fun _ => rfl)) (fun _ _ => hval _ _ (max_eq_larger _ _) rfl)
  case iminImm => exact Yields.congr (yields_int2i (fun _ => rfl)) (fun _ _ => hval _ _ (min_eq_smaller _ _) rfl)
  case idiv => exact Yields.congr (yields_int2 (fun _ => rfl)) (fun _ _ => hval _ _ (intDiv_quo _ _) (intDiv_exc _ _))
  case irem => exact Yields.congr (yields_int2 (fun _ => rfl)) (fun _ _ => hval _ _ (intDiv_rem _ _) (intDiv_exc _ _))
  case idivImm => exact Yields.congr (yields_int2i (fun _ => rfl)) (fun _ _ => hval _ _ (intDiv_quo _ _) (intDiv_exc _ _))
  case iremImm => exact Yields.congr (yields_int2i (fun _ => rfl)) (fun _ _ => hval _ _ (intDiv_rem _ _) (intDiv_exc _ _))
  case iabs =>
    have habs : Yields (.iabs f) f.h (fun x l => let r := intResult t (satOf f.mode) (if a x l < 0 then -(a x l) else a x l)
        LaneOut.int f.d t r.1 r.2) := yields_one (fun _ => rfl) (fun _ _ => rfl)
    exact habs.congr (fun x l => (hsum _ _ _ _).trans (congrArg out (natAbs_eq_abs (a x l))))
  case icmp =>
    intro hn
    have hcmp : Yields (.icmp f) f.h (fun x l => LaneOut.cmp f.d (f.fn.toNat / 8) (iCmp (f.fn.toNat % 8) (a x l) (b x l)) 0) :=
      yields_cmp (r := fun x l => (iCmp (f.fn.toNat % 8) (a x l) (b x l), 0)) (fun _ => rfl) (fun _ _ => rfl)
    exact hcmp.congr (fun x l => by rw [iCmp_cases hn])
  case icmpImm =>
    intro hn
    have hcmp : Yields (.icmpImm k) k.h (fun x l => LaneOut.cmp k.d (k.fn.toNat / 8) (iCmp (k.fn.toNat % 8) (p x l) q) 0) :=
      yields_cmp (r := fun x l => (iCmp (k.fn.toNat % 8) (p x l) q, 0)) (fun _ => rfl) (fun _ _ => rfl)
    exact hcmp.congr (fun x l => by rw [iCmp_cases hn])

/-! ### Floats -/

/-- Settles O16: a comparison's truth value and exceptions are those of `fCmp`. -/
theorem floatComparisons : Obligations.FloatComparisons := by
  unfold Obligations.FloatComparisons
  intro f k t u
  refine ⟨?reg, ?imm⟩
  case reg =>
    exact yields_cmp (r := fun x l => fCmp (f.fn.toNat % 8) (x.flt l f.a t) (x.flt l f.b t)) (fun _ => rfl) (fun _ _ => rfl)
  case imm =>
    exact yields_cmp (r := fun x l => fCmp (k.fn.toNat % 8) (x.flt l k.a u) (decVal u (k.imm.toNat % 2 ^ tyWidth u)))
      (fun _ => rfl) (fun _ _ => rfl)

/-- Settles O22: each instruction by the shape of its operands. -/
theorem floatArithmetic : Obligations.FloatArithmetic := by
  unfold Obligations.FloatArithmetic
  intro f k t u r r' imm
  refine ⟨?fadd, ?fsub, ?fmul, ?fdiv, ?ffma, ?fmax, ?fmin, ?faddImm, ?fsubImm, ?fmulImm, ?fdivImm, ?fmaxImm, ?fminImm⟩
  case fadd | fsub | fmul | fdiv => exact yields_float2 (fun _ => rfl)
  case faddImm | fsubImm | fmulImm | fdivImm => exact yields_float2i (fun _ => rfl)
  case ffma | fmax | fmin | fmaxImm | fminImm => exact yields_one (fun _ => rfl) (fun _ _ => rfl)

end Sys2Proof.Machine
end

section
/-!
SUPPORT. Transfers: `CALL`, `RET` and `JMPI` (R393, R438, R472), whose threads go to their targets.
-/
namespace Sys2Proof.Machine

/-! ### Updates of one wave in turn -/

/-- Two updates of one wave are one. -/
theorem State.updWave_updWave (s : State) (wid : WaveId) {f g : Wave → Wave} (hf : ∀ w, (f w).id = w.id) :
    (s.updWave wid f).updWave wid g = s.updWave wid (fun w => g (f w)) := by
  have hmap : (s.waves.map (fun x => if x.id = wid then f x else x)).map (fun x => if x.id = wid then g x else x) =
      s.waves.map (fun x => if x.id = wid then g (f x) else x) := by
    rw [List.map_map]
    refine List.map_congr_left fun x _ => ?_
    by_cases h : x.id = wid
    · simp [h, hf]
    · simp [h]
  unfold State.updWave
  rw [hmap]

@[simp] theorem Wave.goOn_id (w : Wave) (ls : List Nat) (pc : DWord) : (w.goOn ls pc).id = w.id := by
  rw [Wave.goOn_eq]

/-- A thread after some lanes went on (R70). -/
theorem Wave.thread_goOn (w : Wave) {ls : List Nat} (hnd : ls.Nodup) (pc : DWord) (l : Nat) : (w.goOn ls pc).thread l =
    if l ∈ ls then { w.thread l with
      pc := nextPc pc, run := if (w.thread l).run = .ended then .ended else .ready,
      seen := (w.thread l).seen.filter (fun b => b.1 != pc) }
    else w.thread l :=
  Wave.thread_updThreads w ls hnd _ l

/-- Register writes of several lanes name the same wave and leave its threads alone. -/
theorem Wave.foldl_writeReg_frame (ls : List Nat) (code n v : Nat) (w : Wave) :
    (ls.foldl (fun w l => w.writeReg l code n v) w).id = w.id ∧
    ∀ k, (ls.foldl (fun w l => w.writeReg l code n v) w).thread k = w.thread k := by
  induction ls generalizing w with
  | nil => exact ⟨rfl, fun _ => rfl⟩
  | cons l ls ih =>
    obtain ⟨hid, hth⟩ := ih (w.writeReg l code n v)
    exact ⟨hid.trans (Wave.writeReg_id _ _ _ _ _), fun k => (hth k).trans (Wave.thread_writeReg _ _ _ _ _ _)⟩

/-! ### Threads sent to their targets -/

/-- The threads of some lanes at their targets, ready. -/
def Wave.sendTo (w : Wave) (ts : List (Nat × Nat)) : Wave :=
  ts.foldl (fun w p => w.updThread p.1 (fun t => { t with pc := BitVec.ofNat 64 p.2, run := .ready })) w

theorem Wave.sendTo_eq (w : Wave) (ts : List (Nat × Nat)) : w.sendTo ts = { w with threads := (w.sendTo ts).threads } := by
  unfold Wave.sendTo
  induction ts generalizing w with
  | nil => rfl
  | cons p ts ih => rw [List.foldl_cons, ih]; rfl

/-- A thread that is sent nowhere stays as it was. -/
theorem Wave.thread_sendTo_other (w : Wave) {ts : List (Nat × Nat)} {l : Nat} (h : ∀ p ∈ ts, p.1 ≠ l) :
    (w.sendTo ts).thread l = w.thread l := by
  unfold Wave.sendTo
  induction ts generalizing w with
  | nil => rfl
  | cons p ts ih =>
    rw [List.foldl_cons, ih _ (fun q hq => h q (List.mem_cons_of_mem p hq)), Wave.thread_updThread, if_neg (h p List.mem_cons_self)]

/-- A thread that is sent to one target stands at it. -/
theorem Wave.thread_sendTo (w : Wave) {ts : List (Nat × Nat)} (hnd : (ts.map (·.1)).Nodup) {p : Nat × Nat} (hp : p ∈ ts) :
    (w.sendTo ts).thread p.1 = { w.thread p.1 with pc := BitVec.ofNat 64 p.2, run := .ready } := by
  induction ts generalizing w with
  | nil => cases hp
  | cons q ts ih =>
    obtain ⟨hq, hts⟩ := List.nodup_cons.mp hnd
    have hne : ∀ r ∈ ts, r.1 ≠ q.1 := fun r hr he => hq (List.mem_map.mpr ⟨r, hr, he⟩)
    show ((w.updThread q.1 _).sendTo ts).thread p.1 = _
    rcases List.mem_cons.mp hp with rfl | hp
    · rw [Wave.thread_sendTo_other _ hne, Wave.thread_updThread, if_pos rfl]
    · rw [ih _ hts hp, Wave.thread_updThread, if_neg (Ne.symm (hne p hp))]

section
variable {i : Instr} {h : Hdr} {s : State} {x : Iss} {ts : List (Nat × Nat)}

/-- The lanes of a group that a transfer sends nowhere. -/
def Iss.passing (x : Iss) (ts : List (Nat × Nat)) : List Nat := x.group.filter (fun l => !ts.any (fun p => p.1 == l))

theorem Iss.mem_passing (x : Iss) (ts : List (Nat × Nat)) (l : Nat) : l ∈ x.passing ts ↔ l ∈ x.group ∧ ∀ p ∈ ts, p.1 ≠ l := by
  simp [Iss.passing]

/-- A wave after its group's transfer: some threads at their targets, the others of the group at the next PC (R393). -/
def Iss.leaveFor (x : Iss) (ts : List (Nat × Nat)) (w : Wave) : Wave := { (w.goOn (x.passing ts) x.pc).sendTo ts with hold := none }

theorem Iss.leaveFor_eq (x : Iss) (ts : List (Nat × Nat)) (w : Wave) :
    x.leaveFor ts w = { w with threads := (x.leaveFor ts w).threads, hold := none } := by
  unfold Iss.leaveFor
  rw [Wave.sendTo_eq, Wave.goOn_eq]

/-- A transfer's effect is one update of its wave. -/
theorem jumped_goTo (x : Iss) (s : State) {pre : Wave → Wave} (hid : ∀ w, (pre w).id = w.id) (ts : List (Nat × Nat)) :
    jumped x s (((s.updWave x.wid pre).updWave x.wid (fun w => w.goOn (x.passing ts) x.pc)).updWave x.wid (fun w => w.sendTo ts)) =
      drained s (s.updWave x.wid (fun w => x.leaveFor ts (pre w))) := by
  have hgo : ∀ w, ((pre w).goOn (x.passing ts) x.pc).id = w.id := fun w => (Wave.goOn_id _ _ _).trans (hid w)
  have hsend : ∀ w, (((pre w).goOn (x.passing ts) x.pc).sendTo ts).id = w.id := fun w => by
    rw [Wave.sendTo_eq]
    exact hgo w
  unfold jumped
  rw [State.updWave_updWave s _ hid, State.updWave_updWave s _ hgo, State.updWave_updWave s _ hsend]
  rfl

/-- A transfer of distinct lanes, after an update of the wave that leaves its threads alone. -/
theorem transferred_of_goTo (H : Issues i h s x) (body : Iss → State → Res) {pre : Wave → Wave} (hid : ∀ w, (pre w).id = w.id)
    (hth : ∀ l, (pre x.w).thread l = x.w.thread l) (hnd : (ts.map (·.1)).Nodup)
    (hb : body x s = goTo x (s.updWave x.wid pre) ts) :
    ∃ t, issue i h body s = .next t ∧ Transferred x s t ts (pre x.w) := by
  have hleave : ∀ w, (x.leaveFor ts (pre w)).id = w.id := fun w => by
    rw [Iss.leaveFor_eq]
    exact hid w
  have hgo : ∀ l, ((pre x.w).goOn (x.passing ts) x.pc).thread l = _ :=
    Wave.thread_goOn (pre x.w) (H.group_nodup.filter _) x.pc
  refine ⟨_, (issue_jump body H hb).trans (congrArg Host.Outcome.next (jumped_goTo x s hid ts)), onlyWave_updWave _ hleave H.quiet,
    x.leaveFor ts (pre x.w), ?_, Iss.leaveFor_eq _ _ _, fun p hp => ?_, fun l hl => ?_⟩
  · exact State.wave?_updWave_self _ hleave H.wave
  · have hout : p.1 ∉ x.passing ts := fun hin => ((x.mem_passing ts p.1).mp hin).2 p hp rfl
    show (((pre x.w).goOn (x.passing ts) x.pc).sendTo ts).thread p.1 = _
    rw [Wave.thread_sendTo _ hnd hp, hgo]
    exact (congrArg (fun t : Thread => { t with pc := BitVec.ofNat 64 p.2, run := Run.ready }) ((if_neg hout).trans (hth p.1)))
  · have hin : l ∈ x.passing ts ↔ l ∈ x.group := (x.mem_passing ts l).trans ⟨And.left, fun hg => ⟨hg, hl⟩⟩
    show (((pre x.w).goOn (x.passing ts) x.pc).sendTo ts).thread l = _
    rw [Wave.thread_sendTo_other _ hl, hgo, hth]
    exact ite_congr (propext hin) (fun _ => rfl) (fun _ => rfl)

end

/-! ### The checks of a transfer -/

section
variable {x : Iss} {s : State} {ts : List (Nat × Nat)}

/-- A target whose line is cached with its `TGT` bit set passes, and changes nothing (R71). -/
theorem checkTgt_ok {core asid pc : Nat} (h : pcBad pc = true ∨
    ∃ line, (s.core core).line? asid (pc / 64) = some line ∧ (lineWord line).testBit (pc % 8) = true) :
    s.checkTgt core asid pc = .ok s := by
  unfold State.checkTgt
  by_cases hbad : pcBad pc = true
  · rw [if_pos hbad]
  · obtain ⟨line, hline, htgt⟩ := h.resolve_left hbad
    simp only [hbad, State.fetchLine, hline, htgt, Bool.false_eq_true, if_false, if_true]

theorem checkTgts_ok (H : TargetsOk x s ts) :
    s.checkTgts x.w.core (asidOf x.wid) ts = { s := s, bad := none, clear := [], miss := [] } := by
  induction ts with
  | nil => rfl
  | cons p ts ih =>
    rw [State.checkTgts, checkTgt_ok (H p List.mem_cons_self)]
    exact ih (fun q hq => H q (List.mem_cons_of_mem p hq))

/-- A transfer all of whose targets pass goes on as it is (R71). -/
theorem transfer_ok (H : TargetsOk x s ts) (go : State → Res) : transfer x s ts go = go s := by
  have hwait : ts.any (fun p => !pcBad p.2 && s.lineWaits x.w.core x.wid (p.2 / 64)) = false := by
    refine any_false fun p hp => ?_
    rcases H p hp with hbad | ⟨line, hline, -⟩
    · simp [hbad]
    · simp [State.lineWaits, hline]
  unfold transfer
  rw [hwait]
  simp only [Bool.false_eq_true, if_false, checkTgts_ok H]

/-- No uniform-required register differs among the active lanes (R82). -/
theorem uniformB_same {f : FmtB} {n : Nat} (h : f.u = true → f.a.toNat ≠ 511 → x.uniformFault f.a n = none) (go : Unit → Res) :
    uniformB f n x go = go () := by
  have hnone : (if f.u && f.a.toNat != 511 then x.uniformFault f.a n else none) = none := by
    split
    · rename_i hu
      obtain ⟨hu, ha⟩ : f.u = true ∧ f.a.toNat ≠ 511 := by simpa using hu
      exact h hu ha
    · rfl
  unfold uniformB
  rw [hnone]

end

/-- The lanes that a transfer moves are distinct. -/
theorem Issues.moving_nodup {i : Instr} {h : Hdr} {s : State} {x : Iss} (H : Issues i h s x) (g : Nat → Nat) :
    ((x.moving.map (fun l => (l, g l))).map (·.1)).Nodup := by
  have hfst : (x.moving.map (fun l => (l, g l))).map (·.1) = x.moving := by
    rw [List.map_map]
    exact List.map_id _
  rw [hfst]
  unfold Iss.moving
  split
  · exact H.group_nodup
  · exact H.act_nodup

/-- The target of a direct transfer (R82). -/
theorem directTarget_eq (f : FmtB) (pc : DWord) : directTarget f pc =
    ((((pc.toNat / 64 : Nat) : Int) * 64 + f.loff.toInt * 64 + (f.slot.toNat : Int)) % 2 ^ 64).toNat := rfl

/-- The lanes that a transfer moves, all to one target. -/
def Iss.allTo (x : Iss) (target : Nat) : List (Nat × Nat) := x.moving.map (fun l => (l, target))

/-- The lanes that a transfer moves, each to the PC in its register, or all to the representative's (R75). -/
def Iss.back (x : Iss) (code : RegCode) : List (Nat × Nat) := x.moving.map (fun l => (l, x.rd (if x.uni then x.first else l) code 2))

/-- The link of a call, in the register of each executing lane (R393). -/
def Iss.link (x : Iss) (code : RegCode) (w : Wave) : Wave := x.lanes.foldl (fun w l => w.writeReg l code.toNat 2 (nextPc x.pc).toNat) w

/-- `CALL` whose target passes its check (R393). -/
theorem semCall_ok {f : FmtB} {x : Iss} {s : State} (h : TargetsOk x s (x.allTo (directTarget f x.pc))) :
    semCall f x s = goTo x (s.updWave x.wid (x.link f.a)) (x.allTo (directTarget f x.pc)) := by
  have hgo := transfer_ok h (fun s => goTo x (s.updWave x.wid (x.link f.a)) (x.allTo (directTarget f x.pc)))
  rw [← hgo]
  rfl

/-- `RET` (R472). -/
theorem semRet_ok {f : FmtB} {x : Iss} (h : f.u = true → f.a.toNat ≠ 511 → x.uniformFault f.a 2 = none) (s : State) :
    semRet f x s = goTo x s (x.back f.a) :=
  uniformB_same h _

/-- `JMPI` whose targets pass their checks (R438). -/
theorem semJmpi_ok {f : FmtB} {x : Iss} {s : State} (h : f.u = true → f.a.toNat ≠ 511 → x.uniformFault f.a 2 = none)
    (ht : TargetsOk x s (x.back f.a)) : semJmpi f x s = goTo x s (x.back f.a) :=
  (uniformB_same h _).trans (transfer_ok ht _)

/-- Settles O29: each instruction's checks pass, and then its threads go to their targets. -/
theorem callsAndReturns : Obligations.CallsAndReturns := by
  unfold Obligations.CallsAndReturns
  intro f s x target
  have htarget : target = directTarget f x.pc := (directTarget_eq f x.pc).symm
  clear_value target
  subst htarget
  intro moving call back same
  refine ⟨?call, ?ret, ?jmpi⟩
  case call =>
    intro H htgt
    exact transferred_of_goTo H (semCall f) (pre := x.link f.a) (fun w => (Wave.foldl_writeReg_frame _ _ _ _ w).1)
      (Wave.foldl_writeReg_frame _ _ _ _ x.w).2 (H.moving_nodup _) (semCall_ok htgt)
  case ret =>
    intro H hsame
    exact transferred_of_goTo H (semRet f) (pre := fun w => w) (fun _ => rfl) (fun _ => rfl) (H.moving_nodup _)
      ((semRet_ok hsame s).trans (by rw [updWave_id]; rfl))
  case jmpi =>
    intro H hsame htgt
    exact transferred_of_goTo H (semJmpi f) (pre := fun w => w) (fun _ => rfl) (fun _ => rfl) (H.moving_nodup _)
      ((semJmpi_ok hsame htgt).trans (by rw [updWave_id]; rfl))

end Sys2Proof.Machine
end

section
/-!
SUPPORT. Team barriers: the operation that `BAR` and `BAR.ARV` record, and the threads that wait (R387 to R389).
-/
namespace Sys2Proof.Machine

/-- An instruction with nothing in its way whose active threads wait at it. -/
theorem issue_wait {i : Instr} {h : Hdr} {s : State} {x : Iss} {v : Wait} (body : Iss → State → Res) (H : Issues i h s x)
    (hb : body x s = .wait v) : issue i h body s = .next (drained s
      ((advance s x.wid (x.group.filter (fun l => !x.act.contains l)) x.pc).block x.wid x.act v)) := by
  rw [issue_clear body H, hb]
  rfl

section
variable {f : FmtR} {x : Iss} {s : State} {t : Team} (hl : x.w.tlevel = 0) (ht : s.team? x.wid.team = some t)

/-- The barrier, the arrivals asked of the engines and the participants that a `BAR` names (R387, R388). -/
def barNumber (f : FmtR) : Nat := f.fn.toNat % 16
def barEngines (f : FmtR) (x : Iss) : Nat := if f.a.toNat = 511 then 0 else x.rd x.first f.a 1 % 2 ^ 32
def barMask (f : FmtR) (x : Iss) (t : Team) : Nat := x.optS f.b t.everyone.toNat % 2 ^ 33

/-- A barrier with a wave's operation on it recorded, and for `.ARV` the threads that have executed it (R389). -/
def notedOn (b : TeamBar) (x : Iss) (m a : Nat) (arv : Bool) : TeamBar :=
  let seen := match b.arvs.find? (fun p => p.1 == x.wid.wave) with | some p => p.2 | none => 0
  { b with
    ops := b.ops.filter (fun p => p.1 != x.wid.wave) ++ [(x.wid.wave, m, a)]
    arvs := if arv then b.arvs.filter (fun p => p.1 != x.wid.wave) ++ [(x.wid.wave, seen ||| x.actMask)] else b.arvs }

/-- A `BAR` or `BAR.ARV` noted on its team's barrier. -/
def State.noteBar (s : State) (f : FmtR) (x : Iss) (t : Team) (arv : Bool) : State := s.updTeam x.wid.team (fun u =>
  u.setBar (barNumber f) (notedOn (u.bar (barNumber f)) x (barMask f x t) (barEngines f x) arv))

/-- The field of the engines' arrivals as the instruction reads it. -/
theorem barEngines_eq (f : FmtR) (x : Iss) : (if f.a.toNat == 511 then 0 else x.rd x.first f.a 1 % 2 ^ 32) = barEngines f x := by
  simp only [barEngines, beq_iff_eq]

include hl ht

/-- `BAR` outside a handler (R387, R389). -/
theorem semBar_waits : semBar f false x s = .jump (((advance (s.noteBar f x t false) x.wid
    (x.group.filter (fun l => !x.act.contains l)) x.pc).block x.wid x.act (.bar (barNumber f) false)).settle x.wid) := by
  rw [semBar, outsideHandler_zero hl]
  simp only [ht, barEngines_eq, Bool.false_and, Bool.false_eq_true, if_false]
  rfl

/-- `BAR.ARV` outside a handler, of a wave that has not arrived in this phase (R387, R389). -/
theorem semBarArv_goesOn (harr : (t.bar (barNumber f)).arr.getLsbD x.wid.wave = false) :
    semBar f true x s = .jump ((advance (s.noteBar f x t true) x.wid x.group x.pc).settle x.wid) := by
  unfold barNumber at harr
  rw [semBar, outsideHandler_zero hl]
  simp only [ht, barEngines_eq, harr, Bool.and_false, Bool.false_eq_true, if_false, if_true]
  rfl

/-- `BAR.ARV` outside a handler, of a wave that has arrived in this phase already (R389). -/
theorem semBarArv_again (harr : (t.bar (barNumber f)).arr.getLsbD x.wid.wave = true) :
    semBar f true x s = .wait (.barPhase (barNumber f)) := by
  unfold barNumber at harr
  rw [semBar, outsideHandler_zero hl]
  simp only [ht, harr, Bool.and_true, if_true]
  rfl

end

/-- Settles O32: `BAR` waits, and `BAR.ARV` goes on or waits by whether its wave has arrived in this phase. -/
theorem teamBarriers : Obligations.TeamBarriers := by
  unfold Obligations.TeamBarriers
  intro f s x t n a m note hl ht
  exact ⟨fun H => issue_jump (semBar f false) H (semBar_waits hl ht),
    fun H harr => issue_jump (semBar f true) H (semBarArv_goesOn hl ht harr),
    fun H harr => issue_wait (semBar f true) H (semBarArv_again hl ht harr)⟩

end Sys2Proof.Machine
end

section
/-!
SUPPORT. Exceptions: the entry of a handler, the kill of a context that can take none, and the return (R337, R338, R341, R343, R345).
-/
namespace Sys2Proof.Machine

theorem Wave.lanes_nodup (w : Wave) : w.lanes.Nodup := by
  unfold Wave.lanes
  split
  · exact List.pairwise_singleton _ 0
  · exact List.nodup_range

/-! ### Entry -/

section
variable (w : Wave) (cause : Nat) (eng : Bool) (mask : LaneMask) (addr : Nat)

/-- The bank that an exception fills (R338). -/
def trapBank : Bank := { cause := cause, eng := eng, addr := BitVec.ofNat 64 addr, mask := mask }

/-- A thread in lane `l` of a wave as the entry of a handler at `pc` leaves it, from level 0 or from a higher one (R338). -/
def Thread.enter (t : Thread) (l : Nat) (mask : LaneMask) (first : Bool) (pc : DWord) : Thread :=
  let t := if first then { t with tret1 := t.pc, saved1 := t.run } else { t with tret2 := t.pc, saved2 := t.run }
  { t with run := .ready, pc := pc, loop := [], seen := if mask.getLsbD l then [] else t.seen }

/-- The entry changes of a wave its threads, one bank, one fairness count, and where the wave issues (R338). -/
theorem Wave.enter_eq : w.enter cause eng mask addr = { w with
    threads := (w.updThreads w.lanes (fun l t => t.enter l mask (w.tlevel == 0) w.handler)).threads
    bank1 := if w.tlevel = 0 then trapBank cause eng mask addr else w.bank1
    bank2 := if w.tlevel = 0 then w.bank2 else trapBank cause eng mask addr
    fair1 := if w.tlevel = 0 then w.fair else w.fair1
    fair2 := if w.tlevel = 0 then w.fair2 else w.fair
    tlevel := w.tlevel + 1, fair := 0, bpc := w.handler, firstFetch := true, entry := false, hold := none, tskid := 0, halt := .running } := by
  unfold Wave.enter
  dsimp only
  rw [Wave.updThreads_eq]
  by_cases h : w.tlevel = 0
  · simp only [h, beq_self_eq_true, if_true]; rfl
  · have hb : (w.tlevel == 0) = false := by simpa using h
    simp only [h, hb, Bool.false_eq_true, if_false]; rfl

@[simp] theorem Wave.enter_id : (w.enter cause eng mask addr).id = w.id := by
  rw [Wave.enter_eq]

/-- A thread of the wave after the entry. -/
theorem Wave.thread_enter {l : Nat} (hl : l ∈ w.lanes) :
    (w.enter cause eng mask addr).thread l = (w.thread l).enter l mask (w.tlevel == 0) w.handler := by
  rw [Wave.enter_eq]
  show (w.updThreads w.lanes _).thread l = _
  rw [Wave.thread_updThreads w _ w.lanes_nodup, if_pos hl]

end

@[simp] theorem Wave.haltIn_id (w : Wave) (halted : Bool) : (w.haltIn halted).id = w.id := by
  unfold Wave.haltIn Wave.haltBy
  repeat' split
  all_goals rfl

section
variable {s : State} {wid : WaveId} {w : Wave} {cause addr : Nat} {mask : LaneMask} {eng : Bool}

/-- The team of a wave halts for it: the other waves of the team skid or stop (R334, R338). -/
def State.haltFor (s : State) (wid : WaveId) : State :=
  let before := match s.team? wid.team with | some t => t.halted.isSome | none => false
  { s.updTeam wid.team (fun t => { t with halted := some wid.wave }) with
    waves := s.waves.map (fun x => if x.id.team = wid.team ∧ x.id ≠ wid then x.haltIn before else x) }

/-- The offers of a wave that enters a handler are gone; what converting entries hold of it stays (R320, R338). -/
def State.dropOffers (s : State) (wid : WaveId) : State :=
  { s with waiting := s.waiting.filter (fun x => x.wave ≠ wid || x.nums.length ≥ 4) }

/-- An exception with a handler, below level 2 (R338, R341). -/
theorem takeTrap_enters (hw : s.wave? wid = some w) (hlevel : w.tlevel < 2) (hh : w.handler ≠ 0) :
    s.takeTrap wid cause eng mask addr =
      ((if w.tlevel = 0 then s.haltFor wid else s).dropOffers wid).updWave wid (fun w => w.enter cause eng mask addr) := by
  have hlow : ¬ w.tlevel ≥ 2 := by omega
  unfold State.takeTrap
  simp only [hw, if_neg hlow, if_neg hh]
  rfl

/-- A halt leaves the wave that it is for as it was. -/
theorem State.wave?_haltFor : (s.haltFor wid).wave? wid = s.wave? wid := by
  let stop (x : Wave) : Wave :=
    if x.id.team = wid.team ∧ x.id ≠ wid then x.haltIn (match s.team? wid.team with | some t => t.halted.isSome | none => false) else x
  have hid : ∀ x, (stop x).id = x.id := fun x => by
    show (if _ then x.haltIn _ else x).id = x.id
    split
    · exact Wave.haltIn_id x _
    · rfl
  show ({ s with waves := s.waves.map stop } : State).wave? wid = _
  rw [State.wave?_mapWaves s stop hid]
  cases hw : s.wave? wid with
  | none => rfl
  | some w =>
    have hself : w.id = wid := State.wave?_id hw
    exact congrArg some (if_neg (fun h => h.2 hself))

/-- The wave that takes an exception is the wave that has entered its handler. -/
theorem wave?_takeTrap (hw : s.wave? wid = some w) (hlevel : w.tlevel < 2) (hh : w.handler ≠ 0) :
    (s.takeTrap wid cause eng mask addr).wave? wid = some (w.enter cause eng mask addr) := by
  rw [takeTrap_enters hw hlevel hh]
  refine State.wave?_updWave_self _ (fun w => w.enter_id cause eng mask addr) ?_
  by_cases h : w.tlevel = 0
  · rw [if_pos h]
    exact State.wave?_haltFor.trans hw
  · rw [if_neg h]
    exact hw

/-- A kill of a live context writes its status block and stops it (R346). -/
theorem killCtx_live {asid : Nat} {c : Ctx} (hc : s.ctx? asid = some c) (hk : c.killed = false) (kcause : Nat) (r : StatusRec) :
    s.killCtx asid kcause r = (s.writeStatus asid r 2 kcause).stopContext asid := by
  simp only [State.killCtx, hc, hk, Bool.false_eq_true, if_false]

/-- The PC of a cause: 0 for kind E (R345). -/
theorem causePc_eq (w : Wave) (eng : Bool) (cause : Nat) (m : LaneMask) (f : Thread → DWord) :
    causePc w eng cause m f = if eng = true ∧ cause ≠ cWatchdog then 0 else pcOfMask w m f := by
  simp only [causePc, Bool.and_eq_true, bne_iff_ne]

end

/-- Settles O35: the wave enters its handler from level 0 or 1, and without one, or from level 2, its context is killed. -/
theorem trapEntry : Obligations.TrapEntry := by
  unfold Obligations.TrapEntry
  refine ⟨?enters, ?dies⟩
  case enters =>
    intro s wid w cause addr mask eng u bank hw _ hlevel hh
    have hu : u = _ := takeTrap_enters hw hlevel hh
    refine ⟨w.enter cause eng mask addr, wave?_takeTrap hw hlevel hh, ?_⟩
    rw [Wave.enter_eq]
    refine ⟨rfl, rfl, rfl, rfl, rfl, rfl, rfl, rfl, fun l hl => ?thread, ?mem, fun h0 t ht _ => ?team, fun h1 => ?other⟩
    case thread =>
      rw [← Wave.enter_eq, Wave.thread_enter w cause eng mask addr hl]
      by_cases h0 : w.tlevel = 0
      · simp [Thread.enter, h0]
      · simp [Thread.enter, h0]
    case mem =>
      rw [hu]
      split <;> rfl
    case team =>
      rw [hu, if_pos h0]
      exact ⟨_, State.team?_updTeam_self (fun t => { t with halted := some wid.wave }) (fun _ => rfl) ht, rfl⟩
    case other =>
      have h0 : ¬ w.tlevel = 0 := by omega
      rw [hu, if_neg h0]
      exact ⟨rfl, fun k hk => State.wave?_updWave_ne _ (fun w => w.enter_id cause eng mask addr) hk⟩
  case dies =>
    intro s wid w c cause addr mask eng pc dies hw hc hk
    refine ⟨fun hlevel hh => ?low, fun hlevel => ?high⟩
    case low =>
      have hlow : ¬ w.tlevel ≥ 2 := by omega
      show s.takeTrap wid cause eng mask addr = _
      unfold State.takeTrap
      simp only [hw, if_neg hlow, if_pos hh, killCtx_live hc hk, causePc_eq]
      rfl
    case high =>
      show s.takeTrap wid cause eng mask addr = _
      unfold State.takeTrap
      simp only [hw, if_pos hlevel, killCtx_live hc hk, causePc_eq]
      rfl

/-! ### Return -/

/-- The run state to which a thread returns: a parked one whose miss has resolved is ready (R343). -/
def Run.back : Run → Run
  | .parked _ _ .resolved => .ready
  | r => r

theorem Run.back_of_unresolved {r : Run} (h : ∀ on va, r ≠ .parked on va .resolved) : r.back = r := by
  unfold Run.back
  split
  · exact absurd rfl (h _ _)
  · rfl

/-- A thread as a return from level 2 or level 1 leaves it (R343, R415). -/
def Thread.leave (t : Thread) (lvl2 : Bool) : Thread :=
  { t with
    pc := if lvl2 then t.tret2 else t.tret1
    run := if t.run = .ended then .ended else (if lvl2 then t.saved2 else t.saved1).back
    loop := []
    seen := if lvl2 then t.seen else t.seen.filter (fun b => b.1 == (if lvl2 then t.tret2 else t.tret1)) }

/-- A thread of the wave after the return. -/
theorem Wave.thread_leave (w : Wave) {l : Nat} (hl : l ∈ w.lanes) : w.leave.thread l = (w.thread l).leave (w.tlevel == 2) := by
  unfold Wave.leave
  show (w.updThreads w.lanes _).thread l = _
  rw [Wave.thread_updThreads w _ w.lanes_nodup, if_pos hl]
  rfl

/-- A return leaves the registers and `FLAGS` of its wave alone (R343). -/
theorem Wave.leave_frame (w : Wave) : w.leave.tlevel = w.tlevel - 1 ∧ w.leave.s = w.s ∧ w.leave.v = w.v ∧ w.leave.flags = w.flags := by
  unfold Wave.leave
  dsimp only
  rw [Wave.updThreads_eq]
  exact ⟨rfl, rfl, rfl, rfl⟩

/-- Settles O36: the wave's fields, then each thread by its saved PC and run state. -/
theorem trapReturn : Obligations.TrapReturn := by
  unfold Obligations.TrapReturn
  intro w _
  obtain ⟨hlevel, hs, hv, hflags⟩ := w.leave_frame
  refine ⟨hlevel, hs, hv, hflags, fun l hl => ?_⟩
  rw [Wave.thread_leave w hl]
  refine ⟨by simp [Thread.leave], rfl, fun r hr hlive hmiss => ?_, fun hended => if_pos hended⟩
  have hsaved : (if (w.tlevel == 2) = true then (w.thread l).saved2 else (w.thread l).saved1) = r := by
    simpa only [beq_iff_eq] using hr
  show (if (w.thread l).run = .ended then Run.ended else Run.back _) = r
  rw [if_neg hlive, hsaved, Run.back_of_unresolved hmiss]

end Sys2Proof.Machine
end

section
/-!
SUPPORT. The special registers of a wave, read after they were written (R482 to R484).
-/
namespace Sys2Proof.Machine

section
variable (s : State) (w : Wave) (l : Nat)

/-! ### The registers of a wave by number (R482) -/

theorem State.special_flags : s.special w l 0x001 = w.flags.toNat := rfl
theorem State.special_srkey : s.special w l 0x002 = w.srkey.toNat := rfl
theorem State.special_dslack : s.special w l 0x005 = w.dslack.toNat := rfl
theorem State.special_prio : s.special w l 0x006 = w.prioGrid * 256 + w.prioLevel := rfl
theorem State.special_handler : s.special w l 0x009 = w.handler.toNat := rfl

end

/-- The wave after a write of one of its own registers. -/
theorem State.wave?_of_write {s t : State} {wid : WaveId} {w v : Wave} {g : Wave → Wave} (hw : s.wave? wid = some w)
    (ht : some (s.updWave wid g) = some t) (hv : t.wave? wid = some v) (hid : ∀ x, (g x).id = x.id) : v = g w := by
  obtain rfl := Option.some.inj ht
  exact Option.some.inj (hv.symm.trans (State.wave?_updWave_self g hid hw))

/-- Settles O39: each of the five registers is a field of the wave, which the write sets. -/
theorem specialWriteThenRead : Obligations.SpecialWriteThenRead := by
  intro s t w v wid num n l hw _ hn hnum hwrite hv
  have hsame : (BitVec.ofNat 64 n).toNat = n := by rw [BitVec.toNat_ofNat, Nat.mod_eq_of_lt hn]
  simp only [List.mem_cons, List.not_mem_nil, or_false] at hnum
  obtain rfl | rfl | rfl | rfl | rfl := hnum
  case inl =>
    rw [writeSpecial_flags hw] at hwrite
    rw [State.wave?_of_write hw hwrite hv (fun _ => rfl), State.special_flags]
    exact BitVec.toNat_ofNat n 6
  case inr.inl =>
    rw [writeSpecial_srkey hw] at hwrite
    rw [State.wave?_of_write hw hwrite hv (fun _ => rfl), State.special_srkey]
    exact hsame
  case inr.inr.inl =>
    rw [writeSpecial_dslack hw] at hwrite
    rw [State.wave?_of_write hw hwrite hv (fun _ => rfl), State.special_dslack]
    exact hsame
  case inr.inr.inr.inl =>
    rw [writeSpecial_prio hw] at hwrite
    obtain ⟨_, hup⟩ := Option.ite_none_right_eq_some.mp hwrite
    rw [State.wave?_of_write hw hup hv (fun _ => rfl), State.special_prio]
    rfl
  case inr.inr.inr.inr =>
    rw [writeSpecial_handler hw] at hwrite
    obtain ⟨_, hup⟩ := Option.ite_none_left_eq_some.mp hwrite
    rw [State.wave?_of_write hw hup hv (fun _ => rfl), State.special_handler]
    exact hsame

end Sys2Proof.Machine
end

section
/-!
SUPPORT. `CTEST` and `CWAIT` whose reads nothing stands in the way of (R403 to R405).
-/
namespace Sys2Proof.Machine

/-! ### The value of a completion object in each lane -/

/-- The value that a lane reads, in the team's view. -/
def State.objectAt (s : State) (x : Iss) (va : Nat → Nat) (pas : Nat → List (Nat × Nat)) (l : Nat) : Nat :=
  ofBytes (s.viewBytes (s.viewOf x.wid) (va l) (pas l))

/-- A group of which no access has been held has no answer to take (R320). -/
theorem answers_noneHeld {x : Iss} {s : State} (h : noneHeld x) : x.answers s = [] := filterMap_none fun l hl => by
  split
  case h_1 id uni hrun =>
    obtain ⟨hf, ht⟩ := h l hl id
    cases uni
    · exact absurd hrun hf
    · exact absurd hrun ht
  case h_2 => rfl

/-- No lane's address is null (R61). -/
theorem notNull_accs {x : Iss} {va : Nat → Nat} {n : Nat} (h : ∀ l ∈ x.lanes, va l ≠ 0) :
    (x.accs va n).any (fun a => a.va == 0) = false :=
  any_false (List.forall_mem_map.mpr fun l hl => by simpa using h l hl)

section
variable {f : FmtM} {off : Bool} {enough : Nat → Nat → Bool} {least : Nat → Nat} {x : Iss} {s : State} {c : Ctx}
  {pas : Nat → List (Nat × Nat)} {va : Nat → Nat}

/-- The lanes whose object has not reached the threshold. -/
def State.unmetLanes (s : State) (x : Iss) (enough : Nat → Nat → Bool) (va : Nat → Nat) (pas : Nat → List (Nat × Nat)) : List Nat :=
  x.lanes.filter (fun l => !enough l (s.objectAt x va pas l))

/-- The read of completion objects: each lane's object goes to its register where it suffices, and the other lanes wait. -/
theorem semObject_reads (hva : va = fun l => baseAddr x l f off) (hheld : noneHeld x) (hchan : x.atChannel s = false)
    (hr : Reaches x s (x.accs va 8) .read (fun _ _ => false) pas c) (hread : Readable s (x.accs va 8) pas)
    (hat : ∀ l ∈ x.lanes, va l ≠ 0 ∧ va l % 8 = 0) :
    let unmet := s.unmetLanes x enough va pas
    semObject f off enough least x s = .go ((unmet.foldl
        (fun t l => t.block x.wid (if x.uni then x.act else [l]) (.object (va l) (least l)))
        (s.updWave x.wid (fun w => (x.lanes.filter (fun l => enough l (s.objectAt x va pas l))).foldl
          (fun w l => w.writeReg l f.ds.toNat 2 (s.objectAt x va pas l)) w))).keepSlots x.w.core x.wid (s.toks x.w.core (x.accs va 8)))
      (if x.uni && !unmet.isEmpty then x.act else unmet) := by
  intro unmet
  have has : x.lanes.map (fun l => ({ lane := l, va := baseAddr x l f off, n := 8 } : LaneAcc)) = x.accs va 8 := by rw [hva]; rfl
  have hnull := notNull_accs (n := 8) fun l hl => (hat l hl).1
  have halign : x.misaligned 8 (x.accs va 8) = none := misaligned_accs fun l hl => (hat l hl).2
  have hsound := readable_none (x := x) hread
  simp only [semObject, answers_noneHeld hheld, has, hnull, halign, hchan, hr.phase_allGo, allGo_s, allGo_go, allGo_stay, allGo_held,
    slots_allGo, hsound, dataCheck, dataCheckTo, Bool.false_eq_true, if_false, List.foldl_nil, List.map_nil, List.append_nil,
    List.nil_append, List.isEmpty_nil, Bool.and_true]
  simp only [Iss.accs, List.map_map, List.filter_map, List.foldl_map, List.isEmpty_map, Function.comp_def, List.map_id']
  rfl

/-- Where every lane's object suffices, all write and the group goes on. -/
theorem semObject_met (hva : va = fun l => baseAddr x l f off) (hheld : noneHeld x) (hchan : x.atChannel s = false)
    (hr : Reaches x s (x.accs va 8) .read (fun _ _ => false) pas c) (hread : Readable s (x.accs va 8) pas)
    (hat : ∀ l ∈ x.lanes, va l ≠ 0 ∧ va l % 8 = 0) (hmet : ∀ l ∈ x.lanes, enough l (s.objectAt x va pas l) = true) :
    semObject f off enough least x s = .go ((s.updWave x.wid (fun w => x.lanes.foldl
      (fun w l => w.writeReg l f.ds.toNat 2 (s.objectAt x va pas l)) w)).keepSlots x.w.core x.wid (s.toks x.w.core (x.accs va 8))) [] := by
  have hall : x.lanes.filter (fun l => enough l (s.objectAt x va pas l)) = x.lanes := List.filter_eq_self.mpr hmet
  have hunmet : s.unmetLanes x enough va pas = [] := List.filter_eq_nil_iff.mpr fun l hl => by simp [hmet l hl]
  rw [semObject_reads hva hheld hchan hr hread hat, hunmet, hall]
  simp only [List.foldl_nil, List.isEmpty_nil, Bool.not_true, Bool.and_false, Bool.false_eq_true, if_false]

end

/-- The threshold as the obligation writes it (R403). -/
theorem waitFor_eq (x : Iss) (f : FmtM) (l : Nat) : waitFor x f l = if f.ai.toNat = 511 then f.off.toNat else x.rd l f.ai 2 := by
  simp only [waitFor, beq_iff_eq]

/-- Settles O43: `CTEST` asks nothing of the objects; the lanes of a `CWAIT` whose object is below the threshold stay. -/
theorem completionObjects : Obligations.CompletionObjects := by
  intro f s x c pas
  refine ⟨?ctest, ?met, ?unmet⟩
  case ctest =>
    rintro H ⟨hheld, hchan, hr, hread, hat⟩
    exact issue_go _ H (semObject_met rfl hheld hchan hr hread hat fun _ _ => rfl)
  case met =>
    rintro H ⟨hheld, hchan, hr, hread, hat⟩ hmost
    refine issue_go _ H (semObject_met rfl hheld hchan hr hread hat fun l hl => decide_eq_true ?_)
    rw [waitFor_eq]
    exact hmost l hl
  case unmet =>
    rintro H ⟨hheld, hchan, hr, hread, hat⟩ huni -
    refine issue_go _ H ((semObject_reads rfl hheld hchan hr hread hat).trans ?_)
    simp only [State.unmetLanes, waitFor_eq, huni, Bool.false_and, Bool.false_eq_true, if_false, ← decide_not, Nat.not_le]
    rfl

end Sys2Proof.Machine
end

section
/-!
SUPPORT. The instructions of the placement engine once their checks have passed (R315, R319, R461 to R465).
-/
namespace Sys2Proof.Machine

section
variable {f : FmtX} {x : Iss} {s s' : State} {c : Ctx} {core w d : Nat} {pas : Nat → List (Nat × Nat)}

/-- The entry index and the address of an entry or of its new shard's descriptor are the same in every lane, and the address is one that
may be read and written (R461, R463). -/
structure EntryAsked (f : FmtX) (x : Iss) : Prop where
  same : x.uniformFaults [(f.a, 1), (f.b, 2)] = none
  index : entryIndex f x < 4096
  notNull : x.uval f.b 2 ≠ 0
  aligned : x.uval f.b 2 % 64 = 0

/-- A context's snapshot of the descriptor of an entry's shard (R315). -/
def Ctx.shardOf (c : Ctx) (idx : Nat) : Tensor :=
  match c.shards.find? (fun p => p.1 == idx) with | some p => tensorOf p.2.toNat | none => tensorOf 0

/-! ### `PLACE.SET` -/

/-- An entry and the descriptor of its shard pass the checks of R315. -/
structure EntryReady (x : Iss) (s : State) (c : Ctx) (idx w d : Nat) : Prop where
  shard : (pentryOf (BitVec.ofNat 512 w)).shard ≠ 0 ∧ (pentryOf (BitVec.ofNat 512 w)).shard % 64 = 0
  still : (pentryOf (c.entry idx)).conv = false
  image : imageRefused c (BitVec.ofNat 512 w) = false
  load : s.uload x (pentryOf (BitVec.ofNat 512 w)).shard 64 = .ok d
  fits : shardRefused c idx (BitVec.ofNat 512 w) (BitVec.ofNat 512 d) = false
  base : (tensorOf (BitVec.ofNat 512 d).toNat).base ≠ 0

/-- `PLACE.SET` of a ready entry installs it with its descriptor. -/
theorem semPlaceSet_installs (hctx : s.ctx? (asidOf x.wid) = some c) (hplace : s.target x f true false = some core)
    (A : EntryAsked f x) (hload : s.uload x (x.uval f.b 2) 64 = .ok w) (E : EntryReady x s c (entryIndex f x) w d) :
    semPlaceSet f x s =
      .go (s.updCtx c.asid (fun c => c.setEntry (entryIndex f x) (BitVec.ofNat 512 w) (BitVec.ofNat 512 d))) [] := by
  obtain ⟨⟨hshard, halign⟩, hstill, himage, hdesc, hfits, hbase⟩ := E
  simp only [semPlaceSet, A.same, hplace, if_neg (Nat.not_le.mpr A.index), beq_iff_eq, A.notNull, A.aligned, hctx, hload, himage, halign,
    hstill, hshard, hdesc, hfits, hbase, bne_self_eq_false, Bool.or_self, Bool.false_eq_true, if_false]

/-! ### `PLACE.GET` -/

/-- What reaches memory for a group does so for the group taken as uniform: the accesses are the same. -/
theorem Reaches.uniform {as : List LaneAcc} {acc : Acc} {place : Ctx → LaneAcc → Bool} (hr : Reaches x s as acc place pas c) :
    Reaches { x with uni := true } s as acc place pas c := ⟨⟨hr.ctx, hr.each⟩, hr.room⟩

/-- `PLACE.GET` whose store nothing stands in the way of writes the entry's 64 bytes. -/
theorem semPlaceGet_stores (hctx : s.ctx? (asidOf x.wid) = some c) (hplace : s.target x f true false = some core)
    (A : EntryAsked f x) (hseen : x.seen x.first = [])
    (hr : Reaches x s [{ lane := x.first, va := x.uval f.b 2, n := 64 }] .write (fun c a => c.needsMcst a.va a.n) pas c)
    (hw : Writable s [{ lane := x.first, va := x.uval f.b 2, n := 64 }] pas) :
    semPlaceGet f x s = .go ((s.laneWrite x.wid (x.uval f.b 2) (pas x.first) (toBytes 64 (c.entry (entryIndex f x)).toNat)).noteStores x
      (allGo s [{ lane := x.first, va := x.uval f.b 2, n := 64 }] pas)) [] := by
  have hpart := partialFault_none (x := { x with uni := true }) hw
  simp only [semPlaceGet, A.same, hplace, if_neg (Nat.not_le.mpr A.index), beq_iff_eq, A.notNull, A.aligned, hctx, hseen,
    hr.uniform.phase_allGo, allGo_s, allGo_go, allGo_held, allGo_stay, hpart, bne_self_eq_false, Bool.false_eq_true, if_false,
    List.isEmpty_nil, Bool.not_true, List.foldl_nil, if_true]
  rfl

/-! ### `PLD.CONV` -/

/-- The states, the object and the new shard's descriptor of a `PLD.CONV` pass the checks of R319 and R463. -/
structure ConvReady (f : FmtX) (x : Iss) (s : State) (e : PEntry) (old : Tensor) (d : Nat) : Prop where
  word : x.uval f.c 2 / 2 ^ 15 = 0
  states : ∀ k ∈ demandStates (x.uval f.c 2), stateOk k = true
  unnamed : ∀ k < 3, (demandStates (x.uval f.c 2)).getD k 0 = 24 → e.st.getD k 0 = 24
  obj : x.uval f.d 2 ≠ 0 ∧ x.uval f.d 2 % 8 = 0
  load : s.uload x (x.uval f.b 2) 64 = .ok d
  tensor : tensorBad (BitVec.ofNat 512 d).toNat = false
  shape : (tensorOf (BitVec.ofNat 512 d).toNat).rank = old.rank ∧ (tensorOf (BitVec.ofNat 512 d).toNat).fmt = old.fmt
  agrees : (e.withStates (demandStates (x.uval f.c 2))).agrees (tensorOf (BitVec.ofNat 512 d).toNat) = true
  base : (tensorOf (BitVec.ofNat 512 d).toNat).base ≠ 0

/-- What the issuing wave does of an increment made on its behalf: it goes on once the increment is made. -/
def Iss.completed (x : Iss) (obj : Nat) : Behalf → Res
  | .made t => .go t []
  | .heldOn t [] => .go t x.act
  | .heldOn t on => .go (t.park x.wid true (x.act.map (fun l => (l, obj, on)))) x.act
  | .failed t cause va => .go (t.postCause x.wid.team (some x.wid.wave) cause va 0) []

/-- A ready `PLD.CONV` completes at once where the entry has the states asked for, and else is a demand. -/
theorem semPldConv_ready (hctx : s.ctx? (asidOf x.wid) = some c) (hplace : s.target x f true false = some core) (A : EntryAsked f x)
    (C : ConvReady f x s (pentryOf (c.entry (entryIndex f x))) (c.shardOf (entryIndex f x)) d) :
    semPldConv f x s =
      if demandStates (x.uval f.c 2) = (pentryOf (c.entry (entryIndex f x))).st then
        x.completed (x.uval f.d 2) (s.increment c.asid (.wave x.wid) (pldWork c.asid (entryIndex f x)) (s.viewOf x.wid) (x.uval f.d 2) 1)
      else .go ((s.demand c (entryIndex f x) (demandStates (x.uval f.c 2)) (x.uval f.b 2) (BitVec.ofNat 512 d) (.wave x.wid) (x.uval f.d 2)
        (s.levelOf x.wid.team.grid)).owe x.wid.team true) [] := by
  obtain ⟨hword, hstates, hunnamed, ⟨onull, oalign⟩, hload, htensor, ⟨hrank, hfmt⟩, hagrees, hbase⟩ := C
  have hbad : (demandStates (x.uval f.c 2)).any (fun k => !stateOk k) = false := any_false fun k hk => by rw [hstates k hk]; rfl
  have hkept : (List.range 3).any (fun k => (demandStates (x.uval f.c 2)).getD k 0 == 24 &&
      (pentryOf (c.entry (entryIndex f x))).st.getD k 0 != 24) = false :=
    any_false fun k hk => by simpa using hunnamed k (List.mem_range.mp hk)
  have hnull : (x.uval f.b 2 == 0 || x.uval f.d 2 == 0) = false := by simp [A.notNull, onull]
  simp only [semPldConv, A.same, hplace, hctx, if_neg (Nat.not_le.mpr A.index), hword, hbad, hkept, beq_iff_eq, hnull, A.aligned,
    oalign, hload, htensor, hagrees, hbase, bne_self_eq_false, Bool.or_self, Bool.not_true, Bool.false_eq_true, if_false]
  unfold Ctx.shardOf at hrank hfmt
  cases hfind : c.shards.find? (fun p => p.1 == entryIndex f x) <;>
    simp only [hfind] at hrank hfmt ⊢ <;>
    simp only [hrank, hfmt, bne_self_eq_false, Bool.or_self, Bool.false_eq_true, if_false] <;>
    rfl

/-! ### `PLD.RED` -/

/-- With no axis of state P there is nothing to combine: the element is the package's own (R465). -/
theorem redValue_own {e : PEntry} {t : Tensor} (hp : ∀ k < 3, isP (e.st.getD k 0) = false) (free mine : Nat) :
    redValue c e t free mine = mine := by
  have haxes : e.partialAxes = [] := List.filter_eq_nil_iff.mpr fun k hk => by
    rw [hp k (List.mem_range.mp hk)]
    exact Bool.false_ne_true
  simp only [redValue, haxes, List.reverse_nil, alongAxes, List.isEmpty_nil, elemWord, if_true, BEq.rfl]

/-- `PLD.RED` whose reads nothing stands in the way of delivers each lane's own element. -/
theorem semPldRed_own (hctx : s.ctx? (asidOf x.wid) = some c) (hplace : s.target x f true false = some core)
    (hsame : x.uniformFault f.a 1 = none) (hindex : entryIndex f x < 4096) (hfmt : (c.shardOf (entryIndex f x)).fmt ∈ [10, 2, 6])
    (halign : ∀ l ∈ x.lanes, x.rd l f.b 2 % 4 = 0)
    (hr : Reaches x s (x.accs (fun l => x.rd l f.b 2) 4) .read
      (fun _ a => ((c.shardOf (entryIndex f x)).elementAt a.va).isNone) pas c)
    (hread : Readable s (x.accs (fun l => x.rd l f.b 2) 4) pas)
    (hp : ∀ k < 3, isP ((pentryOf (c.entry (entryIndex f x))).st.getD k 0) = false)
    (hreach : ∀ r ∈ (pentryOf (c.entry (entryIndex f x))).partners (field c.drank 11 0), s.reaches c r = true) :
    semPldRed f x s = .go (({ s with fresh := s.fresh + 131072 } : State).deliver x.wid .load f.d.toNat
      (x.lanes.map (fun l => (l, toBytes 4 (s.objectAt x (fun l => x.rd l f.b 2) pas l))))
      (s.toks x.w.core (x.accs (fun l => x.rd l f.b 2) 4))) [] := by
  have hreads : x.misaligned 4 (x.accs (fun l => x.rd l f.b 2) 4) = none := misaligned_accs halign
  have hsound := readable_none (x := x) hread
  have hall : ((pentryOf (c.entry (entryIndex f x))).partners (field c.drank 11 0)).find? (fun r => !s.reaches c r) = none :=
    List.find?_eq_none.mpr fun r hr => by simp [hreach r hr]
  have hknown : [10, 2, 6].contains (c.shardOf (entryIndex f x)).fmt = true := List.contains_iff_mem.mpr hfmt
  have hphase := hr.phase_allGo
  simp only [semPldRed, hsame, hplace, hctx, if_neg (Nat.not_le.mpr hindex), map_lanes_accs, hreads, hall, redValue_own hp]
  unfold Ctx.shardOf at hphase hknown
  cases hfind : c.shards.find? (fun p => p.1 == entryIndex f x) <;>
    simp only [hfind] at hphase hknown ⊢ <;>
    simp only [hphase, hknown, allGo_s, allGo_go, allGo_stay, hsound, dataCheckTo, holdAll_allGo, slots_allGo, Bool.not_true,
      Bool.false_eq_true, if_false] <;>
    simp only [Iss.accs, List.map_map, Function.comp_def] <;>
    rfl

end

/-- Settles O47: each instruction has its effect once its checks have passed; `PLD.RED` with no axis of state P has nothing to combine. -/
theorem placementInstructions : Obligations.PlacementInstructions := by
  intro f s s' x c core w d pas idx b obj e st old va mine asked hctx hplace hidx
  refine ⟨?set, ?get, ?conv, ?red⟩
  case set =>
    rintro H ⟨hsame, hnull, halign⟩ hload h hshard hshalign hstill himage hdesc hfits hbase
    exact issue_go (semPlaceSet f) H (semPlaceSet_installs hctx hplace ⟨hsame, hidx, hnull, halign⟩ hload
      ⟨⟨hshard, hshalign⟩, hstill, himage, hdesc, hfits, hbase⟩)
  case get =>
    rintro H ⟨hsame, hnull, halign⟩ hseen hr hw
    exact issue_go (semPlaceGet f) H (semPlaceGet_stores hctx hplace ⟨hsame, hidx, hnull, halign⟩ hseen hr hw)
  case conv =>
    rintro H ⟨hsame, hnull, halign⟩ hword hstates hunnamed onull oalign hload t htensor hrank hfmt hagrees hbase
    have hbody := semPldConv_ready hctx hplace ⟨hsame, hidx, hnull, halign⟩
      ⟨hword, hstates, hunnamed, ⟨onull, oalign⟩, hload, htensor, ⟨hrank, hfmt⟩, hagrees, hbase⟩
    refine ⟨fun heq hmade => issue_go (semPldConv f) H (hbody.trans ?_), fun hne => issue_go (semPldConv f) H (hbody.trans ?_)⟩
    · exact (if_pos heq).trans (congrArg (x.completed obj) hmade)
    · exact if_neg hne
  case red =>
    intro H hsame hfmt halign hr hread hp hreach
    exact issue_go (semPldRed f) H (semPldRed_own hctx hplace hsame hidx hfmt halign hr hread hp hreach)

end Sys2Proof.Machine
end

section
/-!
SUPPORT. The expert sidings: an offer of records that is taken up (R321 to R325, R500), a firing's batch (R326, R501), and `XSTAT` (R328,
R502).
-/
namespace Sys2Proof.Machine

section
variable {f : FmtR} {i : Instr} {x : Iss} {s : State} {c : Ctx} {e e' : ExpertSet} {t : Team} {g : Grid} {r : Waiting}

/-! ### `XENQ` and `ENQUEUE_EVENT` -/

/-- The records that the executing lanes offer, each with its expert (R500). -/
def offeredRecords (f : FmtR) (x : Iss) : List (Nat × Nat) := x.lanes.map (fun l => (x.rd l f.a 1 % 2 ^ 32, tokenOf x f l))

/-- The records of an offer pass the checks of R323, and the store has room for them as `e'` (R224, R324). -/
structure RecordsReady (f : FmtR) (x : Iss) (s : State) (e e' : ExpertSet) : Prop where
  good : ∀ p ∈ offeredRecords f x, p.1 < e.nexp ∧ e.tokenBad p.2 = false
  fits : e.enqueue (s.sidingEvents + 1) (offeredRecords f x) = .ok e'
  spills : s.spillBad e' (s.sidingEvents + 1) = none

/-- The store after an event that leaves a context's set as `e'`, every set evaluated (R323 to R325). -/
def State.takeRecords (asid : Nat) (e' : ExpertSet) (s : State) : State :=
  ((({ s with sidingEvents := s.sidingEvents + 1 } : State).updCtx asid (fun c => { c with experts := some e' })).spillTokens e'
    (s.sidingEvents + 1)).evaluate asid (fun _ => false)

/-- An event of ready records is taken into the store. -/
theorem enqueueNow_takes (hctx : s.ctx? (asidOf x.wid) = some c) (hset : c.experts = some e) (R : RecordsReady f x s e e') :
    enqueueNow x (offeredRecords f x) s = .go (s.takeRecords c.asid e') [] := by
  simp only [enqueueNow, hctx, hset, R.fits, R.spills]
  rfl

/-- Records that are ready stay so when a piece of work no longer waits at issue. -/
theorem RecordsReady.dropWork (R : RecordsReady f x s e e') (id : Nat) : RecordsReady f x (s.dropWork id) e e' := ⟨R.good, R.fits, R.spills⟩

/-- `XENQ` of ready records waits at issue, and is taken up once its wave is held on it (R323). -/
theorem semXenq_ready (hctx : s.ctx? (asidOf x.wid) = some c) (hal : alone x s t) (hset : c.experts = some e)
    (R : RecordsReady f x s e e') :
    semXenq f x s = if x.w.hold.isNone then holdAt x (.xenq f) x.w.core s else .go ((dropHeld x.w s).takeRecords c.asid e') [] := by
  have hrange : (offeredRecords f x).any (fun r => decide (r.1 ≥ e.nexp)) = false :=
    any_false fun p hp => by simpa using (R.good p hp).1
  have hrecords : (offeredRecords f x).any (fun r => e.tokenBad r.2) = false := any_false fun p hp => (R.good p hp).2
  obtain ⟨ht, hred⟩ := hal
  unfold offeredRecords at hrange hrecords
  simp only [semXenq, hctx, hset, hrange, hrecords, ht, Option.any_some, hred, Bool.false_eq_true, if_false]
  cases hold : x.w.hold with
  | none => rfl
  | some q =>
    cases hwork : q.work with
    | none =>
      simp only [dropHeld, hold, hwork, Option.isNone_some, Bool.false_eq_true, if_false]
      exact enqueueNow_takes hctx hset R
    | some id =>
      simp only [dropHeld, hold, hwork, Option.isNone_some, Bool.false_eq_true, if_false]
      exact enqueueNow_takes (s := s.dropWork id) hctx hset (R.dropWork id)

/-- `XENQ` of ready records that its wave is held on is taken into the store. -/
theorem semXenq_taken (hctx : s.ctx? (asidOf x.wid) = some c) (hal : alone x s t) (hset : c.experts = some e)
    (R : RecordsReady f x s e e') {q : Hold} (hold : x.w.hold = some q) :
    semXenq f x s = .go ((dropHeld x.w s).takeRecords c.asid e') [] := by
  rw [semXenq_ready hctx hal hset R, hold]
  rfl

/-- `ENQUEUE_EVENT` takes the issue of the offer it names up again. -/
theorem acceptEnqueue_reissues {id : Nat} (hfind : s.waiting.find? (fun q => q.id == id && s.waitsAtIssue q) = some r)
    (hi : r.instr = .xenq f) : acceptEnqueue id s = s.reissue r f.h (semXenq f) := by
  simp only [acceptEnqueue, hfind, hi]

/-- `ENQUEUE_EVENT` of ready records takes them into the store. -/
theorem acceptEnqueue_takes (hctx : s.ctx? (asidOf x.wid) = some c) (hal : alone x s t) (hset : c.experts = some e)
    (R : RecordsReady f x s e e') (W : Resumes (.xenq f) f.h s r x)
    (hfind : s.waiting.find? (fun q => q.id == r.id && s.waitsAtIssue q) = some r) :
    acceptEnqueue r.id s = finish x s (.go ((s.dropWork r.id).takeRecords c.asid e') []) := by
  obtain ⟨k, hold, -⟩ := W.hold
  rw [acceptEnqueue_reissues hfind W.instr, reissue_resumes W, semXenq_taken hctx hal hset R hold, W.dropHeld_eq]

/-! ### `XDEQ` -/

/-- Of records that were all read none raises a cause. -/
theorem findSome?_nothing (ws : List Nat) : ws.findSome? (fun _ => (none : Option Nat)) = none :=
  List.findSome?_eq_none_iff.mpr fun _ _ => rfl

/-- `XDEQ` outside a handler stores the batch of its team's firing, where it fits into scratch (R326, R501). -/
theorem semXdeq_stores {n m : Nat} {b ws : List Nat} (hal : alone x s t) (hlevel : x.w.tlevel = 0)
    (hgrid : s.grid? x.wid.team.grid = some g) (horigin : g.origin = .firing n m b) (halign : x.rd x.first f.a 2 % 16 = 0)
    (hfits : x.rd x.first f.a 2 + 16 * t.batch.length ≤ s.scratchSize x.wid)
    (hread : s.batchRecords g.id.asid m t.batch = ws.map Except.ok) :
    semXdeq f x s = .go ((s.updTeam x.wid.team (fun t => t.setScratch (x.rd x.first f.a 2) (ws.flatMap (toBytes 16)))).updWave x.wid
      (fun w => w.writeReg x.first f.d.toNat 2 t.batch.length)) [] := by
  simp only [semXdeq, outsideHandler_zero hlevel, hgrid, hal.1, horigin, halign, if_neg (Nat.not_lt.mpr hfits), together_alone hal, hread,
    hal.2, bne_self_eq_false, Bool.false_eq_true, if_false, List.findSome?_map, List.flatMap_map, Function.comp_def,
    findSome?_nothing]

/-! ### `XSTAT` -/

/-- `XSTAT` of an index that names a siding, or all of them where it may, does its function on the set. -/
theorem withSidings_goes {all : Bool} (hctx : s.ctx? (asidOf x.wid) = some c) (hal : alone x s t) (hset : c.experts = some e)
    (hk : x.rd x.first f.a 2 % 2 ^ 32 < e.nexp ∨ all = true ∧ x.rd x.first f.a 2 % 2 ^ 32 = 0x7FF)
    (go : Ctx → ExpertSet → Nat → Iss → State → Res) :
    withSidings i f.a all x s go = go c e (x.rd x.first f.a 2 % 2 ^ 32) x s := by
  have hgo : (decide (x.rd x.first f.a 2 % 2 ^ 32 < e.nexp) || (all && x.rd x.first f.a 2 % 2 ^ 32 == 0x7FF)) = true := by
    simpa using hk
  simp only [withSidings, hctx, hset, hgo, if_true, together_alone hal]

/-- An index that names a siding, or all of them (R328). -/
theorem namesOne_or_all {k n : Nat} (h : k < n ∨ k = 0x7FF) : k < n ∨ true = true ∧ k = 0x7FF := h.imp_right fun hk => ⟨rfl, hk⟩

end

/-- Settles O44: an offer waits for its event, which takes ready records into the store; `XDEQ` and `XSTAT` act at once. -/
theorem sidings : Obligations.Sidings := by
  intro f s x c e e' r t g recs good taken a k put hctx hal
  have ready : good → RecordsReady f x s e e' := fun ⟨hgood, hfits, hspills⟩ => ⟨hgood, hfits, hspills⟩
  refine ⟨?offer, ?held, ?event, ?deq, ?query, ?flush, ?reset⟩
  case offer =>
    intro H hset hgood hold
    have hwaits : semXenq f x s = holdAt x (.xenq f) x.w.core s := by
      rw [semXenq_ready hctx hal hset (ready hgood), hold]
      rfl
    exact issue_offers (semXenq f) H hold hwaits
  case held =>
    exact fun q H hset hgood hold => issue_go (semXenq f) H (semXenq_taken hctx hal hset (ready hgood) hold)
  case event =>
    exact fun W hset hgood hfind => commit_eq (acceptEnqueue_takes hctx hal hset (ready hgood) W hfind)
  case deq =>
    exact fun n m b ws H hlevel hgrid horigin halign hfits hread =>
      issue_go (semXdeq f) H (semXdeq_stores hal hlevel hgrid horigin halign hfits hread)
  case query =>
    exact fun H hset hk => issue_go _ H (withSidings_goes hctx hal hset (.inl hk) _)
  case flush =>
    exact fun H hset hk => issue_go _ H (withSidings_goes hctx hal hset (namesOne_or_all hk) _)
  case reset =>
    exact fun H hset hk => issue_go _ H (withSidings_goes hctx hal hset (namesOne_or_all hk) _)

end Sys2Proof.Machine
end

section
/-!
SUPPORT. The control commands (R352, R356, R358, R359, R514), and the queries of the package and of a context with their replies (R366 to
R368, R372).
-/
namespace Sys2Proof.Machine

section
variable {h : CmdHeader} {b : List DWord} {s t : State} {c : Ctx} {asid v : Nat} {ranks : List Nat} {bytes : List Byte}

/-! ### How a control command is carried out -/

/-- Outside recovery a control command is carried out, and in recovery one of the package is (R355, R370). -/
theorem control_effect {go : State → State} (hgo : s.recovery = false ∨ h.pkg = true) (ht : go s = t) :
    control h go s = .next (drained s t) := by
  have hruns : ¬ (s.recovery && !h.pkg) = true := by
    rcases hgo with hwhole | hpkg
    · simp [hwhole]
    · simp [hpkg]
  exact commit_eq ((if_neg hruns).trans ht)

/-- A control command on a context that is there (R355). -/
theorem controlCtx_effect {go : Ctx → State → State} (hwhole : s.recovery = false) (hc : s.ctx? (ha h) = some c) (ht : go c s = t) :
    controlCtx h go s = .next (drained s t) := by
  refine control_effect (.inl hwhole) ?_
  simp only [hc, ht]

/-- A completion record on its own (R356). -/
theorem completeCmd_eq (status value : Nat) : s.completeCmd h asid status value = cmdDone h asid status value s := rfl

/-! ### Contexts -/

/-- A body that passes the checks of R358, with an ASID free and its rank table read, makes the context. -/
theorem semCtxCreate_accepted (hfree : s.freeAsid = some asid) (hbody : s.ctxRefused b = false)
    (hranks : s.rankTable (newCtx asid b) (bodyWord b 19) (field (newCtx asid b).drank 27 16 + 1) = some ranks) :
    semCtxCreate h b s = cmdDone h asid 0 asid { s with ctxs := s.ctxs ++ [{ newCtx asid b with ranks := ranks }] } := by
  unfold semCtxCreate
  simp only [hfree, hbody, Bool.false_eq_true, if_false, completeCmd_eq]
  generalize newCtx asid b = c at hranks ⊢
  rw [hranks]

/-- A context that has stopped whole resumes (R352, R359). -/
theorem semPreemptResume_accepted (hlive : c.killed = false) (hstopped : c.stopped = true) (hacks : c.acks = [])
    (hbody : strayBody b [[(0, 0)]] = false) :
    semPreemptResume h b c s = (((s.grids.filter (fun g => g.id.asid == c.asid)).foldl (fun s g =>
      (s.pushDue (.mergePerform g.id)).pushDue (.gridRetirement g.id))
      (cmdDone h c.asid 0 0 ((s.retake c.asid (fun i => match i with | .node _ _ => true | .wave _ => false) (fun m => !m.ended)).updCtx
        c.asid (fun c => { c with stopped := false })))).pushDue .teamPlacement).retryHeld c.asid := by
  simp only [semPreemptResume, hlive, hstopped, hacks, hbody, List.isEmpty_nil, Bool.not_true, Bool.or_self, Bool.false_eq_true, if_false]
  rfl

/-! ### Queries -/

/-- A query of the package whose body is accepted is answered (R366, R368). -/
theorem packageQuery_answers {bad : Bool} {reply : State → List Byte} (hpkg : h.pkg = true) (hbody : bad = false)
    (hbytes : reply s = bytes) : packageQuery h b bad reply s = .next (drained s (cmdDone h 0 0 0 (s.reply48 h 0 bytes))) := by
  refine (if_pos hpkg).trans (control_effect (.inr hpkg) ?_)
  simp only [hbody, hbytes, Bool.false_eq_true, if_false, completeCmd_eq]

/-- `ATTEST` of the package sends its quote (R367, R372). -/
theorem execAttest_answers (hpkg : h.pkg = true) :
    execAttest h b s = .next (drained s (cmdDone h 0 0 0 (s.reply48 h 0 (quote b s.record.digest s.recovery)))) := by
  refine control_effect (.inr hpkg) ?_
  simp only [hpkg, Bool.not_true, Bool.false_eq_true, if_false, completeCmd_eq]

/-- A query of a context that starts and whose body is accepted is answered (R366, R368). -/
theorem contextQuery_answers {bad : Ctx → Bool} {go : Ctx → State → State} (hpkg : h.pkg = false) (H : Starts h b s c) (hbody : bad c = false)
    (hgo : go c (started h b s c) = (started h b s c).answer h bytes) :
    contextQuery h b bad go s = .next (drained s (((started h b s c).reply48 h (ha h) bytes).endCmd h 0 0)) := by
  have hquery : ¬ h.pkg = true := by simp [hpkg]
  refine (if_neg hquery).trans (queued_effect H ?_)
  simp only [hbody, Bool.false_eq_true, if_false]
  exact hgo

/-- The query of the block states of a range that is there (R240, R366). -/
theorem blockStates_bad {p : ProcRange} (hbody : queryBad 3 [(5, 0), (63, 32)] b = false) (hp : c.proc? (nfield (bodyWord b 1) 5 0) = some p) :
    (queryBad 3 [(5, 0), (63, 32)] b || (c.proc? (nfield (bodyWord b 1) 5 0)).isNone) = false := by
  rw [hbody, hp]
  rfl

/-- The query of a context's status block, of which no read is held and which can be read (R366, R513). -/
theorem semContextSummary_reads (hstalls : ∀ k ∈ s.stalls, k.work ≠ cmdWork c.asid (hq h))
    (hread : s.workRead c (cmdWork c.asid (hq h)) c.statusVa 64 = (.ok, v)) :
    semContextSummary h c s = s.answer h (toBytes 64 v ++ (List.range 16).flatMap (fun q => toBytes 8 (cellGet 0 c.qdone q)) ++
      toBytes 8 (if c.stopped then 1 else 0)) := by
  simp only [semContextSummary, State.stallCause_none hstalls, State.unstall_none hstalls, hread]

end

/-- Settles O60: a control command is carried out at once, a query of a context in its queue. -/
theorem controlCommands : Obligations.ControlCommands := by
  intro h b s c asid v ranks w s0 reply answer fresh
  refine ⟨?create, ?destroy, ?resume, ?package, ?context, ?unknown⟩
  case create =>
    exact fun hwhole hfree hbody hranks => control_effect (.inl hwhole) (semCtxCreate_accepted hfree hbody hranks)
  case destroy =>
    exact fun hwhole hc => controlCtx_effect (go := semCtxDestroy h) hwhole hc rfl
  case resume =>
    exact fun hwhole hc hlive hstopped hacks hbody =>
      controlCtx_effect hwhole hc (semPreemptResume_accepted hlive hstopped hacks hbody)
  case package =>
    intro hpkg
    refine ⟨?identity, ?errorLog, ?assignment, ?linkLog, ?attest⟩
    case identity => exact fun hbody => packageQuery_answers hpkg hbody rfl
    case errorLog => exact fun hbody => packageQuery_answers hpkg hbody rfl
    case assignment => exact fun hbody => packageQuery_answers hpkg hbody rfl
    case linkLog => exact fun hbody => packageQuery_answers hpkg hbody rfl
    case attest => exact execAttest_answers hpkg
  case context =>
    intro hpkg H
    refine ⟨?blockStates, ?graphLog, ?summary⟩
    case blockStates =>
      intro p hbody hp nibble first
      refine contextQuery_answers hpkg H (blockStates_bad hbody hp) ?_
      dsimp only
      rw [hp]
    case graphLog => exact fun hbody => contextQuery_answers hpkg H hbody rfl
    case summary =>
      exact fun hbody hstalls hread => contextQuery_answers (go := semContextSummary h) hpkg H hbody
        (semContextSummary_reads (s := s0) hstalls hread)
  case unknown =>
    intro hon
    refine commit_eq ((if_neg (by simp [hon])).trans ?_)
    simp only [beq_iff_eq, completeCmd_eq]

end Sys2Proof.Machine
end

section
/-!
SUPPORT. The encoder and the decoder are each other's inverse: every instruction by its own row (R73, R76), and every row by the format it
reads.
-/
namespace Sys2Proof.Laws.Decode

open Sys2Proof Sys2Proof.Machine

/-- Each instruction is decoded by its own row of the tables; no slot holds a command or an event. -/
theorem statement_of_instr (i : Instr) : Statement i := by
  cases i with
  | nop f => exact nop f | exit f => exact exit f | yield f => exact yield f | bra f => exact bra f | bru f => exact bru f
  | call f => exact call f | ret f => exact ret f | jmpi f => exact jmpi f | rcvset f => exact rcvset f | rcv f => exact rcv f
  | launch f => exact launch f | agen f => exact agen f | andR f => exact andR f | andImm f => exact andImm f | bfi f => exact bfi f
  | bfx f => exact bfx f | brev f => exact brev f | bsel f => exact bsel f | clz f => exact clz f | iabs f => exact iabs f
  | iadd f => exact iadd f | iaddImm f => exact iaddImm f | isub f => exact isub f | isubImm f => exact isubImm f
  | imul f => exact imul f | imulImm f => exact imulImm f | imulh f => exact imulh f | imulhImm f => exact imulhImm f
  | imad f => exact imad f | imax f => exact imax f | imaxImm f => exact imaxImm f | imin f => exact imin f
  | iminImm f => exact iminImm f | idiv f => exact idiv f | idivImm f => exact idivImm f | irem f => exact irem f
  | iremImm f => exact iremImm f | icmp f => exact icmp f | icmpImm f => exact icmpImm f | mov f => exact mov f
  | movFirst f => exact movFirst f | movi f => exact movi f | moviHi f => exact moviHi f | orR f => exact orR f
  | orImm f => exact orImm f | popc f => exact popc f | rot f => exact rot f | rotImm f => exact rotImm f | sel f => exact sel f
  | shl f => exact shl f | shlImm f => exact shlImm f | shr f => exact shr f | shrImm f => exact shrImm f | sra f => exact sra f
  | sraImm f => exact sraImm f | xorR f => exact xorR f | xorImm f => exact xorImm f | cvt f => exact cvt f | fadd f => exact fadd f
  | faddImm f => exact faddImm f | fsub f => exact fsub f | fsubImm f => exact fsubImm f | fmul f => exact fmul f
  | fmulImm f => exact fmulImm f | fdiv f => exact fdiv f | fdivImm f => exact fdivImm f | ffma f => exact ffma f
  | fmax f => exact fmax f | fmaxImm f => exact fmaxImm f | fmin f => exact fmin f | fminImm f => exact fminImm f
  | fcmp f => exact fcmp f | fcmpImm f => exact fcmpImm f | frnd f => exact frnd f | fsqrt f => exact fsqrt f | frcp f => exact frcp f
  | frsq f => exact frsq f | fexp2 f => exact fexp2 f | flog2 f => exact flog2 f | fsin f => exact fsin f | fcos f => exact fcos f
  | ftsum f => exact ftsum f | pfma f => exact pfma f | muel f => exact muel f | wadd f => exact wadd f | wmul f => exact wmul f
  | wfma f => exact wfma f | wscal f => exact wscal f | wexp f => exact wexp f | wspan f => exact wspan f | wsum f => exact wsum f
  | wdot f => exact wdot f | facc f => exact facc f | leafx f => exact leafx f | tex f => exact tex f | texq f => exact texq f
  | texqRead f => exact texqRead f | trace f => exact trace f | ld f => exact ld f | st f => exact st f | atom f => exact atom f
  | cas f => exact cas f | fence f => exact fence f | fenceWalk f => exact fenceWalk f | cflush f => exact cflush f
  | pref f => exact pref f | mcst f => exact mcst f | pldConv f => exact pldConv f | pldRed f => exact pldRed f
  | coll f => exact coll f | copy f => exact copy f | gath f => exact gath f | scat f => exact scat f | scatAdd f => exact scatAdd f
  | csig f => exact csig f | csigNode f => exact csigNode f | ctest f => exact ctest f | cwait f => exact cwait f
  | node f => exact node f | placeSet f => exact placeSet f | placeGet f => exact placeGet f | mwl f => exact mwl f
  | mmac f => exact mmac f | mzero f => exact mzero f | mdrn f => exact mdrn f | vxm f => exact vxm f | bar f => exact bar f
  | barArv f => exact barArv f | decp f => exact decp f | dect f => exact dect f | lred f => exact lred f | matchR f => exact matchR f
  | slane f => exact slane f | vpoll f => exact vpoll f | qpush f => exact qpush f | qpop f => exact qpop f | racq f => exact racq f
  | rrel f => exact rrel f | xenq f => exact xenq f | xdeq f => exact xdeq f | xstatQuery f => exact xstatQuery f
  | xstatFlush f => exact xstatFlush f | xstatReset f => exact xstatReset f | bkpt f => exact bkpt f | gfin f => exact gfin f
  | gfail f => exact gfail f | merge f => exact merge f | rtt f => exact rtt f | sreg f => exact sreg f | swr f => exact swr f
  | trap f => exact trap f | unassignedCodePoint w => exact unassignedCodePoint w
  | _ => exact fun _ _ hw => of_none rfl hw

end Sys2Proof.Laws.Decode

namespace Sys2Proof.Machine

/-- Settles O1, by decoding each word. -/
theorem wordsDecode : Obligations.WordsDecode := by
  unfold Obligations.WordsDecode
  decide

/-- Settles O2, instruction by instruction. -/
theorem decodeAfterEncode : Obligations.DecodeAfterEncode := by
  unfold Obligations.DecodeAfterEncode
  exact fun i w hi hw => Laws.Decode.statement_of_instr i hi w hw

/-! ### What the rows of the opcode tables answer

First the code points of R101 to R107 by the format of their row. -/

noncomputable def codesR : List Nat :=
  [0x000, 0x001, 0x002, 0x018, 0x041, 0x042, 0x043, 0x044, 0x045, 0x046, 0x047, 0x048, 0x049, 0x04A, 0x04B, 0x04C, 0x04D, 0x04E, 0x04F,
   0x050, 0x051, 0x052, 0x054, 0x055, 0x056, 0x057, 0x058, 0x059, 0x05A, 0x05B, 0x100, 0x101, 0x102, 0x103, 0x104, 0x105, 0x106, 0x107,
   0x108, 0x109, 0x10A, 0x10B, 0x10C, 0x10D, 0x10E, 0x10F, 0x110, 0x111, 0x112, 0x1C1, 0x300, 0x301, 0x302, 0x303, 0x304, 0x305, 0x306,
   0x307, 0x308, 0x309, 0x30A, 0x30B, 0x30C, 0x30D, 0x340, 0x341, 0x342, 0x343, 0x344]
noncomputable def codesI : List Nat :=
  [0x053, 0x081, 0x088, 0x089, 0x08A, 0x08C, 0x08D, 0x08E, 0x08F, 0x090, 0x091, 0x094, 0x096, 0x098, 0x099, 0x09A, 0x09B, 0x141, 0x142,
   0x144, 0x148, 0x149, 0x14A, 0x150, 0x345, 0x346, 0x347]
noncomputable def codesM : List Nat :=
  [0x040, 0x200, 0x201, 0x202, 0x203, 0x204, 0x205, 0x206, 0x207, 0x283, 0x284]
noncomputable def codesX : List Nat :=
  [0x1C0, 0x1C2, 0x1C3, 0x1C4, 0x208, 0x280, 0x281, 0x282, 0x285, 0x286, 0x287, 0x288, 0x2C0, 0x2C1, 0x2C2, 0x2C3, 0x2C4]
noncomputable def codesB : List Nat :=
  [0x008, 0x009, 0x00A, 0x00B, 0x00C, 0x010, 0x011]
noncomputable def codesW : List Nat :=
  [0x180, 0x181, 0x182, 0x183, 0x184, 0x185, 0x186, 0x187, 0x188]

/-- The row of code point `o` reads one format: it answers where the format's reserved bits are zero, and the encoder writes the answer in
that format with that code point. -/
def RowReads {F : Type} (reserved : Slot → Bool) (enc : Nat → F → Slot) (get : Slot → F) (o : Nat) : Prop :=
  ∀ w, ∃ j, decodeOp o w = (if reserved w then some j else none) ∧ encode j = some (enc o (get w))

/-- What such a row answers is written as the slot it was read from. -/
theorem RowReads.encode_eq {F : Type} {reserved : Slot → Bool} {enc : Nat → F → Slot} {get : Slot → F} {w : Slot} {o : Nat} {i : Instr}
    (hr : RowReads reserved enc get o) (hget : reserved w = true → enc o (get w) = w) (h : decodeOp o w = some i) : encode i = some w := by
  obtain ⟨j, hrow, henc⟩ := hr w
  obtain ⟨hres, rfl⟩ : reserved w = true ∧ j = i := by simpa [hrow] using h
  rw [henc, hget hres]

/-- Each assigned code point's row reads its format. -/
theorem rows_read : (∀ o ∈ codesR, RowReads resR encR getR o) ∧ (∀ o ∈ codesI, RowReads resI encI getI o) ∧
    (∀ o ∈ codesM, RowReads resM encM getM o) ∧ (∀ o ∈ codesX, RowReads resX encX getX o) ∧
    (∀ o ∈ codesB, RowReads resB encB getB o) ∧ (∀ o ∈ codesW, RowReads resW encW getW o) := by
  refine ⟨?_, ?_, ?_, ?_, ?_, ?_⟩
  all_goals
    repeat' refine List.forall_mem_cons.mpr ⟨fun w => ⟨_, rfl, ?_⟩, ?_⟩
  any_goals exact List.forall_mem_nil _
  -- some rows choose among instructions by a field
  all_goals
    beta_reduce
    repeat' split
    all_goals rfl

/-- An assigned code point is the row of one of the formats. -/
theorem mem_codes_of_assigned {o : Nat} (hlt : o < 1024) (h : Instr.wf.assignedOpc o = true) :
    o ∈ codesR ∨ o ∈ codesI ∨ o ∈ codesM ∨ o ∈ codesX ∨ o ∈ codesB ∨ o ∈ codesW := by
  -- 256 code points at a time
  have hall : ∀ k < 4, (List.range' (256 * k) 256).all (fun o => !Instr.wf.assignedOpc o ||
      (codesR ++ codesI ++ codesM ++ codesX ++ codesB ++ codesW).contains o) = true := by
    intro k hk
    interval_cases k <;> decide +kernel
  have hmem := List.all_eq_true.mp (hall (o / 256) (Nat.div_lt_of_lt_mul hlt)) o
    (List.mem_range'_1.mpr ⟨Nat.mul_div_le o 256, Nat.lt_mul_div_succ o (by decide)⟩)
  simpa [h, or_assoc] using hmem

/-- A row of the opcode tables answers only instructions that the encoder writes as the slot itself. -/
theorem encode_of_decodeOp {w : Slot} {i : Instr} (h : decodeOp (opcOf w) w = some i) : encode i = some w := by
  by_cases hassigned : Instr.wf.assignedOpc (opcOf w) = true
  case neg =>
    rw [Laws.Decode.unassigned _ w (by simpa using hassigned)] at h
    cases h
    rfl
  case pos =>
    obtain ⟨hR, hI, hM, hX, hB, hW⟩ := rows_read
    obtain hmem | hmem | hmem | hmem | hmem | hmem := mem_codes_of_assigned (BitVec.isLt _) hassigned
    · exact (hR _ hmem).encode_eq (encR_getR rfl) h
    · exact (hI _ hmem).encode_eq (encI_getI rfl) h
    · exact (hM _ hmem).encode_eq (encM_getM rfl) h
    · exact (hX _ hmem).encode_eq (encX_getX rfl) h
    · exact (hB _ hmem).encode_eq (encB_getB rfl) h
    · exact (hW _ hmem).encode_eq (encW_getW rfl) h

/-- What a slot decodes to is its row's instruction, and well formed. -/
theorem row_of_decodeSlot {w : Slot} {i : Instr} (h : decodeSlot w = .ok i) : decodeOp (opcOf w) w = some i ∧ i.wf = true := by
  unfold decodeSlot at h
  cases hrow : decodeOp (opcOf w) w with
  | none => simp [hrow] at h
  | some j =>
    simp only [hrow] at h
    split at h
    case isTrue hwf => cases h; exact ⟨rfl, hwf⟩
    case isFalse => cases h

/-- Settles O3: a row's instruction is encoded as the slot, and only a well-formed one is answered. -/
theorem encodeAfterDecode : Obligations.EncodeAfterDecode := by
  unfold Obligations.EncodeAfterDecode
  intro i w h
  obtain ⟨hrow, hwf⟩ := row_of_decodeSlot h
  exact ⟨encode_of_decodeOp hrow, hwf⟩

end Sys2Proof.Machine
end

section
/-!
SUPPORT. Where an instruction stands and whether it issues: the next slot (R70), threads that operands block (R90, R91), and a fetch whose
request waits at a pseudo-channel (R68, R217).
-/
namespace Sys2Proof.Machine

/-! ### The next PC -/

/-- Settles O9: slots 0 to 3 by the slot's number plus one, slot 4 by the line's. -/
theorem nextSlot : Obligations.NextSlot := by
  unfold Obligations.NextSlot
  intro line slot hslot5 hbound
  have hpc : (BitVec.ofNat 64 (64 * line + slot)).toNat = 64 * line + slot := by
    rw [BitVec.toNat_ofNat]; exact Nat.mod_eq_of_lt (by omega)
  have hslot : (64 * line + slot) % 8 = slot := by
    rw [show 64 * line = 8 * (8 * line) from Nat.mul_assoc 8 8 line, Nat.mul_add_mod, Nat.mod_eq_of_lt (hslot5.trans (by decide))]
  have hline : (64 * line + slot) / 64 * 64 + 64 = 64 * (line + 1) := by
    rw [Nat.mul_add_div (by decide), Nat.div_eq_of_lt (hslot5.trans (by decide))]
    exact congrArg (· + 64) (Nat.mul_comm line 64)
  unfold nextPc
  rw [hpc, hslot, hline]
  by_cases h4 : slot = 4
  · rw [if_neg (by rw [h4]; decide), if_pos h4]
  · rw [if_pos (Nat.lt_of_le_of_ne (Nat.le_of_lt_succ hslot5) h4), if_neg h4]
    exact (BitVec.ofNat_add _ _).symm

/-! ### Blocked threads -/

/-- Every active thread of the group is blocked at the instruction (R90, R91). -/
theorem issueAt_blocked {i : Instr} {h : Hdr} {s : State} {c : Cur} {w : Wave} (body : Iss → State → Res)
    (hf : operandFault i w = none) (hr : s.roleRefused i w = false)
    (hne : (lanesOf c.lanes).filter (guardTrue h w) ≠ [])
    (hblock : ∀ l ∈ (lanesOf c.lanes).filter (guardTrue h w), blockedAt i w l = true) :
    issueAt i h body c w s =
      advance s c.wid ((lanesOf c.lanes).filter (fun l => !((lanesOf c.lanes).filter (guardTrue h w)).contains l)) c.pc := by
  have hact : ((lanesOf c.lanes).filter (guardTrue h w)).isEmpty = false := List.isEmpty_eq_false_iff.mpr hne
  have hstuck : ((lanesOf c.lanes).filter (guardTrue h w)).filter (blockedAt i w) = (lanesOf c.lanes).filter (guardTrue h w) :=
    List.filter_eq_self.mpr hblock
  have hleft : ∀ ls : List Nat, ls.filter (fun l => !ls.contains l) = [] := fun ls =>
    List.filter_eq_nil_iff.mpr (fun l hl => by simp [hl])
  have hall : ∀ ls : List Nat, ls.filter (fun l => !([] : List Nat).contains l) = ls := fun ls =>
    List.filter_eq_self.mpr (fun _ _ => by simp)
  simp only [issueAt, hf, hact, hr, hstuck, hleft, hall, finish, List.isEmpty_nil, Bool.false_eq_true, if_false, if_true]

/-- More registers of a lane have an empty one among them where fewer do. -/
theorem Wave.anyEmpty_of_le {w : Wave} {l r n m : Nat} (h : w.anyEmpty l r n = true) (hnm : n ≤ m) : w.anyEmpty l r m = true := by
  obtain ⟨i, hi, hp⟩ := (Wave.anyEmpty_iff w l r n).mp h
  exact (Wave.anyEmpty_iff w l r m).mpr ⟨i, hi.trans_le hnm, hp⟩

theorem words_pos (t : Nat) : 1 ≤ words t := by
  unfold words; split <;> omega

/-- The first source of `IADD`, empty under a clear `FE` bit. -/
theorem blockedAt_iadd {f : FmtR} {w : Wave} {l : Nat} (hfe : f.h.fe = 0) (ha : f.a.toNat < 320)
    (he : w.anyEmpty l f.a.toNat 1 = true) : blockedAt (.iadd f) w l = true := by
  have hspans : spansOf (.iadd f) w = ops2 f := rfl
  have hfield : feOf (.iadd f) = 0 := hfe
  have hread : ∀ o, readIn (.iadd f) [l] o = [l] := fun _ => rfl
  have hempty := Wave.anyEmpty_of_le he (words_pos (tyS f.ty))
  refine List.any_eq_true.mpr ⟨src f.a 0 (words (tyS f.ty)), by simp [hspans, ops2], ?_⟩
  simp [hread, hfield, Opnd.isV, src, ha, hempty]

/-- Settles O13: the threads that do not move are the blocked ones, and an empty first source of `IADD` blocks. -/
theorem emptySourceBlocks : Obligations.EmptySourceBlocks := by
  unfold Obligations.EmptySourceBlocks
  have blocked : ∀ (i : Instr) (k : Slot) (s : State) (c : Cur) (w : Wave), encode i = some k → (∀ u, i ≠ .unassignedCodePoint u) →
      s.cur = some c → s.wave? c.wid = some w → operandFault i w = none → s.roleRefused i w = false →
      let act := (lanesOf c.lanes).filter (guardTrue (getHdr k) w)
      act ≠ [] → (∀ l ∈ act, blockedAt i w l = true) →
      exec i s = .next (drained s (advance s c.wid ((lanesOf c.lanes).filter (fun l => !act.contains l)) c.pc)) := by
    intro i k s c w hk hu hc hw hf hr act hne hblock
    obtain ⟨body, hx⟩ := exec_eq_issue hk hu
    rw [hx, issue_eq body hc hw, issueAt_blocked body hf hr hne hblock]
  refine ⟨blocked, ?_⟩
  intro f s c w hc hw hf hr hguard hfe ha hempty hne
  have hact : (lanesOf c.lanes).filter (guardTrue (getHdr (encR 0x048 f)) w) = lanesOf c.lanes := by
    rw [getHdr_encR]; exact List.filter_eq_self.mpr hguard
  have hmove := blocked (.iadd f) (encR 0x048 f) s c w rfl (fun _ => by simp) hc hw hf hr
  simp only [hact] at hmove
  rw [hmove hne (fun l hl => blockedAt_iadd hfe ha (hempty l hl)), List.filter_eq_nil_iff.mpr (fun l hl => by simp [hl])]

/-! ### A fetch that waits at a pseudo-channel -/

/-- A fetch whose request waits at a pseudo-channel changes nothing yet (R217). -/
theorem fetchFor_waits {c : Cur} {w : Wave} {s : State} (hpc : pcBad c.pc.toNat = false)
    (hwait : s.lineWaits w.core c.wid (c.pc.toNat / 64) = true) : fetchFor c w s = s := by
  obtain ⟨hshape, hrange⟩ : pcShapeBad c.pc.toNat = false ∧ ¬ c.pc.toNat ≥ 2 ^ 56 := by simpa [pcBad] using hpc
  simp only [fetchFor, hshape, if_neg hrange, hwait, Bool.false_eq_true, if_false, if_true]

/-- A lone wave whose line, all zero, is in no cache: one 64 KiB page is mapped for fetches, and the wave's request waits at
pseudo-channel 0. -/
def fetchState : State :=
  { State.reset.withSlot 0 with
    cores := []
    tlb := [{ place := .core 0, asid := 0, level := 3, table := false, va := 0, pa := 0, w := false, x := true }]
    chans := [(0, { Chan.idle with waiting := [{ arrival := 0, cls := 0, slack := 0, block := 0, charge := none, origin := .fetch loneWid }] })]
    cur := some { wid := loneWid, lanes := 1, pc := 0, viaLoop := false } }

/-- Its wave and its context. -/
def fetchWave : Wave := (fetchState.wave? loneWid).get (by decide)
def fetchCtx : Ctx := (fetchState.ctx? 0).get (by decide)

/-- The line of zeros passes the checks of R68, translated through the mapped page. -/
theorem fetchLine_fetchState : fetchState.fetchLine 0 0 0 =
    .ok 0 { fetchState.updCore 0 (fun k => k.keepLine (0, 0, 0) (Config.freeNat fetchState.fresh)) with fresh := fetchState.fresh + 1 } := by
  have hmiss : (fetchState.core 0).line? 0 0 = none := by decide
  have hctx : fetchState.ctx? 0 = some fetchCtx := (Option.some_get (x := fetchState.ctx? 0) (by decide)).symm
  have hpas : fetchState.xlateAll fetchCtx none (64 * 0) 64 .fetch = .ok [(0, 64)] := by decide +kernel
  have hgood : fetchState.badPas [(0, 64)] = none := by decide +kernel
  have hline : BitVec.ofNat 512 (ofBytes (fetchState.readPas [(0, 64)])) = 0 := by decide +kernel
  have hpar : lineParityOk 0 = true := by decide +kernel
  have hfields : lineFieldsOk 0 = true := by decide +kernel
  simp only [State.fetchLine, hmiss, hctx, hpas, hgood, hline, hpar, hfields, Bool.not_true, Bool.false_eq_true, if_false]

/-- Refutes O52: its first clause asks that the fetch of the line succeeds, and not that the fetch is no longer waiting. Where the line
is in no cache and the wave's request waits at a pseudo-channel, the fetch has no effect yet (R217), while the clause has it cached. -/
theorem not_fetchedLines : ¬ Obligations.FetchedLines := by
  unfold Obligations.FetchedLines
  intro h
  obtain ⟨hline, -⟩ := h fetchState _ { wid := loneWid, lanes := 1, pc := 0, viaLoop := false } fetchWave 0 0 rfl
    (Option.some_get (x := fetchState.wave? loneWid) (by decide)).symm
  have hclaim := hline (by decide) fetchLine_fetchState (.inl (by decide))
  have hstop : exec .lineFetch fetchState = .next (drained fetchState fetchState) :=
    congrArg (commit fetchState) (fetchFor_waits (w := fetchWave) (by decide) (by decide))
  have hfresh := congrArg (fun r : Host.Outcome State Fault Refusal => match r with | .next t => t.fresh | _ => 0) (hstop.symm.trans hclaim)
  simp [drained] at hfresh

end Sys2Proof.Machine
end

section
/-!
SUPPORT. The issue slot of a wave: the step runs what the slot at the program counter decodes to (R34, R68, R335).
-/
namespace Sys2Proof.Machine

/-- With nothing due, the step is the turn that the agenda names. -/
theorem step_agenda {s : State} {t : Turn} {rest : List Turn} (hdue : s.due = []) (hagenda : s.agenda = t :: rest) :
    step s = turn exec t { s with agenda := rest } := by
  unfold step
  split
  next h => rw [hdue] at h; cases h
  next =>
    split
    next h => rw [hagenda] at h; cases h; rfl
    next h => rw [hagenda] at h; cases h

/-- A group at a line that needs no check issues what its slot decodes to (R34, R68). -/
theorem issueCur_decoded {c : Cur} {w : Wave} {s : State} {k : Slot} {i : Instr} (hfetch : s.needsFetch w c.pc = false)
    (hslot : s.slotAt w c.pc = some k) (hi : decodeSlot k = .ok i) :
    issueCur exec c w s = match exec i { s with cur := some c } with
      | .next t => .next (t.afterIssue c w)
      | r => r := by
  simp only [issueCur, hfetch, hslot, hi, Bool.false_eq_true, if_false] <;> rfl

/-- The issue slot of a wave that may issue and has a group to issue (R34). -/
theorem slotOf_issues {wid : WaveId} {s : State} {w : Wave} {l : Nat} {ls : List Nat} {pc : DWord} (hw : s.wave? wid = some w)
    (hmay : s.mayIssue w = true) (hissued : w.issued = false)
    (hgroup : (s.updWave wid (fun _ => s.aimBpc w)).slotGroup (s.aimBpc w) = (l :: ls, pc)) :
    slotOf exec wid s = issueCur exec { wid := wid, lanes := maskOf (l :: ls), pc := pc, viaLoop := false } (s.aimBpc w)
      (s.updWave wid (fun _ => s.aimBpc w)) := by
  simp only [slotOf, hw, hmay, hissued, hgroup, Bool.not_true, Bool.or_false, Bool.false_eq_true, if_false]

/-- Settles O10: the agenda's turn is the wave's issue slot, and the slot issues what it decodes to. -/
theorem stepRunsDecoded : Obligations.StepRunsDecoded := by
  unfold Obligations.StepRunsDecoded
  intro s wid w rest l ls pc k i hdue hagenda s0 hfirst hw hmay hissued v s1 hgroup hfetch hslot hi c
  have hturn : turn exec (.slot wid) s0 = slotOf exec wid s0 := congrArg (slotOf exec · s0) hfirst
  rw [step_agenda hdue hagenda, hturn, slotOf_issues hw hmay hissued hgroup]
  exact issueCur_decoded hfetch hslot hi

end Sys2Proof.Machine
end

section
/-!
SUPPORT. Moves, immediates and effective addresses (R78, R80, R456, R477), the fences, hints and `EXIT` (R232, R414, R415), and the
branches (R71, R393).
-/
namespace Sys2Proof.Machine

/-! ### Moves -/

/-- Settles O20: the arithmetic moves produce one result in each lane, the other two write a register in an update of their wave. -/
theorem moves_hold : Obligations.Moves := by
  unfold Obligations.Moves
  intro f k m t u
  refine ⟨?mov, ?sel, ?movi, ?moviHi, ?movFirst, ?agen⟩
  case mov => exact yields_one (fun _ => rfl) (fun _ _ => rfl)
  case sel => exact yields_one (fun _ => rfl) (fun _ _ => rfl)
  case movi => exact yields_one (fun _ => rfl) (fun _ _ => rfl)
  case moviHi => exact yields_one (fun _ => rfl) (fun _ _ => rfl)
  case movFirst => exact fun s x H => issue_go _ H rfl
  case agen => exact fun s x H => issue_go _ H rfl

/-! ### Immediates and addresses -/

/-- Wrapping is the bit vector of the integer. -/
theorem ofNat_wrapN (w : Nat) (x : Int) : BitVec.ofNat w (wrapN w x) = BitVec.ofInt w x := by
  rw [wrapN_eq_toNat_ofInt, BitVec.ofNat_toNat, BitVec.setWidth_eq]

/-- A register pair read as 64 bits (R88). -/
theorem Iss.rd_pair (x : Iss) (l : Nat) {code : RegCode} (h : code.toNat < 320) :
    BitVec.ofNat 64 (x.rd l code 2) = (x.w.vreg l (code.toNat + 1) ++ x.w.vreg l code.toNat : BitVec 64) := by
  apply BitVec.eq_of_toNat_eq
  have hlo := (x.w.vreg l code.toNat).isLt
  have hhi := (x.w.vreg l (code.toNat + 1)).isLt
  rw [BitVec.toNat_ofNat, BitVec.toNat_append, Nat.shiftLeft_eq, Nat.mul_comm, ← Nat.two_pow_add_eq_or_of_lt hlo]
  simp only [Iss.rd, Wave.readReg, h, if_true, ge_iff_le, le_refl]
  rw [Nat.mod_eq_of_lt (by omega), Nat.add_comm]

/-- The base of an effective address (R80). -/
theorem ofNat_base (x : Iss) (l : Nat) (m : FmtM) :
    BitVec.ofNat 64 (if m.ab.toNat == 511 then 0 else x.rd l m.ab 2) =
      if m.ab.toNat = 511 then 0 else if m.ab.toNat < 320 then (x.w.vreg l (m.ab.toNat + 1)) ++ (x.w.vreg l m.ab.toNat)
      else BitVec.ofNat 64 (x.rd l m.ab 2) := by
  by_cases habs : m.ab.toNat = 511
  · simp [habs]
  · by_cases hv : m.ab.toNat < 320
    · simp only [beq_iff_eq, habs, hv, if_false, if_true, x.rd_pair l hv]
    · simp only [beq_iff_eq, habs, hv, if_false]

/-- The index of an effective address (R80). -/
theorem sext_index (x : Iss) (l : Nat) (m : FmtM) :
    (if m.ai.toNat == 511 then 0 else sext 32 (x.rd l m.ai 1)) =
      (if m.ai.toNat = 511 then 0 else if m.ai.toNat < 320 then x.w.vreg l m.ai.toNat else BitVec.ofNat 32 (x.rd l m.ai 1)).toInt := by
  by_cases habs : m.ai.toNat = 511
  · simp [habs]
  · by_cases hv : m.ai.toNat < 320
    · simp [habs, hv, sext_eq_toInt, Iss.rd, Wave.readReg]
    · simp [habs, hv, sext_eq_toInt]

/-- Settles O21: both are sums of integers, taken modulo 2^64. -/
theorem immediatesAndAddresses : Obligations.ImmediatesAndAddresses := by
  unfold Obligations.ImmediatesAndAddresses
  refine ⟨?imm, ?addr⟩
  case imm =>
    intro t imm _
    unfold immVal
    rw [wrapN_eq_toNat_ofInt]
    rfl
  case addr =>
    intro x l m base index
    have hbase : BitVec.ofNat 64 (if m.ab.toNat == 511 then 0 else x.rd l m.ab 2) = base := ofNat_base x l m
    have hindex : (if m.ai.toNat == 511 then 0 else sext 32 (x.rd l m.ai 1)) = index.toInt := sext_index x l m
    unfold effAddr
    rw [hindex, ofNat_wrapN, BitVec.ofInt_add, BitVec.ofInt_add, BitVec.ofInt_mul, BitVec.ofInt_natCast, BitVec.ofInt_natCast, hbase]
    rfl

/-! ### Fences, hints and `EXIT` -/

/-- `FENCE.WALK`: the threads whose stores walks do not see yet wait, and where any other is there the context's translations are
dropped (R232). -/
theorem semFenceWalk_eq (x : Iss) (s : State) :
    semFenceWalk x s =
      let late := x.act.filter (s.unseenBy x.w)
      let waits : State := late.foldl (fun s l => s.block x.wid [l] (.unseen l)) s
      .go (if late = x.act then waits else { waits with tlb := waits.tlb.filter (fun e => e.asid != asidOf x.wid) }) late := by
  have hall : (x.act.filter (s.unseenBy x.w)).length = x.act.length ↔ x.act.filter (s.unseenBy x.w) = x.act := by
    rw [List.length_filter_eq_length_iff, List.filter_eq_self]
  simp only [semFenceWalk, beq_iff_eq, hall]

/-- Settles O27: each instruction's effect goes on, but for `EXIT`, which sets the PCs itself. -/
theorem hintsAndExit : Obligations.HintsAndExit := by
  unfold Obligations.HintsAndExit
  refine ⟨fun f m s x => ⟨?nop, ?fence, ?cflush, ?pref, ?walk, ?yield⟩, ?exit⟩
  case nop => exact fun H => issue_go _ H rfl
  case fence => exact fun H => issue_go _ H rfl
  case cflush => exact fun H => issue_go _ H rfl
  case pref => exact fun H => issue_go _ H rfl
  case yield => exact fun H => issue_go _ H rfl
  case walk =>
    intro H late waits
    refine ⟨fun hgo => issue_go semFenceWalk H ?_, fun hwait => issue_go semFenceWalk H ?_⟩
    · exact (semFenceWalk_eq x s).trans (congrArg (Res.go · late) (if_neg hgo))
    · exact (semFenceWalk_eq x s).trans (congrArg (Res.go · late) (if_pos hwait))
  case exit => exact fun f s x H => issue_jump semExit H rfl

/-! ### Branches -/

section
variable {f : FmtB} {x : Iss} {s : State} {ts : List (Nat × Nat)}

/-- The lanes of a `BRA` with a true condition, at its target (R393). -/
def Iss.taken (x : Iss) (f : FmtB) : List (Nat × Nat) :=
  (x.act.filter (fun l => f.a.toNat == 511 || x.rd l f.a 1 != 0)).map (fun l => (l, directTarget f x.pc))

/-- `BRA` whose target passes its check. -/
theorem semBra_ok (h : f.u = true → f.a.toNat ≠ 511 → x.uniformFault f.a 1 = none) (ht : TargetsOk x s (x.taken f)) :
    semBra f x s = goTo x s (x.taken f) :=
  (uniformB_same h _).trans (transfer_ok ht _)

/-- `BRU` with a true condition, whose target passes its check. -/
theorem semBru_taken (h : f.u = true → f.a.toNat ≠ 511 → x.uniformFault f.a 1 = none)
    (htest : (f.a.toNat == 511 || x.rd x.first f.a 1 != 0) = true) (ht : TargetsOk x s (x.group.map (fun l => (l, directTarget f x.pc)))) :
    semBru f x s = goTo x s (x.group.map (fun l => (l, directTarget f x.pc))) :=
  (uniformB_same h _).trans ((if_pos htest).trans (transfer_ok ht _))

/-- `BRU` with a false condition. -/
theorem semBru_passes (h : f.u = true → f.a.toNat ≠ 511 → x.uniformFault f.a 1 = none)
    (htest : (f.a.toNat == 511 || x.rd x.first f.a 1 != 0) = false) : semBru f x s = .go s [] :=
  (uniformB_same h _).trans (if_neg (by simp [htest]))

/-- The line of a target is cached, with the target's `TGT` bit clear. -/
def TgtClear (x : Iss) (s : State) (target : Nat) : Prop :=
  pcBad target = false ∧
    ∃ line, (s.core x.w.core).line? (asidOf x.wid) (target / 64) = some line ∧ (lineWord line).testBit (target % 8) = false

theorem checkTgts_clear (h : ∀ p ∈ ts, TgtClear x s p.2) :
    s.checkTgts x.w.core (asidOf x.wid) ts = { s := s, bad := none, clear := ts, miss := [] } := by
  induction ts with
  | nil => rfl
  | cons p ts ih =>
    obtain ⟨hpc, line, hline, htgt⟩ := h p List.mem_cons_self
    have hclear : s.checkTgt x.w.core (asidOf x.wid) p.2 = .clear := by
      simp only [State.checkTgt, State.fetchLine, hpc, hline, htgt, Bool.false_eq_true, if_false]
    rw [State.checkTgts, hclear, ih (fun q hq => h q (List.mem_cons_of_mem p hq))]

/-- A transfer whose targets all have a clear `TGT` bit raises `BRANCH_TARGET` with the first of them (R71). -/
theorem transfer_clear {p : Nat × Nat} (h : ∀ q ∈ p :: ts, TgtClear x s q.2) (go : State → Res) :
    transfer x s (p :: ts) go = .trap cBranchTarget (maskOf ((p :: ts).map (·.1))) p.2 := by
  have hwait : (p :: ts).any (fun q => !pcBad q.2 && s.lineWaits x.w.core x.wid (q.2 / 64)) = false := by
    refine any_false fun q hq => ?_
    obtain ⟨-, line, hline, -⟩ := h q hq
    simp [State.lineWaits, hline]
  unfold transfer
  rw [hwait]
  simp only [Bool.false_eq_true, if_false, checkTgts_clear h]

/-- A transfer of some lanes to one target with a clear `TGT` bit. -/
theorem transfer_all_clear {ls : List Nat} {target : Nat} (hne : ls ≠ []) (h : TgtClear x s target) (go : State → Res) :
    transfer x s (ls.map (fun l => (l, target))) go = .trap cBranchTarget (maskOf ls) target := by
  obtain ⟨l, rest, rfl⟩ := List.exists_cons_of_ne_nil hne
  have hall : ∀ q ∈ (l :: rest).map (fun l => (l, target)), TgtClear x s q.2 := List.forall_mem_map.mpr fun _ _ => h
  rw [List.map_cons] at hall ⊢
  rw [transfer_clear hall]
  simp [Function.comp_def]

/-- `BRA` without a condition to a target with a clear `TGT` bit. -/
theorem semBra_clear (ha : f.a.toNat = 511) (hact : x.act ≠ []) (h : TgtClear x s (directTarget f x.pc)) :
    semBra f x s = .trap cBranchTarget (maskOf x.act) (directTarget f x.pc) := by
  have htaken : x.act.filter (fun l => f.a.toNat == 511 || x.rd l f.a 1 != 0) = x.act :=
    List.filter_eq_self.mpr (fun _ _ => by simp [ha])
  unfold semBra
  rw [uniformB_same (fun _ hne => absurd ha hne), htaken]
  exact transfer_all_clear hact h _

end

/-- The lanes of a list, all to one target, are distinct where the list's are. -/
theorem map_target_nodup {ls : List Nat} (h : ls.Nodup) (target : Nat) : ((ls.map (fun l => (l, target))).map (·.1)).Nodup := by
  simpa [Function.comp_def] using h

/-- Settles O28: a transfer's checks pass and its threads go to their target, or its `TGT` bit is clear. -/
theorem branchesTransfer : Obligations.BranchesTransfer := by
  unfold Obligations.BranchesTransfer
  refine ⟨?goes, ?clear⟩
  case goes =>
    intro f s x target
    have htarget : target = directTarget f x.pc := (directTarget_eq f x.pc).symm
    clear_value target
    subst htarget
    intro taken all test same
    refine ⟨?bra, ?bru, ?pass⟩
    case bra =>
      intro H hsame htgt
      exact transferred_of_goTo H (semBra f) (pre := fun w => w) (fun _ => rfl) (fun _ => rfl) (map_target_nodup (H.act_nodup.filter _) _)
        ((semBra_ok hsame htgt).trans (by rw [updWave_id]; rfl))
    case bru =>
      intro H hsame htest htgt
      exact transferred_of_goTo H (semBru f) (pre := fun w => w) (fun _ => rfl) (fun _ => rfl) (map_target_nodup H.group_nodup _)
        ((semBru_taken hsame htest htgt).trans (by rw [updWave_id]))
    case pass => exact fun H hsame htest => issue_go (semBru f) H (semBru_passes hsame htest)
  case clear =>
    intro f s x line H ha target hpc hline htgt
    exact issue_trap (semBra f) H (semBra_clear ha H.active ⟨hpc, line, hline, htgt⟩)

end Sys2Proof.Machine
end

section
/-!
SUPPORT. Replies and the ends of walks (R90, R154 to R157), deferred updates at their home slice (R266), the merge (R297), and a fill that
waited for a frame (R244).
-/
namespace Sys2Proof.Machine

/-! ### Replies -/

/-- The first of those that pass one check is the first that passes two, where it passes the second. -/
theorem find?_and_of_find? {α : Type} {l : List α} {p q : α → Bool} {a : α} (h : l.find? p = some a) (hq : q a = true) :
    l.find? (fun x => p x && q x) = some a := by
  induction l with
  | nil => cases h
  | cons b l ih =>
    rw [List.find?_cons] at h ⊢
    cases hp : p b with
    | true =>
      rw [hp] at h
      cases h
      simp [hq]
    | false =>
      rw [hp] at h
      simpa using ih h

variable {s : State} {r : Req} {c : Ctx}

/-- The reply of a request that no longer waits at a pseudo-channel (R90, R217). -/
theorem State.reply_found {ok : ReqKind → Bool} (hfind : s.reqs.find? (fun q => q.id == r.id) = some r)
    (hchan : s.atChannel (.request r.id) = false) (hok : ok r.kind = true) :
    s.reply r.id ok = { s.updWave r.wave (fun w => w.install r.id r.fills) with reqs := s.reqs.filter (fun q => q.id != r.id) } := by
  have hboth := find?_and_of_find? (q := fun q => ok q.kind) hfind hok
  simp only [State.reply, hchan, hboth, Bool.false_eq_true, if_false]

/-- No mark waits under a request's name (R144). -/
theorem State.lateMark_none {id : Nat} (h : ∀ q ∈ s.waiting, q.id ≠ id) : s.lateMark id = s := by
  have hnone : s.waiting.find? (fun q => q.id == id && q.nums.length ≥ 4 && q.nums.headD 0 == lateMarks) = none :=
    List.find?_eq_none.mpr (fun q hq => by simp [h q hq])
  simp only [State.lateMark, hnone]

/-! ### Walks -/

/-- The words of a walk's lanes, as values of their registers (R157). -/
def walkFills (d : Nat) (rays : List (Nat × List Nat)) (words : Nat → List Nat) : List Fill :=
  rays.flatMap (fun p => (List.range 8).map (fun j => { lane := p.1, code := d + j, val := BitVec.ofNat 64 ((words p.1).getD j 0) }))

/-- A walk of which nothing is held and whose every lane ends (R154 to R157). -/
theorem endWalk_ended {any : Bool} {d : Nat} {rays : List (Nat × List Nat)} {words : Nat → List Nat}
    (hfind : s.reqs.find? (fun q => q.id == r.id) = some r) (hkind : r.kind = .walk any d rays) (hctx : s.ctx? (asidOf r.wave) = some c)
    (hchan : s.atChannel (.request r.id) = false) (hidle : s.idleGrid r.wave.team.grid = false)
    (hstall : ∀ h ∈ s.stalls, h.work ≠ (0, r.id)) (hheld : ∀ h ∈ s.heldBytes, h.work ≠ (0, r.id))
    (hends : ∀ p ∈ rays, walkLane (s.walkRead c r.wave.team.grid (s.viewOf r.wave) r.id []) any p.2 = .inl (words p.1)) :
    endWalk r.id s = { s.updWave r.wave (fun w => w.install r.id (walkFills d rays words)) with
      reqs := s.reqs.filter (fun q => q.id != r.id) } := by
  have hkept : ∀ p : Stall → Bool, s.stalls.filter (fun h => h.work == (0, r.id) && p h) = [] := fun _ =>
    List.filter_eq_nil_iff.mpr (fun h hh => by simp [hstall h hh])
  have hres : rays.map (fun p => (p.1, walkLane (s.walkRead c r.wave.team.grid (s.viewOf r.wave) r.id []) any p.2)) =
      rays.map (fun p => (p.1, (Sum.inl (words p.1) : List Nat ⊕ WalkEnd))) :=
    List.map_congr_left (fun p hp => by rw [hends p hp])
  simp only [endWalk, hfind, hkind, hctx, hidle, hchan, hkept, State.unstall_none hstall, State.dropBytes_none hheld hstall, List.map_nil, hres]
  simp [List.any_map, List.flatMap_map, List.filterMap_map, Function.comp_def, State.dataError, walkFills]

/-! ### Deferred updates -/

/-- Pushing events changes what is due and nothing else. -/
theorem foldl_pushDue_eq {α : Type} (l : List α) (g : α → Instr) (s : State) :
    l.foldl (fun s x => s.pushDue (g x)) s = { s with due := (l.foldl (fun s x => s.pushDue (g x)) s).due } := by
  induction l generalizing s with
  | nil => rfl
  | cons a l ih => rw [List.foldl_cons, ih]; rfl

/-- The state in which an update is no longer in flight, with the transfers that sent it due to complete (R266, R476). -/
noncomputable def State.landed (s : State) (id : Nat) (t : TeamId) (u : Update) : State :=
  (s.xfers.filter (fun x => x.sent t u)).foldl (fun s x => s.pushDue (.transferCompletion x.id))
    ({ s with updates := s.updates.filter (fun u => u.2.2.1 != id) } : State)

/-- A state with other updates in flight and other events due. -/
noncomputable def State.withQueues (s : State) (ups : List (GridId × TeamId × Nat × Update)) (evs : List Instr) : State :=
  { s with updates := ups, due := evs }

theorem State.landed_eq (s : State) (id : Nat) (t : TeamId) (u : Update) :
    s.landed id t u = s.withQueues (s.updates.filter (fun u => u.2.2.1 != id)) (s.landed id t u).due :=
  foldl_pushDue_eq _ _ _

section
variable (ups : List (GridId × TeamId × Nat × Update)) (evs : List Instr)

/-- Translation does not look at the updates in flight or at the events that are due (R226, R231). -/
theorem State.walk_queues (s : State) (va fuel level table : Nat) :
    (s.withQueues ups evs).walk va fuel level table = s.walk va fuel level table := by
  induction fuel generalizing level table with
  | zero => rfl
  | succ fuel ih => rw [State.walk, State.walk]; simp only [ih]; rfl

theorem State.entryPa_queues (s : State) (va fuel level table : Nat) :
    (s.withQueues ups evs).entryPa va fuel level table = s.entryPa va fuel level table := by
  induction fuel generalizing level table with
  | zero => rfl
  | succ fuel ih => rw [State.entryPa, State.entryPa]; simp only [ih]; rfl

theorem State.walkFor_queues (s : State) (c : Ctx) (va : Nat) : (s.withQueues ups evs).walkFor c va = s.walkFor c va := by
  simp only [State.walkFor, State.walk_queues]
  rfl

theorem State.xlate_queues (s : State) (c : Ctx) (own : Option (Nat × Nat)) (va n : Nat) (acc : Acc) :
    (s.withQueues ups evs).xlate c own va n acc = s.xlate c own va n acc := by
  unfold State.xlate
  rw [State.walkFor_queues, State.entryPa_queues]
  rfl

/-- The home line of an update is its line's, whatever else is in flight. -/
theorem State.homeLine_queues (s : State) (g : GridId) (va : Nat) : (s.withQueues ups evs).homeLine g va = s.homeLine g va := by
  simp only [State.homeLine, State.xlate_queues]
  rfl

end

/-- An update whose team is there and whose line holds fewer than 16 (R266). -/
theorem arriveUpdate_held {g : GridId} {t : TeamId} {id : Nat} {u : Update} {gr : Grid} {tm : Team}
    (hfind : s.updates.find? (fun u => u.2.2.1 == id) = some (g, t, id, u)) (hg : s.grid? g = some gr) (hc : s.ctx? g.asid = some c)
    (ht : s.team? t = some tm) (hroom : cellGet 0 gr.heldLines (s.homeLine g u.va) < 16) :
    arriveUpdate id s = ((s.landed id t u).updGrid g (fun g' => { g' with
      heldLines := cellSet 0 g'.heldLines (s.homeLine g u.va) (cellGet 0 gr.heldLines (s.homeLine g u.va) + 1) })).updTeam t
      (fun t => { t with updates := t.updates ++ [u] }) := by
  have hg' : (s.landed id t u).grid? g = some gr := by rw [State.landed_eq]; exact hg
  have hc' : (s.landed id t u).ctx? g.asid = some c := by rw [State.landed_eq]; exact hc
  have hline : (s.landed id t u).homeLine g u.va = s.homeLine g u.va := by
    rw [State.landed_eq, State.homeLine_queues]
  have ht' : ∀ h, ((s.landed id t u).updGrid g h).team? t = some tm := fun h => by rw [State.landed_eq]; exact ht
  have hfull : ¬ cellGet 0 gr.heldLines (s.homeLine g u.va) ≥ 16 := by omega
  have hland : (s.xfers.filter (fun x => x.sent t u)).foldl (fun s x => s.pushDue (.transferCompletion x.id))
      ({ s with updates := s.updates.filter (fun u => u.2.2.1 != id) } : State) = s.landed id t u := rfl
  simp only [arriveUpdate, hfind, hland, hg', hc', hline, hfull, ht', decide_false, Bool.false_and, Bool.false_eq_true, if_false, Option.isSome_some, if_true]

/-! ### Waiting fills -/

theorem Ctx.proc?_updProc_self {n : Nat} {p : ProcRange} (f : ProcRange → ProcRange) (h : c.proc? n = some p) :
    (c.updProc n f).proc? n = some (f p) := by
  unfold Ctx.proc? Ctx.updProc at *
  obtain ⟨q, hq, rfl⟩ := Option.map_eq_some_iff.mp h
  have hn : q.1 = n := by simpa using List.find?_some hq
  have hfind := find?_map_upd c.procs (fun q => q.1 == n) (fun q => q.1 == n) (fun q => q.1 = n) (fun q => (q.1, f q.2))
    (fun q => by split <;> rfl) rfl
  simp only at hfind ⊢
  rw [hfind, hq]
  simp [hn]

/-- The state in which the first of a range's waiting fills waits no longer. -/
noncomputable def State.nextFill (s : State) (asid n : Nat) (rest : List (Nat × Nat)) : State :=
  s.updCtx asid (fun c => c.updProc n (fun p => { p with waiting := rest }))

/-- A fill that has waited and finds a free frame takes it (R244). -/
theorem fillWaiting_takes {n k prio f : Nat} {p : ProcRange} {rest : List (Nat × Nat)} (hc : s.ctx? c.asid = some c)
    (hp : c.proc? n = some p) (hw : p.waiting = (k, prio) :: rest)
    (hfree : ∀ c1 p1, (s.nextFill c.asid n rest).ctx? c.asid = some c1 → c1.proc? n = some p1 →
      (s.nextFill c.asid n rest).freeFrame p1 = some f)
    (hleft : ∀ c2 q, ((s.nextFill c.asid n rest).generate c.asid n k f prio).ctx? c.asid = some c2 → c2.proc? n = some q →
      ∀ x ∈ q.waiting, x.1 ≠ k) :
    fillWaiting c.asid n s = ((s.nextFill c.asid n rest).generate c.asid n k f prio).pushDue (.fillFrameAvailable c.asid n) := by
  have hc1 : (s.nextFill c.asid n rest).ctx? c.asid = some (c.updProc n (fun p => { p with waiting := rest })) :=
    State.ctx?_updCtx_self _ (fun _ => rfl) hc
  have hp1 : (c.updProc n (fun p => { p with waiting := rest })).proc? n = some { p with waiting := rest } :=
    Ctx.proc?_updProc_self (fun p => { p with waiting := rest }) hp
  have htake : (s.nextFill c.asid n rest).takeFrame c.asid n k prio = (s.nextFill c.asid n rest).generate c.asid n k f prio := by
    simp only [State.takeFrame, hc1, Option.bind_some, hp1, hfree _ _ hc1 hp1]
  simp only [State.nextFill] at htake hleft ⊢
  simp only [fillWaiting, hc, Option.bind_some, hp, hw, htake]
  refine if_neg ?_
  split
  next q hq =>
    obtain ⟨c2, hc2, hq⟩ := Option.bind_eq_some_iff.mp hq
    rw [any_false (fun x hx => by simpa using hleft c2 q hc2 hq x hx)]
    exact Bool.false_ne_true
  next => exact Bool.false_ne_true

/-- Settles O54: each clause is one event's own case. -/
theorem repliesAndUpdates : Obligations.RepliesAndUpdates := by
  unfold Obligations.RepliesAndUpdates
  intro s r c
  refine ⟨fun hfind hheld hchan => ⟨?load, ?atomic, ?texture⟩, ?walk, ?update, ?merge, ?fill⟩
  case load =>
    intro hk
    exact commit_eq ((if_neg (by simp [hheld])).trans (State.reply_found hfind hchan (by simp [hk])))
  case atomic =>
    intro hk
    exact commit_eq ((if_neg (by simp [hheld])).trans (State.reply_found hfind hchan (by simpa using hk)))
  case texture =>
    intro hk hmark
    refine commit_eq ?_
    rw [State.reply_found hfind hchan (by simp [hk])]
    exact State.lateMark_none hmark
  case walk =>
    intro any d rays words hfind hkind hctx hchan hidle hstall hheld hends
    exact commit_eq (endWalk_ended hfind hkind hctx hchan hidle hstall hheld hends)
  case update =>
    intro g t id u gr tm hfind hg hc hfirst ht line hroom
    exact commit_eq ((if_pos hfirst).trans (arriveUpdate_held hfind hg hc ht hroom))
  case merge =>
    intro g hidle hmerged hdone
    refine commit_eq ?_
    have hpair : s.mergeGrid g = ((s.mergeGrid g).1, true) := by rw [← hdone]
    unfold performMerge
    rw [hidle, hmerged, hpair]
    rfl
  case fill =>
    intro n p k prio rest f hc hp hw s1 hfree s2 hleft
    exact commit_eq (fillWaiting_takes hc hp hw hfree hleft)

end Sys2Proof.Machine
end

section
/-!
SUPPORT. `LD`: what it delivers of each space (R443 to R445), the request that will fill its V registers, and the reply that fills them
(R90).
-/
namespace Sys2Proof.Machine

/-! ### What `LD` delivers -/

section
variable {f : FmtM} {x : Iss} {s : State} {t : Team}

/-- A value for the V registers is delivered by a request, which no wait at a pseudo-channel holds back (R217). -/
theorem atOnce_of_v {code : Nat} (h : noneHeld x) (hv : code < 320) : AtOnce x s code := ⟨h, fun h384 => absurd (h384.trans_lt hv) (by decide)⟩

variable (hat : AtOnce x s f.ds.toNat) (halign : ∀ l ∈ x.lanes, effAddr x l f % 2 ^ f.wd.toNat = 0)
include hat halign

/-- `LD` of global memory, in the team's view (R444). -/
theorem semLd_global {c : Ctx} {pas : Nat → List (Nat × Nat)} (hsp : f.sp = 0)
    (hr : Reaches x s (x.accs (effAddr x · f) (2 ^ f.wd.toNat)) .read (fun _ _ => false) pas c)
    (hread : Readable s (x.accs (effAddr x · f) (2 ^ f.wd.toNat)) pas) :
    semLd f x s = .go (s.deliver x.wid .load f.ds.toNat
      (x.lanes.map (fun l => (l, s.viewBytes (s.viewOf x.wid) (effAddr x l f) (pas l))))
      (s.toks x.w.core (x.accs (effAddr x · f) (2 ^ f.wd.toNat)))) [] := by
  have hspace : f.sp.toNat = 0 := by rw [hsp]; rfl
  rw [semLd, orAnswer_atOnce hat]
  simp only [map_lanes_accs, misaligned_accs halign, hspace, hr.phase_allGo, allGo_s, allGo_go, allGo_stay, allGo_held,
    readable_none hread, dataCheckTo, slots_allGo, holdAll_allGo, awaits_nil, List.append_nil]
  rw [List.map_map, map_accs]
  rfl

/-- `LD` of scratch (R443). -/
theorem semLd_scratch (hsp : f.sp = 1) (ht : s.team? x.wid.team = some t)
    (hin : ∀ l ∈ x.lanes, effAddr x l f + 2 ^ f.wd.toNat ≤ s.scratchSize x.wid)
    (hpool : poolCheck x t 1 (x.accs (effAddr x · f) (2 ^ f.wd.toNat)) = none) :
    semLd f x s = .go (s.deliver x.wid .load f.ds.toNat
      (x.lanes.map (fun l => (l, t.scratchBytes (effAddr x l f) (2 ^ f.wd.toNat))))) [] := by
  have hspace : f.sp.toNat = 1 := by rw [hsp]; rfl
  rw [semLd, orAnswer_atOnce hat]
  simp only [map_lanes_accs, misaligned_accs halign, hspace, beyond_accs hin, ht, hpool, map_accs]

/-- `LD` of the bay's tiles (R178, R443). -/
theorem semLd_tiles (hsp : f.sp = 2) (ht : s.team? x.wid.team = some t)
    (hin : ∀ l ∈ x.lanes, effAddr x l f + 2 ^ f.wd.toNat ≤ s.tiles x.wid * 16384)
    (hpool : poolCheck x t (2 + x.w.bay) (x.accs (effAddr x · f) (2 ^ f.wd.toNat)) = none)
    (hfree : ∀ l ∈ x.lanes, s.tileBusy x.wid.team x.w.core x.w.bay (effAddr x l f / 16384)
      (tileBefore s x.w l (effAddr x l f / 16384)) = false) :
    semLd f x s = .go (s.deliver x.wid .load f.ds.toNat
      (x.lanes.map (fun l => (l, t.accBytes (s.tiles x.wid) x.w.bay (effAddr x l f) (2 ^ f.wd.toNat))))) [] := by
  have hspace : f.sp.toNat = 2 := by rw [hsp]; rfl
  have hall : (x.accs (effAddr x · f) (2 ^ f.wd.toNat)).filter (fun a => !([] : List (Nat × Nat)).any (fun p => p.1 == a.lane)) =
      x.accs (effAddr x · f) (2 ^ f.wd.toNat) := List.filter_eq_self.mpr fun _ _ => rfl
  rw [semLd, orAnswer_atOnce hat]
  simp only [map_lanes_accs, misaligned_accs halign, hspace, beyond_accs hin, ht, tileWaits_none hfree, hall, hpool, blockTiles_nil, map_accs]

end

/-! ### The words of an access -/

/-- Word `i` of some bytes, little-endian; a last short word is zero-extended (R444). -/
def wordAt (bs : List Byte) (i : Nat) : Word := BitVec.ofNat 32 (ofBytes ((bs.drop (4 * i)).take 4))

theorem getElem?_wordsOf (k : Nat) (bs : List Byte) (i : Nat) :
    (wordsOf k bs)[i]? = if i < k ∧ 4 * i < bs.length then some (wordAt bs i) else none := by
  induction k generalizing bs i with
  | zero => simp [wordsOf]
  | succ k ih =>
    cases bs with
    | nil => simp [wordsOf]
    | cons b bs =>
      cases i with
      | zero => simp [wordsOf, wordAt]
      | succ i =>
        have hdrop : wordAt ((b :: bs).drop 4) i = wordAt (b :: bs) (i + 1) := by
          rw [wordAt, wordAt, List.drop_drop, Nat.add_comm 4 (4 * i)]; rfl
        have hlen : 4 * i < ((b :: bs).drop 4).length ↔ 4 * (i + 1) < (b :: bs).length := by
          rw [List.length_drop]; omega
        have hcons : wordsOf (k + 1) (b :: bs) = wordAt (b :: bs) 0 :: wordsOf k ((b :: bs).drop 4) := rfl
        rw [hcons, List.getElem?_cons_succ, ih, hdrop]
        simp only [hlen, Nat.add_lt_add_iff_right]

/-- The fills of a lane are its words, in registers one after the other. -/
theorem mem_fillsOf (l code : Nat) (bs : List Byte) (fl : Fill) : fl ∈ fillsOf l code bs ↔
    ∃ i, 4 * i < bs.length ∧ fl = { lane := l, code := code + i, val := (wordAt bs i).setWidth 64 } := by
  have hword : ∀ i, i < (wordsOf bs.length bs).length ↔ 4 * i < bs.length := fun i => by
    rw [← not_iff_not, Nat.not_lt, ← List.getElem?_eq_none_iff, getElem?_wordsOf]
    split <;> simp <;> omega
  have hget : ∀ i, 4 * i < bs.length → (wordsOf bs.length bs).getD i 0 = wordAt bs i := fun i hi => by
    rw [List.getD_eq_getElem?_getD, getElem?_wordsOf, if_pos ⟨by omega, hi⟩, Option.getD_some]
  simp only [fillsOf, List.mem_map, List.mem_range, hword]
  exact exists_congr fun i => and_congr_right fun hi => by rw [hget i hi, eq_comm]

/-! ### A request marks its registers -/

/-- Registers marked for a request carry its name. -/
theorem Wave.mem_markEmpty (w : Wave) {l r n i : Nat} (req : Nat) (hi : i < n) :
    (vkey l (r + i), req) ∈ (w.markEmpty l r n req).empties :=
  List.mem_append_right _ (List.mem_map_of_mem (List.mem_map_of_mem (List.mem_range.mpr hi)))

/-- Marking further registers for the same request takes no mark of it away. -/
theorem Wave.mem_markEmpty_of {w : Wave} {key req : Nat} (h : (key, req) ∈ w.empties) (l r n : Nat) :
    (key, req) ∈ (w.markEmpty l r n req).empties := by
  by_cases hkey : key ∈ (List.range n).map (fun i => vkey l (r + i))
  · exact List.mem_append_right _ (List.mem_map_of_mem hkey)
  · exact List.mem_append_left _ (List.mem_filter.mpr ⟨h, by simp [hkey]⟩)

/-- The registers of every lane that a request will fill carry its name. -/
theorem Wave.mem_markAll (ls : List Nat) {l r n req i : Nat} (hi : i < n) (w : Wave)
    (h : l ∈ ls ∨ (vkey l (r + i), req) ∈ w.empties) :
    (vkey l (r + i), req) ∈ (ls.foldl (fun w l => w.markEmpty l r n req) w).empties := by
  induction ls generalizing w with
  | nil => simpa using h
  | cons a as ih =>
    refine ih _ ?_
    obtain hmem | hempty := h
    · obtain rfl | has := List.mem_cons.mp hmem
      · exact .inr (Wave.mem_markEmpty w req hi)
      · exact .inl has
    · exact .inr (Wave.mem_markEmpty_of hempty a r n)

/-! ### A reply fills them -/

/-- One fill of a V register. -/
def Wave.fill (w : Wave) (fl : Fill) : Wave := w.setV fl.lane fl.code (fl.val.setWidth 32)

theorem Wave.foldl_fill_frame (fills : List Fill) (w : Wave) :
    (fills.foldl Wave.fill w).id = w.id ∧ ∀ l, (fills.foldl Wave.fill w).thread l = w.thread l := by
  induction fills generalizing w with
  | nil => exact ⟨rfl, fun _ => rfl⟩
  | cons fl fills ih => exact ih (w.fill fl)

/-- A V register after some fills that agree on what each register is to hold. -/
theorem Wave.vreg_foldl_fill {fills : List Fill} {word : Nat → Nat → Word} (hlane : ∀ fl ∈ fills, fl.lane < 32)
    (hword : ∀ fl ∈ fills, fl.val.setWidth 32 = word fl.lane fl.code) (w : Wave) {l r : Nat} (hl : l < 32)
    (h : (∃ fl ∈ fills, fl.lane = l ∧ fl.code = r) ∨ w.vreg l r = word l r) : (fills.foldl Wave.fill w).vreg l r = word l r := by
  induction fills generalizing w with
  | nil => simpa using h
  | cons a fills ih =>
    have ha := hlane a List.mem_cons_self
    refine ih (fun fl hfl => hlane fl (List.mem_cons_of_mem a hfl)) (fun fl hfl => hword fl (List.mem_cons_of_mem a hfl)) (w.fill a) ?_
    rw [Wave.fill, Wave.vreg_setV w _ _ _ ha hl]
    by_cases hhit : a.lane = l ∧ a.code = r
    · right
      rw [if_pos hhit, hword a List.mem_cons_self, hhit.1, hhit.2]
    · rw [if_neg hhit]
      obtain ⟨fl, hfl, hat⟩ | hold := h
      · obtain rfl | hfl := List.mem_cons.mp hfl
        · exact absurd hat hhit
        · exact .inl ⟨fl, hfl, hat⟩
      · exact .inr hold

/-- A reply writes every one of its V registers, where each is marked for it and no thread has ended (R90, R416). -/
theorem Wave.install_eq {w : Wave} {id : Nat} {fills : List Fill}
    (h : ∀ fl ∈ fills, fl.code < 320 ∧ (vkey fl.lane fl.code, id) ∈ w.empties ∧ (w.thread fl.lane).run ≠ .ended) :
    w.install id fills = fills.foldl Wave.fill { w with empties := w.empties.filter (fun p => p.2 != id) } := by
  have hmine : ∀ fl ∈ fills, ((w.empties.filter (fun p => p.2 == id)).map (·.1)).contains (vkey fl.lane fl.code) = true := fun fl hfl => by
    obtain ⟨-, hmark, -⟩ := h fl hfl
    exact List.elem_eq_true_of_mem (List.mem_map.mpr ⟨_, List.mem_filter.mpr ⟨hmark, by simp⟩, rfl⟩)
  have hfold : ∀ (fs : List Fill), (∀ fl ∈ fs, fl ∈ fills) → ∀ v : Wave, (∀ l, v.thread l = w.thread l) →
      fs.foldl (fun w' f => if f.code < 320 then
        (if ((w.empties.filter (fun p => p.2 == id)).map (·.1)).contains (vkey f.lane f.code) && (w'.thread f.lane).run != .ended
          then w'.setV f.lane f.code (f.val.setWidth 32) else w')
        else w'.writeReg f.lane f.code 2 f.val.toNat) v = fs.foldl Wave.fill v := by
    intro fs hfs v hv
    induction fs generalizing v with
    | nil => rfl
    | cons a fs ih =>
      obtain ⟨hcode, -, hrun⟩ := h a (hfs a List.mem_cons_self)
      rw [← hv] at hrun
      simp only [List.foldl_cons, hcode, hmine a (hfs a List.mem_cons_self), bne_iff_ne.mpr hrun, Bool.and_self, if_true]
      exact ih (fun fl hfl => hfs fl (List.mem_cons_of_mem a hfl)) (v.fill a) (fun l => hv l)
  exact hfold fills (fun _ hfl => hfl) _ (fun _ => rfl)

theorem Wave.install_id (w : Wave) (id : Nat) (fills : List Fill) : (w.install id fills).id = w.id := by
  unfold Wave.install
  generalize hv : ({ w with empties := w.empties.filter (fun p => p.2 != id) } : Wave) = v
  have hid : v.id = w.id := by rw [← hv]
  rw [← hid]
  clear hv hid
  dsimp only
  induction fills generalizing v with
  | nil => rfl
  | cons fl fills ih =>
    rw [List.foldl_cons, ih]
    split
    · split <;> rfl
    · exact Wave.writeReg_id _ _ _ _ _

/-! ### An aligned access is one piece -/

/-- An aligned access of a power of two up to 64 KiB crosses no 64 KiB boundary. -/
theorem pieces_aligned {va k : Nat} (fuel : Nat) (hk : k ≤ 16) (h : va % 2 ^ k = 0) : pieces (fuel + 1) va (2 ^ k) = [(va, 2 ^ k)] := by
  have hpos : 2 ^ k ≠ 0 := by positivity
  have hdvd : 2 ^ k ∣ 2 ^ 16 := Nat.pow_dvd_pow 2 hk
  have hlt : va % 2 ^ 16 < 2 ^ 16 := Nat.mod_lt _ (by positivity)
  have hfits : va % 2 ^ 16 + 2 ^ k ≤ 2 ^ 16 := by
    obtain ⟨a, ha⟩ := (Nat.dvd_mod_iff hdvd).mpr (Nat.dvd_of_mod_eq_zero h)
    obtain ⟨b, hb⟩ := hdvd
    rw [ha, hb] at hlt ⊢
    have hab : a < b := Nat.lt_of_mul_lt_mul_left hlt
    calc 2 ^ k * a + 2 ^ k = 2 ^ k * (a + 1) := by ring
      _ ≤ 2 ^ k * b := Nat.mul_le_mul_left _ hab
  simp only [pieces, if_neg hpos]
  exact if_pos (by omega)

/-- What is no fault of a first check is the answer of what follows it. -/
theorem XAll.ok_of_ite {p : Prop} [Decidable p] {phase cause va : Nat} {r : XAll} {pas : List (Nat × Nat)}
    (h : (if p then .fault phase cause va else r) = .ok pas) : r = .ok pas := by
  by_cases hp : p
  · rw [if_pos hp] at h; cases h
  · rwa [if_neg hp] at h

/-- An aligned access that translates has one piece, of its own length (R226). -/
theorem xlateAll_aligned {s : State} {c : Ctx} {own : Option (Nat × Nat)} {va k : Nat} {acc : Acc} {pas : List (Nat × Nat)} (hk : k ≤ 16)
    (h : va % 2 ^ k = 0) (hx : s.xlateAll c own va (2 ^ k) acc = .ok pas) : ∃ pa, pas = [(pa, 2 ^ k)] := by
  have hjoin : (pieces (2 ^ k / 2 ^ 16 + 2) va (2 ^ k)).foldr (fun p r => xjoin p.2 (s.xlate c own p.1 p.2 acc) r) (.ok []) = .ok pas :=
    XAll.ok_of_ite (XAll.ok_of_ite (XAll.ok_of_ite hx))
  rw [pieces_aligned _ hk h, List.foldr_cons] at hjoin
  cases hr : s.xlate c own va (2 ^ k) acc <;> rw [hr] at hjoin <;> cases hjoin
  exact ⟨_, rfl⟩

theorem length_viewBytes_single (s : State) (view : Option TeamId) (va pa n : Nat) : (s.viewBytes view va [(pa, n)]).length = n := by
  simp [State.viewBytes]

/-! ### The request of a load, and its reply -/

section
variable {x : Iss} {s : State} {code n : Nat} {bytes : Nat → List Byte}

/-- The state with a request of a wave, whose registers carry the request's name (R90). -/
noncomputable def State.requested (s : State) (r : Req) (code n : Nat) (ls : List Nat) : State :=
  { ({ s with nextId := s.nextId + 1 } : State).updWave r.wave (fun w => ls.foldl (fun w l => w.markEmpty l code n s.nextId) w) with
    reqs := s.reqs ++ [r] }

/-- A value for V registers is delivered by one request for all lanes. -/
theorem deliver_requested (hv : code < 320) {ls : List Nat} (hne : ls ≠ []) (hlen : ∀ l ∈ ls, (bytes l).length = n) (wid : WaveId)
    (kind : ReqKind) (slots : List SlotTok) :
    ∃ r : Req, r.id = s.nextId ∧ r.wave = wid ∧ r.kind = kind ∧ r.fills = ls.flatMap (fun l => fillsOf l code (bytes l)) ∧
      s.deliver wid kind code (ls.map (fun l => (l, bytes l))) slots = s.requested r code ((n + 3) / 4) ls := by
  obtain ⟨l, rest, rfl⟩ := List.exists_cons_of_ne_nil hne
  let s' := ({ s with nextId := s.nextId + 1 } : State).updWave wid
    (fun w => (l :: rest).foldl (fun w l => w.markEmpty l code ((n + 3) / 4) s.nextId) w)
  refine ⟨{ id := s.nextId, wave := wid, carry := s'.carryOf wid 1, core := s.coreOf wid, bay := s.bayOf wid, slots := slots, kind := kind,
            fills := (l :: rest).flatMap (fun l => fillsOf l code (bytes l)) }, rfl, rfl, rfl, rfl, ?_⟩
  have hfst : ((l :: rest).map (fun l => (l, bytes l))).map (·.1) = l :: rest := by simp [Function.comp_def]
  have hfl : ((l :: rest).map (fun l => (l, bytes l))).flatMap (fun v => fillsOf v.1 code v.2) =
      (l :: rest).flatMap (fun l => fillsOf l code (bytes l)) := List.flatMap_map _ _ _
  simp only [State.deliver, State.deliverOn, if_pos hv, hfst, hfl]
  simp only [List.map_cons, hlen l List.mem_cons_self, State.requestOn, State.newId, List.isEmpty_cons, Bool.false_eq_true, if_false]
  rfl

/-- A wave that went on with registers marked for a request. -/
noncomputable def Wave.marked (w : Wave) (ls : List Nat) (r n req : Nat) (group : List Nat) (pc : DWord) : Wave :=
  (ls.foldl (fun w l => w.markEmpty l r n req) w).goOn group pc

/-- The issuing wave once its load is requested. -/
theorem wave?_requested {r : Req} (hw : s.wave? x.wid = some x.w) (hwave : r.wave = x.wid) (ls : List Nat) :
    (wentOn x s (s.requested r code n ls) []).wave? x.wid = some (x.w.marked ls code n s.nextId x.group x.pc) := by
  have hmark : ∀ w : Wave, (ls.foldl (fun w l => w.markEmpty l code n s.nextId) w).id = w.id := fun w => by rw [Wave.markAll_eq]
  have hcounted : ({ s with nextId := s.nextId + 1 } : State).wave? x.wid = some x.w := hw
  rw [wentOn_all, State.requested, hwave]
  exact State.wave?_updWave_self _ (fun w => Wave.goOn_id w _ _) (State.wave?_updWave_self _ hmark hcounted)

/-- A request with a new name is the one found by its name. -/
theorem find?_requested {r : Req} (hid : r.id = s.nextId) (hnew : ∀ q ∈ s.reqs, q.id ≠ s.nextId) (ls : List Nat) :
    (wentOn x s (s.requested r code n ls) []).reqs.find? (fun q => q.id == r.id) = some r := by
  have hnone : s.reqs.find? (fun q => q.id == r.id) = none := List.find?_eq_none.mpr (fun q hq => by simp [hid, hnew q hq])
  have hreqs : (wentOn x s (s.requested r code n ls) []).reqs = s.reqs ++ [r] := rfl
  rw [hreqs, List.find?_append, hnone]
  simp

/-- The registers marked for a request are empty until its reply (R90). -/
theorem Wave.anyEmpty_marked (w : Wave) {ls : List Nat} (hn : 0 < n) (req : Nat) (group : List Nat) (pc : DWord) {l : Nat} (hl : l ∈ ls) :
    (w.marked ls code n req group pc).anyEmpty l code n = true := by
  rw [Wave.marked, Wave.goOn_eq]
  exact Wave.anyEmpty_markAll ls hn w (.inl hl)

/-- The words that a reply of `bytes` puts into the registers from `code` on (R444). -/
def loadWord (code : Nat) (bytes : Nat → List Byte) (l r : Nat) : Word := wordAt (bytes l) (r - code)

/-- After the reply the registers of each lane hold its bytes, low word first (R444). -/
theorem Wave.vreg_install_marked {w : Wave} {ls group : List Nat} (req : Nat) (pc : DWord) (hv : code + (n + 3) / 4 ≤ 320)
    (hlt : ∀ l ∈ ls, l < 32) (hrun : ∀ l ∈ ls, (w.thread l).run ≠ .ended) (hgroup : group.Nodup)
    (hlen : ∀ l ∈ ls, (bytes l).length = n) {l k : Nat} (hl : l ∈ ls) (hk : k < (n + 3) / 4) :
    ((w.marked ls code ((n + 3) / 4) req group pc).install req (ls.flatMap (fun l => fillsOf l code (bytes l)))).vreg l (code + k) =
      wordAt (bytes l) k := by
  have hfill : ∀ fl ∈ ls.flatMap (fun l => fillsOf l code (bytes l)), fl.lane ∈ ls ∧ ∃ i, i < (n + 3) / 4 ∧ fl.code = code + i ∧
      fl.val = (wordAt (bytes fl.lane) i).setWidth 64 := by
    intro fl hfl
    obtain ⟨a, ha, hmem⟩ := List.mem_flatMap.mp hfl
    obtain ⟨i, hi, rfl⟩ := (mem_fillsOf a code (bytes a) fl).mp hmem
    rw [hlen a ha] at hi
    exact ⟨ha, i, by omega, rfl, rfl⟩
  have hthread : ∀ a ∈ ls, ((w.marked ls code ((n + 3) / 4) req group pc).thread a).run ≠ .ended := by
    intro a ha
    have hsame : (ls.foldl (fun w l => w.markEmpty l code ((n + 3) / 4) req) w).thread a = w.thread a := by
      rw [Wave.markAll_eq]; rfl
    rw [Wave.marked, Wave.thread_goOn _ hgroup, hsame]
    split
    · simp [hrun a ha]
    · exact hrun a ha
  have hwhere : ∀ fl ∈ ls.flatMap (fun l => fillsOf l code (bytes l)), fl.code < 320 ∧
      (vkey fl.lane fl.code, req) ∈ (w.marked ls code ((n + 3) / 4) req group pc).empties ∧
      ((w.marked ls code ((n + 3) / 4) req group pc).thread fl.lane).run ≠ .ended := by
    intro fl hfl
    obtain ⟨hlane, i, hi, hcode, -⟩ := hfill fl hfl
    refine ⟨by omega, ?_, hthread _ hlane⟩
    rw [hcode, Wave.marked, Wave.goOn_eq]
    exact Wave.mem_markAll ls hi w (.inl hlane)
  have hval : ∀ fl ∈ ls.flatMap (fun l => fillsOf l code (bytes l)), fl.val.setWidth 32 = loadWord code bytes fl.lane fl.code := by
    intro fl hfl
    obtain ⟨-, i, -, hcode, hval⟩ := hfill fl hfl
    rw [hval, loadWord, hcode, Nat.add_sub_cancel_left, BitVec.setWidth_setWidth_of_le _ (by omega), BitVec.setWidth_eq]
  have hmine : ∃ fl ∈ ls.flatMap (fun l => fillsOf l code (bytes l)), fl.lane = l ∧ fl.code = code + k :=
    ⟨_, List.mem_flatMap.mpr ⟨l, hl, (mem_fillsOf l code (bytes l) _).mpr ⟨k, by rw [hlen l hl]; omega, rfl⟩⟩, rfl, rfl⟩
  rw [Wave.install_eq hwhere, Wave.vreg_foldl_fill (fun fl hfl => hlt _ (hfill fl hfl).1) hval _ (hlt l hl) (.inl hmine), loadWord,
    Nat.add_sub_cancel_left]

end

/-- The bytes that an aligned access of global memory reads are as many as it names. -/
theorem length_viewBytes_aligned {x : Iss} {s : State} {f : FmtM} {c : Ctx} {pas : Nat → List (Nat × Nat)} (view : Option TeamId)
    (halign : ∀ l ∈ x.lanes, effAddr x l f % 2 ^ f.wd.toNat = 0)
    (hr : Reaches x s (x.accs (effAddr x · f) (2 ^ f.wd.toNat)) .read (fun _ _ => false) pas c) {l : Nat} (hl : l ∈ x.lanes) :
    (s.viewBytes view (effAddr x l f) (pas l)).length = 2 ^ f.wd.toNat := by
  obtain ⟨hx, -⟩ := hr.each { lane := l, va := effAddr x l f, n := 2 ^ f.wd.toNat } (List.mem_map_of_mem hl)
  obtain ⟨pa, hpa⟩ := xlateAll_aligned (Nat.le_of_lt f.wd.isLt) (halign l hl) hx
  rw [show pas l = [(pa, 2 ^ f.wd.toNat)] from hpa]
  exact length_viewBytes_single ..

/-- Some lane executes a load. -/
theorem Issues.lanes_ne_nil {i : Instr} {h : Hdr} {s : State} {x : Iss} (H : Issues i h s x) : x.lanes ≠ [] := by
  rw [H.lanes]
  split
  · simpa using H.active
  · exact H.active

/-- Settles O40: each space's bytes are delivered, and a reply fills the registers that the request marked. -/
theorem loadsDeliver : Obligations.LoadsDeliver := by
  unfold Obligations.LoadsDeliver
  refine ⟨?spaces, ?reply⟩
  case spaces =>
    intro f s x t c pas n va tiles gives H halign ht hat
    refine ⟨?global, ?scratch, ?tiles⟩
    case global => exact fun hsp hr hread => issue_go (semLd f) H (semLd_global hat halign hsp hr hread)
    case scratch => exact fun hsp hin hpool => issue_go (semLd f) H (semLd_scratch hat halign hsp ht hin hpool)
    case tiles => exact fun hsp hin hpool hfree => issue_go (semLd f) H (semLd_tiles hat halign hsp ht hin hpool hfree)
  case reply =>
    intro f s x t c pas n va H hlanes ht hsp hnone hv hend hr hread hnew hheld hchan
    have halign : ∀ l ∈ x.lanes, va l % n = 0 := fun l hl => (hlanes l hl).1
    have hlen : ∀ l ∈ x.lanes, (s.viewBytes (s.viewOf x.wid) (va l) (pas l)).length = n := fun _ =>
      length_viewBytes_aligned _ halign hr
    obtain ⟨r, hid, hwave, hkind, hfills, hreq⟩ := deliver_requested (s := s)
      (bytes := fun l => s.viewBytes (s.viewOf x.wid) (va l) (pas l)) hv H.lanes_ne_nil hlen x.wid .load (s.toks x.w.core (x.accs va n))
    let u := wentOn x s (s.requested r f.ds.toNat ((n + 3) / 4) x.lanes) []
    have hld : exec (.ld f) s = .next u :=
      issue_go (semLd f) H ((semLd_global (atOnce_of_v hnone hv) halign hsp hr hread).trans (by rw [hreq]))
    have hheldU : u.heldReq s.nextId = false := hheld
    have hchanU : u.atChannel (.request r.id) = false := by rw [hid]; exact hchan
    let filled := { u.updWave r.wave (fun w => w.install r.id r.fills) with reqs := u.reqs.filter (fun q => q.id != r.id) }
    have hreply : exec (.loadReply s.nextId) u = .next (drained u filled) := commit_eq ((if_neg (by simp [hheldU])).trans
      ((congrArg (u.reply · _) hid.symm).trans
        (State.reply_found (find?_requested hid hnew x.lanes) hchanU (by simp [hkind]))))
    have hmarked : u.wave? x.wid = some (x.w.marked x.lanes f.ds.toNat ((n + 3) / 4) s.nextId x.group x.pc) :=
      wave?_requested H.wave hwave x.lanes
    have hfilled : (drained u filled).wave? x.wid = some ((x.w.marked x.lanes f.ds.toNat ((n + 3) / 4) s.nextId x.group x.pc).install
        s.nextId (x.lanes.flatMap (fun l => fillsOf l f.ds.toNat (s.viewBytes (s.viewOf x.wid) (va l) (pas l))))) := by
      rw [← hfills, ← hid]
      rw [← hid] at hmarked
      rw [← hwave] at hmarked ⊢
      exact State.wave?_updWave_self _ (fun w => Wave.install_id w _ _) hmarked
    have hwords : 0 < (n + 3) / 4 := Nat.div_pos (Nat.add_le_add_right (Nat.two_pow_pos f.wd.toNat) 3) (by decide)
    exact ⟨u, _, hld, hreply, ⟨_, hmarked, fun l hl => Wave.anyEmpty_marked x.w hwords _ _ _ hl⟩, ⟨_, hfilled, fun l hl k hk =>
      Wave.vreg_install_marked s.nextId x.pc hend (fun _ => H.lanes_lt) (fun l hl => (hlanes l hl).2) H.group_nodup hlen hl hk⟩⟩

end Sys2Proof.Machine
end
